-- ==== Sys2Proof/Word.lean ====
section
/-! DEFINITION. The word types of the coordinator's lines and counters.

Only what the manual treats as bits is a bit vector: characters and fields of a frame (R166, R188), the
wrapping edge counts (R3), the wrapping scan and period numbers (R1, R79), the generation (R54) and the
12-bit converter values (R2). Every other quantity is a `Nat`, an `Int` or a name. -/

namespace Sys2Proof

/-- One character of a serial frame (R166). -/
abbrev Byte := BitVec 8

/-- A two-byte field of a frame (R188), and the envelope generation, modulo 65536 (R54). -/
abbrev Half := BitVec 16

/-- A four-byte field of a frame (R188), an edge count (R3), a scan number (R1) or a period number (R79). -/
abbrev Word := BitVec 32

/-- A value of the 12-bit converter (R2). -/
abbrev Sample := BitVec 12

end Sys2Proof
end

