-- ==== Sys2Proof/Syntax.lean ====
section
/-! DEFINITION. The commands the coordinator takes, one constructor for each row of spec/opcode_table.json,
and the request a frame carries.

A row that is a station request carries the port it comes on and its fields as they stand on the line
(R188, R189), before any clamping: what a value outside its range does is the meaning's business. -/

namespace Sys2Proof

/-! ### The names the commands use -/

/-- The four motions, in the order of the brake, feedback and run-enable lines. -/
inductive Motion where
  | hoist | drag | swing | walk
  deriving DecidableEq, Repr

/-- One thing for each motion. -/
structure PerMotion (α : Type) where
  hoist : α
  drag : α
  swing : α
  walk : α
  deriving DecidableEq, Repr

/-- The three dig motions, which the working envelope restrains (R45). -/
inductive DigMotion where
  | hoist | drag | swing
  deriving DecidableEq, Repr

/-- One thing for each dig motion. -/
structure PerDig (α : Type) where
  hoist : α
  drag : α
  swing : α
  deriving DecidableEq, Repr

/-- The three generator groups. -/
inductive Group where
  | hg | dg | sg
  deriving DecidableEq, Repr

/-- One thing for each generator group. -/
structure PerGroup (α : Type) where
  hg : α
  dg : α
  sg : α
  deriving DecidableEq, Repr

/-- The three station ports. -/
inductive Port where
  | a | b | c
  deriving DecidableEq, Repr

/-- One thing for each port. -/
structure PerPort (α : Type) where
  a : α
  b : α
  c : α
  deriving DecidableEq, Repr

/-- The encoder channels 0 to 4, in the order of their numbers. -/
inductive EncoderId where
  | hoistPayout | dragPayout | swingAngle | camLeft | camRight
  deriving DecidableEq, Repr

/-- One thing for each encoder channel. -/
structure PerEncoder (α : Type) where
  hoistPayout : α
  dragPayout : α
  swingAngle : α
  camLeft : α
  camRight : α
  deriving DecidableEq, Repr

/-- The analog channels 5 to 9, in the order of their numbers. -/
inductive AnalogId where
  | hgCurrent | dgCurrent | sgCurrent | boomLoad | supplyVoltage
  deriving DecidableEq, Repr

/-- One thing for each analog channel. -/
structure PerAnalog (α : Type) where
  hgCurrent : α
  dgCurrent : α
  sgCurrent : α
  boomLoad : α
  supplyVoltage : α
  deriving DecidableEq, Repr

/-! ### Parts of a payload -/

/-- The seven fields of a profile (R60). -/
structure ProfileFields (α : Type) where
  accel : α
  decel : α
  ceiling : α
  creep : α
  dwell : α
  releaseDelay : α
  idleSet : α
  deriving DecidableEq, Repr

/-- The extent of a zone: its sector and its two payout ranges (R36). -/
structure ZoneBox (α : Type) where
  sectorFrom : α
  sectorTo : α
  hoistLo : α
  hoistHi : α
  dragLo : α
  dragHi : α
  deriving DecidableEq, Repr

/-- The margins and bands of a KEEP-OUT zone (R36). -/
structure Margins (α : Type) where
  swingMargin : α
  swingBand : α
  ropeMargin : α
  ropeBand : α
  deriving DecidableEq, Repr

/-- The zone entry an EDIT-ZONE carries, as it stands on the line (R189). -/
inductive ZoneBody where
  /-- The unused entry. -/
  | unused
  | keepOut (box : ZoneBox Half) (margins : Margins Half)
  /-- A SLOW zone: its presence byte and its three slow caps. -/
  | slow (box : ZoneBox Half) (presence : Byte) (caps : PerDig Half)
  | warnOnly (box : ZoneBox Half)
  /-- An entry whose length is not the one its kind requires, or whose kind cannot be named: a KEEP-OUT
  without its margins and bands, a zone with fields its kind leaves absent, an unknown kind (R189, R51). -/
  | misfit (bytes : List Byte)
  deriving DecidableEq, Repr

/-- The fields of a CALIBRATION write, in the shape the channel's kind gives them (R189). -/
inductive CalBody where
  | encoder (offset scale : Word) (maxStep : Half)
  | analog (offset gain low high : Half)
  deriving DecidableEq, Repr

/-- The fields of a SHARING write (R189): budgets NORMAL, LOW, SAG; the weights; the length of the shed
order and its four entries. -/
structure SharingBody where
  normal : Half
  low : Half
  sag : Half
  weights : PerMotion Half
  shedLength : Byte
  shed0 : Byte
  shed1 : Byte
  shed2 : Byte
  shed3 : Byte
  deriving DecidableEq, Repr

/-! ### The request a frame carries -/

/-- A request as a port holds it (R168, R170): a kind of the catalogue with its payload, or what the port
itself refuses. -/
inductive Request where
  /-- A kind outside the catalogue (R170, check 1). -/
  | unknownKind (kind : Byte)
  /-- A kind of the catalogue with a length it does not have (R170, check 3). -/
  | badLength (kind : Byte) (payload : List Byte)
  | readStatus
  | motionRequest (mark : Byte) (refs : PerMotion Half)
  | modeRequest (mode : Byte)
  | stopAll
  | ackAlarm (code source : Byte)
  | readAlarms (start count : Byte)
  | clearOverrun
  | readMeasurements
  | readReferences
  | transferReport (mark result : Byte)
  | driveState (values : PerGroup Byte)
  | readSetting (group which : Byte)
  | writeProfile (profile presence : Byte) (fields : ProfileFields Half)
  | writeAssociation (names : PerMotion Byte)
  | writeCalibration (channel : Byte) (body : CalBody)
  | writeSupplyBands (t1 t2 t3 : Half)
  | writeBoomBands (g h o heavyCap : Half)
  | writeCurrentTrip (levels : PerGroup Half) (counts : PerGroup Byte)
  | writeSharing (body : SharingBody)
  | writeWalk (restFrom restTo : Half) (gain trip : Byte)
  | writeGate (confirm : Byte)
  | writeSequencer (timeout : Byte)
  | zeroChannel (channel : Byte) (value : Word)
  | clearMarks
  | readZone (table position : Byte)
  | editBegin
  | editZone (position : Byte) (entry : ZoneBody)
  | editCommit
  | editDiscard
  | restart
  deriving DecidableEq, Repr

/-! ### The commands -/

/-- The coordinator's commands: one constructor for each row of the opcode table. -/
inductive Instr where
  /-- POWER_ON (R184). -/
  | powerOn
  /-- POWER_LOSS (R183). -/
  | powerLoss
  /-- EXTERNAL_RESET (R184): the reset input asserted and released. -/
  | externalReset
  /-- SETTINGS_LOAD_END (R184): the release. -/
  | settingsLoadEnd
  /-- ENCODER_EDGE (R3): one quadrature edge, forward or reverse. -/
  | encoderEdge (encoder : EncoderId) (forward : Bool)
  /-- SCAN_COMPLETION (R1), with the five conversions made during the scan. -/
  | scanCompletion (conversions : PerAnalog Sample)
  /-- PERIOD_EXPIRY (R80). -/
  | periodExpiry
  /-- FEEDBACK_INPUT_EDGE (R101): the level at the motion's feedback input changes. -/
  | feedbackInputEdge (motion : Motion)
  /-- FEEDBACK_CHANGE (R101): the motion's feedback input has held its level for 10 ms. -/
  | feedbackChange (motion : Motion)
  /-- HOLD_TIMER_EXPIRY (R72). -/
  | holdTimerExpiry
  /-- TRANSFER_TIMER_EXPIRY (R129). -/
  | transferTimerExpiry
  /-- SECONDS_TICK (R163). -/
  | secondsTick
  /-- STORE_WRITE_COMPLETION (R183). -/
  | storeWriteCompletion
  /-- COMMIT_RECORD_WRITE_COMPLETION (R54). -/
  | commitRecordWriteCompletion
  /-- COMMIT_COMPLETION (R55). -/
  | commitCompletion
  /-- GAP_TIMER_EXPIRY (R167). -/
  | gapTimerExpiry (port : Port)
  /-- BAD_FRAME_DISCARD (R168, R166): a wrong check word, a bad length or a framing error. -/
  | badFrameDiscard (port : Port)
  /-- FRAME_WHILE_HELD_DISCARD (R169). -/
  | frameWhileHeldDiscard (port : Port)
  /-- RESPONSE_START (R169). -/
  | responseStart (port : Port)
  /-- RESPONSE_COMPLETE (R169). -/
  | responseComplete (port : Port)
  /-- UNKNOWN_KIND_REQUEST (R170). -/
  | unknownKindRequest (port : Port) (kind : Byte)
  /-- READ_STATUS (R173). -/
  | readStatus (port : Port)
  /-- MOTION_REQUEST (R69, R70). -/
  | motionRequest (port : Port) (mark : Byte) (refs : PerMotion Half)
  /-- MODE_REQUEST (R116). -/
  | modeRequest (port : Port) (mode : Byte)
  /-- STOP_ALL (R154). -/
  | stopAll (port : Port)
  /-- ACK_ALARM (R153). -/
  | ackAlarm (port : Port) (code source : Byte)
  /-- READ_ALARMS (R161). -/
  | readAlarms (port : Port) (start count : Byte)
  /-- CLEAR_OVERRUN (R152). -/
  | clearOverrun (port : Port)
  /-- READ_MEASUREMENTS (R2). -/
  | readMeasurements (port : Port)
  /-- READ_REFERENCES (R95). -/
  | readReferences (port : Port)
  /-- TRANSFER_REPORT (R126). -/
  | transferReport (port : Port) (mark result : Byte)
  /-- DRIVE_STATE (R159). -/
  | driveState (port : Port) (values : PerGroup Byte)
  /-- READ_SETTING (R174): the group, and the profile or channel it names. -/
  | readSetting (port : Port) (group which : Byte)
  /-- WRITE_SETTING_PROFILE (R61). -/
  | writeSettingProfile (port : Port) (profile presence : Byte) (fields : ProfileFields Half)
  /-- WRITE_SETTING_ASSOCIATION (R64). -/
  | writeSettingAssociation (port : Port) (names : PerMotion Byte)
  /-- WRITE_SETTING_CALIBRATION (R15). -/
  | writeSettingCalibration (port : Port) (channel : Byte) (body : CalBody)
  /-- WRITE_SETTING_SUPPLY_BANDS (R27). -/
  | writeSettingSupplyBands (port : Port) (t1 t2 t3 : Half)
  /-- WRITE_SETTING_BOOM_BANDS (R27). -/
  | writeSettingBoomBands (port : Port) (g h o heavyCap : Half)
  /-- WRITE_SETTING_CURRENT_TRIP (R32). -/
  | writeSettingCurrentTrip (port : Port) (levels : PerGroup Half) (counts : PerGroup Byte)
  /-- WRITE_SETTING_SHARING (R97). -/
  | writeSettingSharing (port : Port) (body : SharingBody)
  /-- WRITE_SETTING_WALK (R142). -/
  | writeSettingWalk (port : Port) (restFrom restTo : Half) (gain trip : Byte)
  /-- WRITE_SETTING_GATE (R111). -/
  | writeSettingGate (port : Port) (confirm : Byte)
  /-- WRITE_SETTING_SEQUENCER (R131). -/
  | writeSettingSequencer (port : Port) (timeout : Byte)
  /-- ZERO_CHANNEL (R14); the value is signed. -/
  | zeroChannel (port : Port) (channel : Byte) (value : Word)
  /-- CLEAR_MARKS (R12). -/
  | clearMarks (port : Port)
  /-- READ_ZONE (R49): table 0 is the active table and 1 the buffer. -/
  | readZone (port : Port) (table position : Byte)
  /-- EDIT_BEGIN (R50). -/
  | editBegin (port : Port)
  /-- EDIT_ZONE (R51). -/
  | editZone (port : Port) (position : Byte) (entry : ZoneBody)
  /-- EDIT_DISCARD (R52). -/
  | editDiscard (port : Port)
  /-- EDIT_COMMIT (R53). -/
  | editCommit (port : Port)
  /-- RESTART (R176). -/
  | restart (port : Port)
  /-- CHARACTER_RECEIVED (R167): one character whose stop bit was good. -/
  | characterReceived (port : Port) (char : Byte)
  deriving DecidableEq, Repr

end Sys2Proof
end

