-- ==== Sys2Proof/Config.lean ====
section
/-! DEFINITION. What is fixed in the part: its fixed counts and sizes, the types of its settings records and
the factory contents of those records (R181). Nothing of the coordinator is left open by the manual in a way
that would need a free value, so there is no opaque constant here. -/

namespace Sys2Proof

/-! ### The settings records -/

/-- The three profiles (R60). -/
inductive ProfileName where
  | common | a | b
  deriving DecidableEq, Repr

/-- A complete profile. -/
abbrev Profile := ProfileFields Nat

/-- A partial profile: a field is present or absent (R60). -/
abbrev PartialProfile := ProfileFields (Option Nat)

/-- The three profile records (R60). -/
structure Profiles where
  common : Profile
  a : PartialProfile
  b : PartialProfile
  deriving DecidableEq, Repr

/-- The calibration of an encoder channel (R15). `scale` is centimetres per 1000 counts for a payout and
counts per revolution for the swing and the cams. -/
structure EncoderCal where
  offset : Word
  scale : Nat
  maxStep : Nat
  deriving DecidableEq, Repr

/-- The calibration of an analog channel (R15). -/
structure AnalogCal where
  offset : Nat
  gain : Nat
  low : Nat
  high : Nat
  deriving DecidableEq, Repr

/-- The thresholds of the supply record (R19). -/
structure SupplyThresholds where
  t1 : Nat
  t2 : Nat
  t3 : Nat
  deriving DecidableEq, Repr

/-- The thresholds of the boom record (R20) and the heavy cap (R24). -/
structure BoomSettings where
  g : Nat
  h : Nat
  o : Nat
  heavyCap : Nat
  deriving DecidableEq, Repr

/-- The trip level and trip count of each group (R32). -/
structure TripSettings where
  levels : PerGroup Nat
  counts : PerGroup Nat
  deriving DecidableEq, Repr

/-- The three writable budget entries (R25). -/
structure Budgets where
  normal : Nat
  low : Nat
  sag : Nat
  deriving DecidableEq, Repr

/-- The SHARING record (R97, R25). -/
structure Sharing where
  budgets : Budgets
  weights : PerMotion Nat
  shedOrder : List Motion
  deriving DecidableEq, Repr

/-- The WALK record (R134). -/
structure WalkSettings where
  restFrom : Nat
  restTo : Nat
  gain : Nat
  trip : Nat
  deriving DecidableEq, Repr

/-- A zone (R36). -/
inductive Zone where
  | keepOut (box : ZoneBox Nat) (margins : Margins Nat)
  | slow (box : ZoneBox Nat) (caps : PerDig (Option Nat))
  | warnOnly (box : ZoneBox Nat)
  deriving DecidableEq, Repr

/-- The ZONE-HEADER record (R54): the generation and the commit-in-progress marker. -/
structure ZoneHeader where
  generation : Half
  marker : Bool
  deriving DecidableEq, Repr

namespace Config

/-! ### Fixed counts and sizes -/

/-- The start byte of a frame (R166). -/
def startByte : Byte := 0xA5
/-- The longest payload (R166). -/
def maxPayload : Nat := 96
/-- Consecutive passing scans that end an analog FAULT (R11). -/
def recoveryScans : Nat := 40
/-- Scans to a worse supply band, and to establish it (R21, R22). -/
def supplyWorse : Nat := 4
/-- Scans to a better supply band (R21). -/
def supplyBetter : Nat := 100
/-- Scans to a worse boom band, and to establish it (R21, R22). -/
def boomWorse : Nat := 10
/-- Scans to a better boom band (R21). -/
def boomBetter : Nat := 40
/-- Where a band's run count stops (R21). -/
def runCountMax : Nat := 255
/-- Positions of the zone table (R35). -/
def zonePositions : Nat := 24
/-- Entries of the alarm list (R148). -/
def alarmCapacity : Nat := 32
/-- Entries of the mode request queue (R116). -/
def queueCapacity : Nat := 4
/-- Consecutive periods that raise or end OVERDRAW (R94). -/
def overdrawPeriods : Nat := 40
/-- Where the seconds count stops (R163). -/
def secondsMax : Nat := 4294967295
/-- Where an occurrence count stops (R147). -/
def occurrenceMax : Nat := 255
/-- Where a brake's state count stops (R100). -/
def stateCountMax : Nat := 65535
/-- Where a brake's idle count stops (R100). -/
def idleCountMax : Nat := 2400
/-- The operator hold time in milliseconds (R70). -/
def holdTime : Nat := 200

/-! ### Factory contents (R181) -/

/-- PROFILE-COMMON (R60). -/
def factoryCommon : Profile :=
  { accel := 20, decel := 40, ceiling := 1000, creep := 60, dwell := 4, releaseDelay := 8, idleSet := 400 }

/-- PROFILE-A and PROFILE-B: every field absent (R60). -/
def factoryPartial : PartialProfile :=
  { accel := none, decel := none, ceiling := none, creep := none, dwell := none, releaseDelay := none,
    idleSet := none }

/-- ASSOCIATION: COMMON for every motion. -/
def factoryAssociation : PerMotion ProfileName := ⟨.common, .common, .common, .common⟩

/-- CAL-0 to CAL-4 (R15). -/
def factoryEncoderCal : PerEncoder EncoderCal :=
  { hoistPayout := ⟨0, 100, 2000⟩, dragPayout := ⟨0, 100, 2000⟩, swingAngle := ⟨0, 36000, 2000⟩,
    camLeft := ⟨0, 3600, 2000⟩, camRight := ⟨0, 3600, 2000⟩ }

/-- CAL-5 to CAL-9 (R15). -/
def factoryAnalogCal : PerAnalog AnalogCal :=
  { hgCurrent := ⟨2048, 5000, 15, 4080⟩, dgCurrent := ⟨2048, 5000, 15, 4080⟩,
    sgCurrent := ⟨2048, 5000, 15, 4080⟩, boomLoad := ⟨0, 2000, 15, 4080⟩,
    supplyVoltage := ⟨0, 1500, 15, 4080⟩ }

/-- SUPPLY-BANDS. -/
def factorySupply : SupplyThresholds := ⟨920, 850, 600⟩
/-- BOOM-BANDS. -/
def factoryBoom : BoomSettings := ⟨150, 900, 1050, 600⟩
/-- CURRENT-TRIP. -/
def factoryTrip : TripSettings := ⟨⟨1800, 1800, 1800⟩, ⟨60, 60, 60⟩⟩
/-- SHARING: budgets 1000, 850, 550; weights 600, 550, 350, 700; shed order SWING, DRAG. -/
def factorySharing : Sharing := ⟨⟨1000, 850, 550⟩, ⟨600, 550, 350, 700⟩, [.swing, .drag]⟩
/-- WALK: rest sector 330 to 30, trim gain 10, skew trip 20. -/
def factoryWalk : WalkSettings := ⟨330, 30, 10, 20⟩
/-- GATE: the confirm time in periods. -/
def factoryConfirm : Nat := 40
/-- SEQUENCER: the transfer timeout in seconds. -/
def factoryTimeout : Nat := 6
/-- ZONE-HEADER: generation 0, marker clear. -/
def factoryHeader : ZoneHeader := ⟨0, false⟩

end Config

end Sys2Proof
end

