-- ==== Sys2Proof/WellFormed.lean ====
section
/-! DEFINITION. When a command is a command the outside can give.

The types already bound every operand to the bits its field has on the line; two checks remain. They rule no
value out that a meaning refuses or clamps: those are the meaning's. -/

namespace Sys2Proof

/-- Bytes of a zone entry of the kind coded (R189): unused 1, KEEP-OUT 21, SLOW 20, WARN-ONLY 13; none for a
code that names no kind. -/
def zoneEntryLength (kind : Byte) : Option Nat :=
  match kind.toNat with
  | 0 => some 1
  | 1 => some 21
  | 2 => some 20
  | 3 => some 13
  | _ => none

/-- Whether the kind is one of the request catalogue, 01h to 15h (R170, R188). -/
def isRequestKind (kind : Byte) : Bool := 1 ≤ kind.toNat && kind.toNat ≤ 0x15

/-- The entry's shape is what it says: a misfit's length is not the one its kind requires, and the EDIT-ZONE
that carries it is no longer than a frame allows. -/
def ZoneBody.wellFormed : ZoneBody → Bool
  | .misfit [] => true
  | .misfit (k :: rest) =>
    decide (zoneEntryLength k ≠ some (rest.length + 1)) && decide (rest.length + 2 ≤ Config.maxPayload)
  | _ => true

/-- A command the outside can give. -/
def Instr.wellFormed : Instr → Bool
  | .unknownKindRequest _ kind => !isRequestKind kind
  | .editZone _ _ entry => entry.wellFormed
  | _ => true

/-- A command the outside can give. -/
abbrev Instr.WellFormed (i : Instr) : Prop := i.wellFormed = true

end Sys2Proof
end

