-- ==== Sys2Proof/Decode.lean ====
section
/-! DEFINITION. The commands that a word of the opcode table spells.

The coordinator has no instruction words: no row of spec/opcode_table.json gives bits ("n_rows_with_fixed": 0 in
spec/98_reader.md), so no word spells a command. What the part decodes are the frames on its station ports; that
decoder is Machine/Wire.lean (`parseRequest`), which the meaning of CHARACTER_RECEIVED calls. -/

namespace Sys2Proof

/-- The command a table word spells: none, since no row of the table gives bits. -/
def decodeTableWord (_nbits _w : Nat) : Option Instr := none

end Sys2Proof
end

