-- ==== Sys2Proof/Machine/Records.lean ====
section
/-! DEFINITION. The records of the non-volatile memory (11): bytes and the CRC-16, the layouts a record shares with the
requests that write it (R189), its check word, and the memory with its factory contents. -/

namespace Sys2Proof

def ProfileFields.map {α β : Type} (f : α → β) (x : ProfileFields α) : ProfileFields β :=
  ⟨f x.accel, f x.decel, f x.ceiling, f x.creep, f x.dwell, f x.releaseDelay, f x.idleSet⟩

namespace Machine

/-! ### The CRC-16 (R166, R181) -/

/-- One bit of the CRC-16 with polynomial 1021h. -/
def crcBit (crc : Half) : Half := if crc.msb then (crc <<< 1) ^^^ 0x1021 else crc <<< 1

/-- Eight bits of the CRC-16. -/
def crcShift (crc : Half) : Half :=
  crcBit (crcBit (crcBit (crcBit (crcBit (crcBit (crcBit (crcBit crc)))))))

/-- One byte of the CRC-16, most significant bit first. -/
def crcByte (crc : Half) (b : Byte) : Half := crcShift (crc ^^^ (b ++ (0 : Byte)))

/-- The CRC-16 of bytes, from FFFFh, with no final inversion: the frame's as R166 gives it. A record's takes the same bit
order and no inversion, of which R181 says nothing (DESIGN CHOICE, log entry 8). -/
def crc16 (bytes : List Byte) : Half := bytes.foldl crcByte 0xFFFF

/-! ### Fields of more than one byte: most significant byte first (R188) -/

def be16 (x : Half) : List Byte := [x.extractLsb' 8 8, x.extractLsb' 0 8]

def be32 (x : Word) : List Byte :=
  [x.extractLsb' 24 8, x.extractLsb' 16 8, x.extractLsb' 8 8, x.extractLsb' 0 8]

/-- An unsigned number in one byte. -/
def nat8 (n : Nat) : Byte := BitVec.ofNat 8 n

/-- An unsigned number in two bytes. -/
def nat16 (n : Nat) : List Byte := be16 (BitVec.ofNat 16 n)

/-- An unsigned number in four bytes. -/
def nat32 (n : Nat) : List Byte := be32 (BitVec.ofNat 32 n)

/-- A signed number in two bytes, two's complement. -/
def int16 (x : Int) : List Byte := be16 (BitVec.ofInt 16 x)

/-- A signed number in four bytes, two's complement. -/
def int32 (x : Int) : List Byte := be32 (BitVec.ofInt 32 x)

/-- A mark or flag in one byte: 1 for set, 0 for clear. R115 and R188 give these values to the alternation marks; of the
other flags of a record or a response the spec gives no value (DESIGN CHOICE, log entry 22). -/
def bool8 (b : Bool) : Byte := if b then 1 else 0

/-- The code of an optional enumerated field that is absent (R188). -/
def absent : Byte := 0xFF

/-! ### Codes and layouts (R188, R189) -/

def profileCode : ProfileName → Byte
  | .common => 0
  | .a => 1
  | .b => 2

def motionCode : Motion → Byte
  | .hoist => 0
  | .drag => 1
  | .swing => 2
  | .walk => 3

def encoderNumber : EncoderId → Nat
  | .hoistPayout => 0
  | .dragPayout => 1
  | .swingAngle => 2
  | .camLeft => 3
  | .camRight => 4

def analogNumber : AnalogId → Nat
  | .hgCurrent => 5
  | .dgCurrent => 6
  | .sgCurrent => 7
  | .boomLoad => 8
  | .supplyVoltage => 9

def boxBytes (b : ZoneBox Nat) : List Byte :=
  nat16 b.sectorFrom ++ nat16 b.sectorTo ++ nat16 b.hoistLo ++ nat16 b.hoistHi ++ nat16 b.dragLo ++ nat16 b.dragHi

/-- A presence bit of value `n`. -/
def presenceBit {α : Type} (x : Option α) (n : Nat) : Nat := if x.isSome then n else 0

/-- A zone entry (R189); the bytes of an absent slow cap are 0. -/
def zoneBytes : Option Zone → List Byte
  | none => [0]
  | some (.keepOut box m) =>
    1 :: boxBytes box ++ nat16 m.swingMargin ++ nat16 m.swingBand ++ nat16 m.ropeMargin ++ nat16 m.ropeBand
  | some (.slow box c) =>
    2 :: boxBytes box ++ [nat8 (presenceBit c.hoist 1 + presenceBit c.drag 2 + presenceBit c.swing 4)] ++
      nat16 (c.hoist.getD 0) ++ nat16 (c.drag.getD 0) ++ nat16 (c.swing.getD 0)
  | some (.warnOnly box) => 3 :: boxBytes box

/-- A profile's body (R189); the bytes of an absent field are 0. -/
def profileBytes (n : ProfileName) (p : PartialProfile) : List Byte :=
  [profileCode n,
      nat8 (presenceBit p.accel 1 + presenceBit p.decel 2 + presenceBit p.ceiling 4 + presenceBit p.creep 8 +
        presenceBit p.dwell 16 + presenceBit p.releaseDelay 32 + presenceBit p.idleSet 64)] ++
    nat16 (p.accel.getD 0) ++ nat16 (p.decel.getD 0) ++ nat16 (p.ceiling.getD 0) ++ nat16 (p.creep.getD 0) ++
    nat16 (p.dwell.getD 0) ++ nat16 (p.releaseDelay.getD 0) ++ nat16 (p.idleSet.getD 0)

def encoderCalBytes (e : EncoderId) (c : EncoderCal) : List Byte :=
  nat8 (encoderNumber e) :: be32 c.offset ++ nat32 c.scale ++ nat16 c.maxStep

def analogCalBytes (a : AnalogId) (c : AnalogCal) : List Byte :=
  nat8 (analogNumber a) :: nat16 c.offset ++ nat16 c.gain ++ nat16 c.low ++ nat16 c.high

/-- The shed entries of a SHARING body, FFh past the stated length (R189). -/
def shedBytes (l : List Motion) : List Byte := ((l.map motionCode) ++ [absent, absent, absent, absent]).take 4

/-- The body of a SHARING group (R189). -/
def sharingBytes (b : Budgets) (w : PerMotion Nat) (l : List Motion) : List Byte :=
  nat16 b.normal ++ nat16 b.low ++ nat16 b.sag ++ nat16 w.hoist ++ nat16 w.drag ++ nat16 w.swing ++ nat16 w.walk ++
    [nat8 l.length] ++ shedBytes l

/-- The body of CURRENT-TRIP (R189). -/
def tripBytes (t : TripSettings) : List Byte :=
  nat16 t.levels.hg ++ [nat8 t.counts.hg] ++ nat16 t.levels.dg ++ [nat8 t.counts.dg] ++ nat16 t.levels.sg ++
    [nat8 t.counts.sg]

/-- The body of SUPPLY-BANDS (R189). -/
def supplyBytes (t : SupplyThresholds) : List Byte := nat16 t.t1 ++ nat16 t.t2 ++ nat16 t.t3

/-- The body of BOOM-BANDS (R189). -/
def boomBytes (b : BoomSettings) : List Byte := nat16 b.g ++ nat16 b.h ++ nat16 b.o ++ nat16 b.heavyCap

/-- The body of WALK (R189). -/
def walkBytes (w : WalkSettings) : List Byte :=
  nat16 w.restFrom ++ nat16 w.restTo ++ [nat8 w.gain, nat8 w.trip]

/-! ### The records (R181) -/

/-- The 21 settings records, in the order of R181. -/
inductive SettingsRecord where
  | profileCommon | profileA | profileB | association
  | calEncoder (e : EncoderId)
  | calAnalog (a : AnalogId)
  | supplyBands | boomBands | currentTrip | sharing | walk | gate | sequencer
  deriving DecidableEq, Repr

/-- The names of the 46 records. -/
inductive RecordName where
  | settings (r : SettingsRecord)
  | zone (position : Nat)
  | zoneHeader
  deriving DecidableEq, Repr

/-- The place of a settings record in the order of R181, counting from 0. -/
def recordNumber : SettingsRecord → Nat
  | .profileCommon => 0
  | .profileA => 1
  | .profileB => 2
  | .association => 3
  | .calEncoder e => 4 + encoderNumber e
  | .calAnalog a => 4 + analogNumber a
  | .supplyBands => 14
  | .boomBands => 15
  | .currentTrip => 16
  | .sharing => 17
  | .walk => 18
  | .gate => 19
  | .sequencer => 20

/-- The place of a record in the order of R181, counting from 0. -/
def RecordName.number : RecordName → Nat
  | .settings r => recordNumber r
  | .zone i => 21 + i
  | .zoneHeader => 45

/-- A record with the contents being written to it (R182). A CAL write started by ZERO-CHANNEL is told apart by
`zeroing`, since it changes nothing at its completion (R183). -/
inductive RecordWrite where
  | profileCommon (p : Profile)
  | profileA (p : PartialProfile)
  | profileB (p : PartialProfile)
  | association (names : PerMotion ProfileName)
  | calEncoder (e : EncoderId) (cal : EncoderCal) (zeroing : Bool)
  | calAnalog (a : AnalogId) (cal : AnalogCal)
  | supplyBands (t : SupplyThresholds)
  | boomBands (b : BoomSettings)
  | currentTrip (t : TripSettings)
  | sharing (h : Sharing)
  | walk (w : WalkSettings)
  | gate (confirm : Nat)
  | sequencer (timeout : Nat)
  | zone (position : Nat) (entry : Option Zone)
  | zoneHeader (h : ZoneHeader)
  deriving DecidableEq, Repr

/-- The record a write writes. -/
def RecordWrite.name : RecordWrite → RecordName
  | .profileCommon _ => .settings .profileCommon
  | .profileA _ => .settings .profileA
  | .profileB _ => .settings .profileB
  | .association _ => .settings .association
  | .calEncoder e _ _ => .settings (.calEncoder e)
  | .calAnalog a _ => .settings (.calAnalog a)
  | .supplyBands _ => .settings .supplyBands
  | .boomBands _ => .settings .boomBands
  | .currentTrip _ => .settings .currentTrip
  | .sharing _ => .settings .sharing
  | .walk _ => .settings .walk
  | .gate _ => .settings .gate
  | .sequencer _ => .settings .sequencer
  | .zone i _ => .zone i
  | .zoneHeader _ => .zoneHeader

/-! ### Check words (R181) -/

/-- The bytes of a record's name: its place in the order of R181 in one byte (DESIGN CHOICE, log entry 8: the spec gives
a name no bytes of its own in the memory). -/
def RecordName.bytes (n : RecordName) : List Byte := [nat8 n.number]

/-- The bytes of a record's fields: the layout in which the request that writes the record carries them (DESIGN CHOICE,
log entry 8), without the part of it that names the record. -/
def RecordWrite.fieldBytes : RecordWrite → List Byte
  | .profileCommon p => (profileBytes .common (p.map some)).drop 1
  | .profileA p => (profileBytes .a p).drop 1
  | .profileB p => (profileBytes .b p).drop 1
  | .association n => [profileCode n.hoist, profileCode n.drag, profileCode n.swing, profileCode n.walk]
  | .calEncoder e cal _ => (encoderCalBytes e cal).drop 1
  | .calAnalog a cal => (analogCalBytes a cal).drop 1
  | .supplyBands t => supplyBytes t
  | .boomBands b => boomBytes b
  | .currentTrip t => tripBytes t
  | .sharing h => sharingBytes h.budgets h.weights h.shedOrder
  | .walk w => walkBytes w
  | .gate n => [nat8 n]
  | .sequencer n => [nat8 n]
  | .zone _ entry => zoneBytes entry
  | .zoneHeader h => be16 h.generation ++ [bool8 h.marker]

/-- The check word of a record: the CRC-16 over its name and its fields (R181). -/
def RecordWrite.check (w : RecordWrite) : Half := crc16 (w.name.bytes ++ w.fieldBytes)

/-- What stands at a position of the memory: fields and a check word (R181). -/
structure Stored (α : Type) where
  fields : α
  check : Half
  deriving DecidableEq, Repr

/-- A record as it is written at its position: its fields with the check word formed from them (R181). `form` tells the
fields as a write of the position's record. -/
def sealRecord {α : Type} (form : α → RecordWrite) (fields : α) : Option (Stored α) :=
  some ⟨fields, (form fields).check⟩

/-- The fields found at a position where the record passes its check: the check word read is the one formed from what
was read (R181). A position never written, or left by a write cut off (R183), holds nothing that passes. -/
def readRecord {α : Type} (form : α → RecordWrite) : Option (Stored α) → Option α
  | some r => if r.check = (form r.fields).check then some r.fields else none
  | none => none

/-! ### The memory (R181) -/

/-- The non-volatile memory: what stands at the position of each of the 46 records. A position that has never been
written, or whose write was cut off, holds neither old nor new contents (R181, R183). -/
structure Memory where
  profileCommon : Option (Stored Profile)
  profileA : Option (Stored PartialProfile)
  profileB : Option (Stored PartialProfile)
  association : Option (Stored (PerMotion ProfileName))
  encoderCal : PerEncoder (Option (Stored EncoderCal))
  analogCal : PerAnalog (Option (Stored AnalogCal))
  supplyBands : Option (Stored SupplyThresholds)
  boomBands : Option (Stored BoomSettings)
  currentTrip : Option (Stored TripSettings)
  sharing : Option (Stored Sharing)
  walk : Option (Stored WalkSettings)
  gate : Option (Stored Nat)
  sequencer : Option (Stored Nat)
  zones : List (Option (Stored (Option Zone)))
  header : Option (Stored ZoneHeader)
  deriving DecidableEq, Repr

/-- What a load finds: the contents of each record that passes its check, none where it fails (R184, R185). -/
structure Loaded where
  profileCommon : Option Profile
  profileA : Option PartialProfile
  profileB : Option PartialProfile
  association : Option (PerMotion ProfileName)
  encoderCal : PerEncoder (Option EncoderCal)
  analogCal : PerAnalog (Option AnalogCal)
  supplyBands : Option SupplyThresholds
  boomBands : Option BoomSettings
  currentTrip : Option TripSettings
  sharing : Option Sharing
  walk : Option WalkSettings
  gate : Option Nat
  sequencer : Option Nat
  zones : List (Option (Option Zone))
  header : Option ZoneHeader
  deriving DecidableEq, Repr

/-- The CAL record of an encoder channel as a write of it. -/
def calOf (e : EncoderId) (cal : EncoderCal) : RecordWrite := .calEncoder e cal false

/-- The memory as the factory writes it (R181). -/
def Memory.factory : Memory where
  profileCommon := sealRecord .profileCommon Config.factoryCommon
  profileA := sealRecord .profileA Config.factoryPartial
  profileB := sealRecord .profileB Config.factoryPartial
  association := sealRecord .association Config.factoryAssociation
  encoderCal :=
    { hoistPayout := sealRecord (calOf .hoistPayout) Config.factoryEncoderCal.hoistPayout
      dragPayout := sealRecord (calOf .dragPayout) Config.factoryEncoderCal.dragPayout
      swingAngle := sealRecord (calOf .swingAngle) Config.factoryEncoderCal.swingAngle
      camLeft := sealRecord (calOf .camLeft) Config.factoryEncoderCal.camLeft
      camRight := sealRecord (calOf .camRight) Config.factoryEncoderCal.camRight }
  analogCal :=
    { hgCurrent := sealRecord (.calAnalog .hgCurrent) Config.factoryAnalogCal.hgCurrent
      dgCurrent := sealRecord (.calAnalog .dgCurrent) Config.factoryAnalogCal.dgCurrent
      sgCurrent := sealRecord (.calAnalog .sgCurrent) Config.factoryAnalogCal.sgCurrent
      boomLoad := sealRecord (.calAnalog .boomLoad) Config.factoryAnalogCal.boomLoad
      supplyVoltage := sealRecord (.calAnalog .supplyVoltage) Config.factoryAnalogCal.supplyVoltage }
  supplyBands := sealRecord .supplyBands Config.factorySupply
  boomBands := sealRecord .boomBands Config.factoryBoom
  currentTrip := sealRecord .currentTrip Config.factoryTrip
  sharing := sealRecord .sharing Config.factorySharing
  walk := sealRecord .walk Config.factoryWalk
  gate := sealRecord .gate Config.factoryConfirm
  sequencer := sealRecord .sequencer Config.factoryTimeout
  zones := (List.range Config.zonePositions).map fun i => sealRecord (.zone i) none
  header := sealRecord .zoneHeader Config.factoryHeader

end Machine

end Sys2Proof
end

