-- ==== Sys2Proof/Machine/State.lean ====
section
/-! DEFINITION. The state of the coordinator, block by block, and its state after reset.

Every item a chapter's "holds" table names is a field here; what one event always forms from other fields and
nothing else can change (the effective bands, the budget) is a function in Machine/Flags.lean instead, and
INVENTORY.md says which. All of it is plain data. -/

namespace Sys2Proof.Machine

/-! ### Channel Scanner (01) -/

/-- The sticky marks of a channel (R12). -/
structure Marks where
  below : Bool
  above : Bool
  faultSeen : Bool
  deriving DecidableEq, Repr

/-- The states of an encoder channel (R8). The detail of its FAULT is always STEP. -/
inductive EncoderState where
  | notReferenced | valid | fault
  deriving DecidableEq, Repr

/-- The states of an analog channel with the detail of its FAULT (R10). -/
inductive AnalogState where
  | valid | faultLow | faultHigh
  deriving DecidableEq, Repr

/-- An encoder channel record. `count` runs with every edge (R3); `prev` is the count latched at the previous
scan completion (R4). -/
structure EncoderRecord where
  count : Word
  prev : Word
  cal : EncoderCal
  scaled : Int
  state : EncoderState
  lastGood : Int
  marks : Marks
  deriving DecidableEq, Repr

/-- An analog channel record. -/
structure AnalogRecord where
  raw : Sample
  cal : AnalogCal
  scaled : Int
  state : AnalogState
  lastGood : Int
  marks : Marks
  goodRun : Nat
  deriving DecidableEq, Repr

/-- What a snapshot holds of an encoder channel (R2). -/
structure EncoderSample where
  state : EncoderState
  value : Int
  marks : Marks
  raw : Word
  deriving DecidableEq, Repr

/-- What a snapshot holds of an analog channel (R2). -/
structure AnalogSample where
  state : AnalogState
  value : Int
  marks : Marks
  raw : Sample
  deriving DecidableEq, Repr

/-- A snapshot (R2). -/
structure Snapshot where
  number : Word
  encoders : PerEncoder EncoderSample
  analogs : PerAnalog AnalogSample
  camLeftAngle : Nat
  camRightAngle : Nat
  deriving DecidableEq, Repr

/-- The Channel Scanner. `scanNumber` is the number of the last scan completion; `reportDue` is set from a reset
or RESTART to the first scan completion after it, at which every fault condition is reported (R13). -/
structure Scanner where
  encoders : PerEncoder EncoderRecord
  analogs : PerAnalog AnalogRecord
  scanNumber : Word
  snapshot : Option Snapshot
  reportDue : Bool
  deriving DecidableEq, Repr

/-! ### Band Monitor (02) -/

/-- Supply bands, better to worse (R19). -/
inductive SupplyBand where
  | normal | low | sag | lost
  deriving DecidableEq, Repr

/-- Boom bands, better to worse (R20). -/
inductive BoomBand where
  | empty | normal | heavy | overload
  deriving DecidableEq, Repr

/-- A band record (02). Its worse-count and better-count are fixed in the part (Config). -/
structure BandRecord (β : Type) where
  band : β
  valid : Bool
  candidate : Option β
  run : Nat
  deriving DecidableEq, Repr

/-- The Band Monitor. `reportDue` is set from a reset or RESTART to the monitor's first event after it (R26). -/
structure Bands where
  supply : BandRecord SupplyBand
  boom : BandRecord BoomBand
  integrators : PerGroup Nat
  thresholds : SupplyThresholds
  boomSettings : BoomSettings
  trip : TripSettings
  budgets : Budgets
  reportDue : Bool
  deriving DecidableEq, Repr

/-! ### Envelope Unit (03) -/

/-- A position of the active table (R35). -/
structure TableSlot where
  entry : Option Zone
  failed : Bool
  deriving DecidableEq, Repr

/-- A position of the edit buffer (R49). -/
structure BufferSlot where
  entry : Option Zone
  edited : Bool
  deriving DecidableEq, Repr

inductive EditState where
  | closed | open | committing
  deriving DecidableEq, Repr

/-- The envelope condition (R37). -/
inductive EnvelopeCondition where
  | valid | invalid | blind | committing
  deriving DecidableEq, Repr

/-- The caps of one motion in the two directions (R45). -/
structure DirCaps where
  pos : Nat
  neg : Nat
  deriving DecidableEq, Repr

/-- The detail of ENVELOPE-INVALID (R48). -/
inductive InvalidDetail where
  | table | position
  deriving DecidableEq, Repr

/-- What the Envelope Unit has reported to the Alarm Unit since the last reset or RESTART: of each of its three
conditions, the detail last raised and not since reported gone (R46 to R48). -/
structure EnvelopeReports where
  invalid : Option InvalidDetail
  intrusion : Option Nat
  zoneWarn : Option Nat
  deriving DecidableEq, Repr

/-- The Envelope Unit. `tableFailed` is the table state: FAILED when set. -/
structure Envelope where
  table : List TableSlot
  tableFailed : Bool
  generation : Half
  buffer : List BufferSlot
  edit : EditState
  condition : EnvelopeCondition
  caps : PerDig DirCaps
  keepOutMember : Option Nat
  warnMember : Option Nat
  reported : EnvelopeReports
  deriving DecidableEq, Repr

/-! ### Reference Shaper (04, 05) -/

/-- The last readiness reported for a group (R67). -/
inductive Readiness where
  | ready | notReady | fault
  deriving DecidableEq, Repr

/-- The sense of a motion's last nonzero output. -/
inductive Direction where
  | positive | negative
  deriving DecidableEq, Repr

/-- A motion record (R66). -/
structure MotionRecord where
  request : Int
  inService : Bool
  permit : Bool
  association : ProfileName
  pendingAssociation : Option ProfileName
  target : Int
  output : Int
  prevOutput : Int
  reversalPending : Bool
  dwell : Nat
  lastDirection : Option Direction
  shed : Bool
  deriving DecidableEq, Repr

/-- The references record (R95), less what READ-REFERENCES adds from other owners. -/
structure References where
  period : Word
  outputs : PerMotion Int
  shed : PerMotion Bool
  deriving DecidableEq, Repr

/-- The Reference Shaper. -/
structure Shaper where
  motions : PerMotion MotionRecord
  profiles : Profiles
  readiness : PerGroup Readiness
  period : Word
  weights : PerMotion Nat
  shedOrder : List Motion
  overdrawCount : Nat
  overdraw : Bool
  references : References
  deriving DecidableEq, Repr

/-! ### Brake Gate (06) -/

inductive BrakeState where
  | set | releasing | released | setting
  deriving DecidableEq, Repr

/-- A brake record (R100). `filtering` is set while the 10 ms filter of its feedback input runs (R101). -/
structure BrakeRecord where
  state : BrakeState
  count : Nat
  idle : Nat
  remembered : Bool
  feedback : Bool
  fail : Bool
  filtering : Bool
  deriving DecidableEq, Repr

/-- Whether the gate still owes its reports of the fail conditions present: after a power-on or external reset
(R112), after a RESTART (R113), or not. -/
inductive GateDue where
  | none | reset | restart
  deriving DecidableEq, Repr

/-- The Brake Gate. -/
structure Gate where
  brakes : PerMotion BrakeRecord
  confirm : Nat
  reportDue : GateDue
  deriving DecidableEq, Repr

/-! ### Mode Sequencer (07) -/

/-- The two working modes: what STOPPING stops (R114) and what an order asks for (R115). -/
inductive Working where
  | dig | walk
  deriving DecidableEq, Repr

/-- The settled modes: a destination (R114), and what a mode request names. -/
inductive Settled where
  | parked | dig | walk
  deriving DecidableEq, Repr

/-- The machine mode with its source mode and destination, which are present exactly where R114 says. -/
inductive Mode where
  | parked | dig | walk
  | stopping (source : Working) (destination : Settled)
  | transferring (destination : Settled)
  deriving DecidableEq, Repr

inductive Arrangement where
  | dig | walk | uncertain
  deriving DecidableEq, Repr

inductive OrderState where
  | none | pending | done | failed
  deriving DecidableEq, Repr

inductive EndedBy where
  | report | timeout
  deriving DecidableEq, Repr

/-- The arrangement record (R115). The order kind is the working mode it asks for. `timer` holds the seconds a
running transfer timer was started with. -/
structure ArrangementRecord where
  arrangement : Arrangement
  kind : Option Working
  mark : Bool
  order : OrderState
  endedBy : Option EndedBy
  issueTime : Nat
  failedMark : Bool
  timer : Option Nat
  deriving DecidableEq, Repr

/-- An entry of the mode request queue (R116). -/
structure QueueEntry where
  request : Settled
  port : Port
  deriving DecidableEq, Repr

/-- The Mode Sequencer. `walkPermit` is OK when set. -/
structure Sequencer where
  mode : Mode
  walkPermit : Bool
  queue : List QueueEntry
  record : ArrangementRecord
  timeout : Nat
  deriving DecidableEq, Repr

/-! ### Walk Tracker (08) -/

/-- The Walk Tracker record (R134). `reportDue` is set from a reset or RESTART to the first scan completion after
it (R139). The combined rest test is BOTH-IN-REST when `bothInRest` is set. -/
structure WalkTracker where
  leftPosition : Int
  rightPosition : Int
  leftAngle : Nat
  rightAngle : Nat
  skew : Int
  walkPosition : Int
  steps : Int
  leftInRest : Bool
  rightInRest : Bool
  bothInRest : Bool
  walkLeft : Int
  walkRight : Int
  skewCondition : Bool
  settings : WalkSettings
  reportDue : Bool
  deriving DecidableEq, Repr

/-! ### Alarm Unit (09) -/

/-- The alarm codes, in the order of the value-code table. -/
inductive AlarmCode where
  | overcurrent | driveFault | brakeFail | supplyLost | stopAll | transferFail | operatorStale | channelFault
  | skew | envelopeInvalid | intrusion | zoneWarn | supplyLow | supplySag | boomOverload | overdraw
  | sequenceRefused | settingsCheck
  deriving DecidableEq, Repr

/-- The sources of an alarm entry (R147). -/
inductive Source where
  | motion (m : Motion)
  | group (g : Group)
  | encoder (e : EncoderId)
  | analog (a : AnalogId)
  | supply | boom | envelope | sequencer | store | portA | portC
  deriving DecidableEq, Repr

/-- The detail of an alarm entry (R147). -/
inductive Detail where
  | zone (n : Nat)
  | notReferenced | step | lowLimit | highLimit
  | table | position
  | walk | notAtRest
  | record (r : SettingsRecord)
  deriving DecidableEq, Repr

inductive AlarmClass where
  | trip | hold | limit | warn
  deriving DecidableEq, Repr

inductive AlarmState where
  | activeUnack | activeAck | clearedUnack
  deriving DecidableEq, Repr

/-- An entry of the alarm list (R147). -/
structure AlarmEntry where
  code : AlarmCode
  source : Source
  detail : Option Detail
  cls : AlarmClass
  affected : PerMotion Bool
  state : AlarmState
  raisedAt : Nat
  changedAt : Nat
  occurrences : Nat
  deriving DecidableEq, Repr

/-- The Alarm Unit (09). The list is oldest first. `lost` holds the WARN conditions present that a full list left
without an entry (R152, log entry 21). -/
structure Alarms where
  list : List AlarmEntry
  overrun : Bool
  lost : List (AlarmCode × Source)
  hold : PerMotion Bool
  limit : PerMotion Bool
  horn : Bool
  seconds : Nat
  driveReport : PerGroup Readiness
  driveFault : PerGroup Bool
  deriving DecidableEq, Repr

/-! ### Station Ports (10) -/

/-- The result codes, in the order of R172. -/
inductive ResultCode where
  | accepted | adjusted | repeated | notPermitted | wrongMode | busy | badArgument | queueFull | notFound
  | mismatch | late | unknownKind
  deriving DecidableEq, Repr

/-- A response (R171): its kind with the top bit set, its result code and its data. -/
structure Response where
  kind : Byte
  result : ResultCode
  data : List Byte
  deriving DecidableEq, Repr

/-- The frame in progress: what has been received of it since the start byte (R167). Its gap timer runs as long
as it stands. -/
structure Frame where
  kind : Option Byte
  length : Option Byte
  payload : List Byte
  check : Option Byte
  deriving DecidableEq, Repr

/-- The held request and the response formed for it; ANSWERING once `answering` is set, HELD before (R169). -/
structure Held where
  request : Request
  response : Response
  answering : Bool
  deriving DecidableEq, Repr

/-- The receive and send side of a port. Its receive state is a function of it (`PortLink.receiveState`);
`sending` holds the characters of the response on the TX pin, none outside ANSWERING. -/
structure PortLink where
  frame : Option Frame
  held : Option Held
  sending : List Byte
  deriving DecidableEq, Repr

inductive Freshness where
  | never | fresh | stale
  deriving DecidableEq, Repr

/-- What Port A alone holds (04, 10). `holdTimer` is set while the hold timer runs; `staleCondition` while
OPERATOR-STALE is present (R73). -/
structure PortA where
  freshness : Freshness
  lastMark : Option Bool
  holdTimer : Bool
  staleCondition : Bool
  listChanged : Bool
  deriving DecidableEq, Repr

/-- What Port C alone holds (R179). -/
structure PortC where
  listChanged : Bool
  commitEnded : Bool
  deriving DecidableEq, Repr

/-- The station ports. -/
structure Ports where
  links : PerPort PortLink
  a : PortA
  c : PortC
  deriving DecidableEq, Repr

/-! ### Settings Store (11) -/

/-- The store state with its record in flight and, in COMMITTING, the records still to be written (11). -/
inductive Store where
  | idle
  | writing (record : RecordWrite)
  | committing (record : RecordWrite) (rest : List RecordWrite)
  deriving DecidableEq, Repr

/-! ### The whole part -/

/-- Whether the part has supply, and whether it is released (R184). -/
inductive Power where
  | off | loading | running
  deriving DecidableEq, Repr

/-- The output lines (00, Pins): high when set. -/
structure Lines where
  brake : PerMotion Bool
  runEnable : PerMotion Bool
  attention : PerPort Bool
  horn : Bool
  deriving DecidableEq, Repr

/-- The state of the coordinator, and the queue of the commands that wait. `feedbackInputs` are the levels at
BFB0 to BFB3, high meaning released. -/
structure State where
  power : Power
  scanner : Scanner
  bands : Bands
  envelope : Envelope
  shaper : Shaper
  gate : Gate
  sequencer : Sequencer
  walk : WalkTracker
  alarms : Alarms
  ports : Ports
  store : Store
  memory : Memory
  feedbackInputs : PerMotion Bool
  lines : Lines
  pending : List Instr
  deriving DecidableEq, Repr

/-- Why the machine stops with a fault: never. The manual names no event that stops the coordinator, and every
command has an effect in every state (a response, a discard, or none), so there is no fault to raise; that is safe
and unsafe for nothing. -/
inductive Fault where
  deriving DecidableEq, Repr

/-- Why a command has no meaning. -/
inductive Refusal where
  /-- The command is not modelled; raised by no arm of `exec` once every command has its meaning. Safe. -/
  | notModelled (mnemonic : String)
  deriving DecidableEq, Repr

/-! ### The state after reset -/

/-- No sticky mark (R16). -/
def Marks.clear : Marks := ⟨false, false, false⟩

/-- An encoder channel at the release, on calibration `cal` (R16). -/
def EncoderRecord.reset (cal : EncoderCal) : EncoderRecord :=
  { count := 0, prev := 0, cal := cal, scaled := 0, state := .notReferenced, lastGood := 0, marks := .clear }

/-- An analog channel at the release, on calibration `cal` (R16, R11). -/
def AnalogRecord.reset (cal : AnalogCal) : AnalogRecord :=
  { raw := 0, cal := cal, scaled := 0, state := .valid, lastGood := 0, marks := .clear, goodRun := 0 }

/-- A motion record at the release, associated with `association` (R76). -/
def MotionRecord.reset (association : ProfileName) : MotionRecord :=
  { request := 0, inService := false, permit := false, association := association, pendingAssociation := none,
    target := 0, output := 0, prevOutput := 0, reversalPending := false, dwell := 0, lastDirection := none,
    shed := false }

/-- A brake at the release with its feedback at `feedback` (R112). -/
def BrakeRecord.reset (feedback : Bool) : BrakeRecord :=
  { state := .set, count := 0, idle := 0, remembered := false, feedback := feedback, fail := feedback,
    filtering := false }

/-- A port at the release (R180). -/
def PortLink.reset : PortLink := { frame := none, held := none, sending := [] }

/-- The coordinator right after a reset: at the release, every line as the released part drives it, on a memory
with its factory contents, with nothing pending (R16, R33, R57, R76, R98, R112, R132, R144, R164, R180, R184,
R187). -/
def State.reset : State where
  power := .running
  scanner :=
    { encoders :=
        { hoistPayout := .reset Config.factoryEncoderCal.hoistPayout
          dragPayout := .reset Config.factoryEncoderCal.dragPayout
          swingAngle := .reset Config.factoryEncoderCal.swingAngle
          camLeft := .reset Config.factoryEncoderCal.camLeft
          camRight := .reset Config.factoryEncoderCal.camRight }
      analogs :=
        { hgCurrent := .reset Config.factoryAnalogCal.hgCurrent
          dgCurrent := .reset Config.factoryAnalogCal.dgCurrent
          sgCurrent := .reset Config.factoryAnalogCal.sgCurrent
          boomLoad := .reset Config.factoryAnalogCal.boomLoad
          supplyVoltage := .reset Config.factoryAnalogCal.supplyVoltage }
      scanNumber := 0
      snapshot := none
      reportDue := true }
  bands :=
    { supply := { band := .low, valid := false, candidate := none, run := 0 }
      boom := { band := .heavy, valid := false, candidate := none, run := 0 }
      integrators := ⟨0, 0, 0⟩
      thresholds := Config.factorySupply
      boomSettings := Config.factoryBoom
      trip := Config.factoryTrip
      budgets := Config.factorySharing.budgets
      reportDue := true }
  envelope :=
    { table := List.replicate Config.zonePositions ⟨none, false⟩
      tableFailed := false
      generation := 0
      buffer := List.replicate Config.zonePositions ⟨none, false⟩
      edit := .closed
      condition := .blind
      caps := ⟨⟨1000, 1000⟩, ⟨1000, 1000⟩, ⟨1000, 1000⟩⟩
      keepOutMember := none
      warnMember := none
      reported := ⟨none, none, none⟩ }
  shaper :=
    { motions := ⟨.reset .common, .reset .common, .reset .common, .reset .common⟩
      profiles := ⟨Config.factoryCommon, Config.factoryPartial, Config.factoryPartial⟩
      readiness := ⟨.notReady, .notReady, .notReady⟩
      period := 0
      weights := Config.factorySharing.weights
      shedOrder := Config.factorySharing.shedOrder
      overdrawCount := 0
      overdraw := false
      references := ⟨0, ⟨0, 0, 0, 0⟩, ⟨false, false, false, false⟩⟩ }
  gate :=
    { brakes := ⟨.reset false, .reset false, .reset false, .reset false⟩
      confirm := Config.factoryConfirm
      reportDue := .reset }
  sequencer :=
    { mode := .parked
      walkPermit := false
      queue := []
      record :=
        { arrangement := .uncertain, kind := none, mark := false, order := .none, endedBy := none,
          issueTime := 0, failedMark := false, timer := none }
      timeout := Config.factoryTimeout }
  walk :=
    { leftPosition := 0, rightPosition := 0, leftAngle := 0, rightAngle := 0, skew := 0, walkPosition := 0
      steps := 0, leftInRest := false, rightInRest := false, bothInRest := false, walkLeft := 0, walkRight := 0
      skewCondition := false, settings := Config.factoryWalk, reportDue := true }
  alarms :=
    { list := [], overrun := false, lost := [], hold := ⟨false, false, false, false⟩
      limit := ⟨false, false, false, false⟩, horn := false, seconds := 0, driveReport := ⟨.notReady, .notReady, .notReady⟩
      driveFault := ⟨false, false, false⟩ }
  ports :=
    { links := ⟨.reset, .reset, .reset⟩
      a := { freshness := .never, lastMark := none, holdTimer := false, staleCondition := false,
             listChanged := false }
      c := { listChanged := false, commitEnded := false } }
  store := .idle
  memory := Memory.factory
  feedbackInputs := ⟨false, false, false, false⟩
  lines :=
    { brake := ⟨false, false, false, false⟩, runEnable := ⟨false, false, false, false⟩
      attention := ⟨false, false, false⟩, horn := false }
  pending := []

end Sys2Proof.Machine
end

