-- ==== Sys2Proof/Machine/Operands.lean ====
section
/-! DEFINITION. How an operand is read: selection by motion, group, port or channel; clamping; the value codes of
R188; the raw forms of the zone entries and settings bodies (R189) with their ranges. -/

namespace Sys2Proof

/-! ### Selection -/

def PerMotion.get {α : Type} (x : PerMotion α) : Motion → α
  | .hoist => x.hoist
  | .drag => x.drag
  | .swing => x.swing
  | .walk => x.walk

def PerMotion.set {α : Type} (x : PerMotion α) (m : Motion) (v : α) : PerMotion α :=
  match m with
  | .hoist => { x with hoist := v }
  | .drag => { x with drag := v }
  | .swing => { x with swing := v }
  | .walk => { x with walk := v }

/-- Each motion's thing changed by a function of the motion and the thing. -/
def PerMotion.map {α β : Type} (f : Motion → α → β) (x : PerMotion α) : PerMotion β :=
  ⟨f .hoist x.hoist, f .drag x.drag, f .swing x.swing, f .walk x.walk⟩

/-- One thing made for each motion. -/
def PerMotion.of {α : Type} (f : Motion → α) : PerMotion α := ⟨f .hoist, f .drag, f .swing, f .walk⟩

/-- Whether it holds for some motion. -/
def PerMotion.any (x : PerMotion Bool) : Bool := x.hoist || x.drag || x.swing || x.walk

/-- Whether it holds for every motion. -/
def PerMotion.every (x : PerMotion Bool) : Bool := x.hoist && x.drag && x.swing && x.walk

/-- The four motions in their order. -/
def Motion.all : List Motion := [.hoist, .drag, .swing, .walk]

def PerDig.get {α : Type} (x : PerDig α) : DigMotion → α
  | .hoist => x.hoist
  | .drag => x.drag
  | .swing => x.swing

def PerDig.of {α : Type} (f : DigMotion → α) : PerDig α := ⟨f .hoist, f .drag, f .swing⟩

def PerDig.map {α β : Type} (f : α → β) (x : PerDig α) : PerDig β := ⟨f x.hoist, f x.drag, f x.swing⟩

/-- The motion a dig motion is. -/
def DigMotion.motion : DigMotion → Motion
  | .hoist => .hoist
  | .drag => .drag
  | .swing => .swing

def PerGroup.get {α : Type} (x : PerGroup α) : Group → α
  | .hg => x.hg
  | .dg => x.dg
  | .sg => x.sg

def PerGroup.set {α : Type} (x : PerGroup α) (g : Group) (v : α) : PerGroup α :=
  match g with
  | .hg => { x with hg := v }
  | .dg => { x with dg := v }
  | .sg => { x with sg := v }

def PerGroup.map {α β : Type} (f : Group → α → β) (x : PerGroup α) : PerGroup β :=
  ⟨f .hg x.hg, f .dg x.dg, f .sg x.sg⟩

def PerPort.get {α : Type} (x : PerPort α) : Port → α
  | .a => x.a
  | .b => x.b
  | .c => x.c

def PerPort.set {α : Type} (x : PerPort α) (p : Port) (v : α) : PerPort α :=
  match p with
  | .a => { x with a := v }
  | .b => { x with b := v }
  | .c => { x with c := v }

def PerEncoder.get {α : Type} (x : PerEncoder α) : EncoderId → α
  | .hoistPayout => x.hoistPayout
  | .dragPayout => x.dragPayout
  | .swingAngle => x.swingAngle
  | .camLeft => x.camLeft
  | .camRight => x.camRight

def PerEncoder.set {α : Type} (x : PerEncoder α) (e : EncoderId) (v : α) : PerEncoder α :=
  match e with
  | .hoistPayout => { x with hoistPayout := v }
  | .dragPayout => { x with dragPayout := v }
  | .swingAngle => { x with swingAngle := v }
  | .camLeft => { x with camLeft := v }
  | .camRight => { x with camRight := v }

def PerEncoder.map {α β : Type} (f : EncoderId → α → β) (x : PerEncoder α) : PerEncoder β :=
  ⟨f .hoistPayout x.hoistPayout, f .dragPayout x.dragPayout, f .swingAngle x.swingAngle, f .camLeft x.camLeft,
    f .camRight x.camRight⟩

/-- Channels 0 to 4 in their order. -/
def EncoderId.all : List EncoderId := [.hoistPayout, .dragPayout, .swingAngle, .camLeft, .camRight]

def PerAnalog.get {α : Type} (x : PerAnalog α) : AnalogId → α
  | .hgCurrent => x.hgCurrent
  | .dgCurrent => x.dgCurrent
  | .sgCurrent => x.sgCurrent
  | .boomLoad => x.boomLoad
  | .supplyVoltage => x.supplyVoltage

def PerAnalog.set {α : Type} (x : PerAnalog α) (a : AnalogId) (v : α) : PerAnalog α :=
  match a with
  | .hgCurrent => { x with hgCurrent := v }
  | .dgCurrent => { x with dgCurrent := v }
  | .sgCurrent => { x with sgCurrent := v }
  | .boomLoad => { x with boomLoad := v }
  | .supplyVoltage => { x with supplyVoltage := v }

def PerAnalog.map {α β : Type} (f : AnalogId → α → β) (x : PerAnalog α) : PerAnalog β :=
  ⟨f .hgCurrent x.hgCurrent, f .dgCurrent x.dgCurrent, f .sgCurrent x.sgCurrent, f .boomLoad x.boomLoad,
    f .supplyVoltage x.supplyVoltage⟩

/-- Channels 5 to 9 in their order. -/
def AnalogId.all : List AnalogId := [.hgCurrent, .dgCurrent, .sgCurrent, .boomLoad, .supplyVoltage]

def ZoneBox.map {α β : Type} (f : α → β) (x : ZoneBox α) : ZoneBox β :=
  ⟨f x.sectorFrom, f x.sectorTo, f x.hoistLo, f x.hoistHi, f x.dragLo, f x.dragHi⟩

def Margins.map {α β : Type} (f : α → β) (x : Margins α) : Margins β :=
  ⟨f x.swingMargin, f x.swingBand, f x.ropeMargin, f x.ropeBand⟩

namespace Machine

/-! ### Arithmetic of the conventions (00) -/

/-- `n` clamped to lo..hi. -/
def clampNat (lo hi n : Nat) : Nat := max lo (min hi n)

/-- `x` clamped to lo..hi. -/
def clampInt (lo hi x : Int) : Int := max lo (min hi x)

/-- The quotient rounded toward plus infinity. -/
def ceilDiv (x y : Int) : Int := -Int.fdiv (-x) y

/-- A motion's direction as +1 or −1. -/
def Direction.sign : Direction → Int
  | .positive => 1
  | .negative => -1

/-- The direction of a nonzero reference. -/
def directionOf (x : Int) : Option Direction :=
  if x = 0 then none else if 0 < x then some .positive else some .negative

/-! ### Value codes of request fields (R188)

An enumerated field carries the position of its value in its list; a code outside the list names nothing. -/

def motionOfCode (b : Byte) : Option Motion :=
  match b.toNat with
  | 0 => some .hoist
  | 1 => some .drag
  | 2 => some .swing
  | 3 => some .walk
  | _ => none

def profileOfCode (b : Byte) : Option ProfileName :=
  match b.toNat with
  | 0 => some .common
  | 1 => some .a
  | 2 => some .b
  | _ => none

/-- Requested mode: PARKED (PARK), DIG, WALK. -/
def settledOfCode (b : Byte) : Option Settled :=
  match b.toNat with
  | 0 => some .parked
  | 1 => some .dig
  | 2 => some .walk
  | _ => none

def readinessOfCode (b : Byte) : Option Readiness :=
  match b.toNat with
  | 0 => some .ready
  | 1 => some .notReady
  | 2 => some .fault
  | _ => none

/-- A mark, 0 or 1. -/
def markOfCode (b : Byte) : Option Bool :=
  match b.toNat with
  | 0 => some false
  | 1 => some true
  | _ => none

/-- Report result: DONE when true, FAILED when false. -/
def doneOfCode (b : Byte) : Option Bool :=
  match b.toNat with
  | 0 => some true
  | 1 => some false
  | _ => none

def alarmCodeOfCode (b : Byte) : Option AlarmCode :=
  match b.toNat with
  | 0 => some .overcurrent
  | 1 => some .driveFault
  | 2 => some .brakeFail
  | 3 => some .supplyLost
  | 4 => some .stopAll
  | 5 => some .transferFail
  | 6 => some .operatorStale
  | 7 => some .channelFault
  | 8 => some .skew
  | 9 => some .envelopeInvalid
  | 10 => some .intrusion
  | 11 => some .zoneWarn
  | 12 => some .supplyLow
  | 13 => some .supplySag
  | 14 => some .boomOverload
  | 15 => some .overdraw
  | 16 => some .sequenceRefused
  | 17 => some .settingsCheck
  | _ => none

def encoderOfNumber : Nat → Option EncoderId
  | 0 => some .hoistPayout
  | 1 => some .dragPayout
  | 2 => some .swingAngle
  | 3 => some .camLeft
  | 4 => some .camRight
  | _ => none

def analogOfNumber : Nat → Option AnalogId
  | 5 => some .hgCurrent
  | 6 => some .dgCurrent
  | 7 => some .sgCurrent
  | 8 => some .boomLoad
  | 9 => some .supplyVoltage
  | _ => none

def sourceOfCode (b : Byte) : Option Source :=
  match b.toNat with
  | 0 => some (.motion .hoist)
  | 1 => some (.motion .drag)
  | 2 => some (.motion .swing)
  | 3 => some (.motion .walk)
  | 4 => some (.group .hg)
  | 5 => some (.group .dg)
  | 6 => some (.group .sg)
  | 7 => some (.encoder .hoistPayout)
  | 8 => some (.encoder .dragPayout)
  | 9 => some (.encoder .swingAngle)
  | 10 => some (.encoder .camLeft)
  | 11 => some (.encoder .camRight)
  | 12 => some (.analog .hgCurrent)
  | 13 => some (.analog .dgCurrent)
  | 14 => some (.analog .sgCurrent)
  | 15 => some (.analog .boomLoad)
  | 16 => some (.analog .supplyVoltage)
  | 17 => some .supply
  | 18 => some .boom
  | 19 => some .envelope
  | 20 => some .sequencer
  | 21 => some .store
  | 22 => some .portA
  | 23 => some .portC
  | _ => none

/-- The ten setting groups (R188). -/
inductive SettingGroup where
  | profile | association | calibration | supplyBands | boomBands | currentTrip | sharing | walk | gate | sequencer
  deriving DecidableEq, Repr

def groupOfCode (b : Byte) : Option SettingGroup :=
  match b.toNat with
  | 0 => some .profile
  | 1 => some .association
  | 2 => some .calibration
  | 3 => some .supplyBands
  | 4 => some .boomBands
  | 5 => some .currentTrip
  | 6 => some .sharing
  | 7 => some .walk
  | 8 => some .gate
  | 9 => some .sequencer
  | _ => none

/-! ### Profiles (R60, R61) -/

/-- A partial profile over COMMON: the field where present, COMMON's where absent (R60). -/
def overCommon (p : PartialProfile) (c : Profile) : Profile :=
  { accel := p.accel.getD c.accel, decel := p.decel.getD c.decel, ceiling := p.ceiling.getD c.ceiling,
    creep := p.creep.getD c.creep, dwell := p.dwell.getD c.dwell,
    releaseDelay := p.releaseDelay.getD c.releaseDelay, idleSet := p.idleSet.getD c.idleSet }

/-- The effective values under an association (R60). -/
def effectiveProfile (p : Profiles) : ProfileName → Profile
  | .common => p.common
  | .a => overCommon p.a p.common
  | .b => overCommon p.b p.common

/-- A PROFILE body as it stands: the fields whose presence bit is set (R189). -/
def rawProfile (presence : Byte) (f : ProfileFields Half) : PartialProfile :=
  { accel := if presence.getLsbD 0 then some f.accel.toNat else none
    decel := if presence.getLsbD 1 then some f.decel.toNat else none
    ceiling := if presence.getLsbD 2 then some f.ceiling.toNat else none
    creep := if presence.getLsbD 3 then some f.creep.toNat else none
    dwell := if presence.getLsbD 4 then some f.dwell.toNat else none
    releaseDelay := if presence.getLsbD 5 then some f.releaseDelay.toNat else none
    idleSet := if presence.getLsbD 6 then some f.idleSet.toNat else none }

/-- Each present field clamped to its range of R60. -/
def clampProfile (p : PartialProfile) : PartialProfile :=
  { accel := p.accel.map (clampNat 1 200), decel := p.decel.map (clampNat 1 200),
    ceiling := p.ceiling.map (clampNat 100 1000), creep := p.creep.map (clampNat 10 200),
    dwell := p.dwell.map (clampNat 0 40), releaseDelay := p.releaseDelay.map (clampNat 0 80),
    idleSet := p.idleSet.map (clampNat 1 2400) }

/-- The complete profile a partial one is when every field is present. -/
def completeProfile (p : PartialProfile) : Option Profile := do
  let accel ← p.accel
  let decel ← p.decel
  let ceiling ← p.ceiling
  let creep ← p.creep
  let dwell ← p.dwell
  let releaseDelay ← p.releaseDelay
  let idleSet ← p.idleSet
  return { accel, decel, ceiling, creep, dwell, releaseDelay, idleSet }

/-! ### Zone entries (R36, R51, R189) -/

/-- The entry a body carries, before clamping: none for a misfit, and for a presence byte with a bit set outside
its three (R188). The bytes of a slow cap whose presence bit is clear are not read. -/
def rawEntry : ZoneBody → Option (Option Zone)
  | .unused => some none
  | .keepOut box m => some (some (.keepOut (box.map BitVec.toNat) (m.map BitVec.toNat)))
  | .slow box presence caps =>
    if presence.toNat < 8 then
      some (some (.slow (box.map BitVec.toNat)
        { hoist := if presence.getLsbD 0 then some caps.hoist.toNat else none
          drag := if presence.getLsbD 1 then some caps.drag.toNat else none
          swing := if presence.getLsbD 2 then some caps.swing.toNat else none }))
    else none
  | .warnOnly box => some (some (.warnOnly (box.map BitVec.toNat)))
  | .misfit _ => none

/-- The extent of a zone. -/
def zoneBox : Zone → ZoneBox Nat
  | .keepOut box _ => box
  | .slow box _ => box
  | .warnOnly box => box

def clampBox (b : ZoneBox Nat) : ZoneBox Nat :=
  { sectorFrom := clampNat 0 3599 b.sectorFrom, sectorTo := clampNat 0 3599 b.sectorTo,
    hoistLo := clampNat 0 30000 b.hoistLo, hoistHi := clampNat 0 30000 b.hoistHi,
    dragLo := clampNat 0 30000 b.dragLo, dragHi := clampNat 0 30000 b.dragHi }

def clampMargins (m : Margins Nat) : Margins Nat :=
  { swingMargin := clampNat 0 900 m.swingMargin, swingBand := clampNat 1 1800 m.swingBand,
    ropeMargin := clampNat 0 5000 m.ropeMargin, ropeBand := clampNat 1 10000 m.ropeBand }

/-- Each field clamped to its range of R36 (R51, check 3). -/
def clampZone : Zone → Zone
  | .keepOut box m => .keepOut (clampBox box) (clampMargins m)
  | .slow box caps => .slow (clampBox box) (caps.map (Option.map (clampNat 0 1000)))
  | .warnOnly box => .warnOnly (clampBox box)

/-- Whether no payout range has its lo above its hi (R51, check 4). -/
def boxOrdered (b : ZoneBox Nat) : Bool := b.hoistLo ≤ b.hoistHi && b.dragLo ≤ b.dragHi

/-! ### Calibration (R15) -/

/-- The fields of an encoder channel clamped: scale 1..5000 for a payout, counts per revolution 3600..1,000,000
for the swing and 360..100,000 for a cam; maximum step 1..65535. -/
def clampEncoderCal (e : EncoderId) (c : EncoderCal) : EncoderCal :=
  { offset := c.offset
    scale :=
      match e with
      | .hoistPayout => clampNat 1 5000 c.scale
      | .dragPayout => clampNat 1 5000 c.scale
      | .swingAngle => clampNat 3600 1000000 c.scale
      | .camLeft => clampNat 360 100000 c.scale
      | .camRight => clampNat 360 100000 c.scale
    maxStep := clampNat 1 65535 c.maxStep }

/-- The fields of an analog channel clamped. -/
def clampAnalogCal (c : AnalogCal) : AnalogCal :=
  { offset := clampNat 0 4095 c.offset, gain := clampNat 0 65535 c.gain, low := clampNat 0 4095 c.low,
    high := clampNat 0 4095 c.high }

/-- Whether the limits of an analog channel are in order (R15): a low limit at or above the high limit is not,
and neither is a low limit other than 0 that is not below a high limit other than 4095. -/
def limitsOrdered (c : AnalogCal) : Bool :=
  !(decide (c.high ≤ c.low)) && !(decide (c.low ≠ 0) && decide (c.high ≠ 4095) && decide (c.high ≤ c.low))

/-- The value of a ZERO-CHANNEL clamped to the channel's range (R14, check 4). -/
def clampZeroValue (e : EncoderId) (v : Int) : Int :=
  match e with
  | .hoistPayout => clampInt 0 30000 v
  | .dragPayout => clampInt 0 30000 v
  | .swingAngle => clampInt 0 3599 v
  | .camLeft => clampInt (-999999) 999999 v
  | .camRight => clampInt (-999999) 999999 v

/-! ### The other settings groups -/

/-- R27, check 1. -/
def clampSupply (t : SupplyThresholds) : SupplyThresholds :=
  { t1 := clampNat 0 1499 t.t1, t2 := clampNat 0 1499 t.t2, t3 := clampNat 0 1499 t.t3 }

/-- R27, check 2. -/
def supplyOrdered (t : SupplyThresholds) : Bool := decide (t.t2 < t.t1) && decide (t.t3 < t.t2) && decide (1 ≤ t.t3)

/-- R27, check 1. -/
def clampBoom (b : BoomSettings) : BoomSettings :=
  { g := clampNat 0 1999 b.g, h := clampNat 0 1999 b.h, o := clampNat 0 1999 b.o,
    heavyCap := clampNat 0 1000 b.heavyCap }

/-- R27, check 2. -/
def boomOrdered (b : BoomSettings) : Bool := decide (b.g < b.h) && decide (b.h < b.o)

/-- R32. -/
def clampTrip (t : TripSettings) : TripSettings :=
  { levels := t.levels.map (fun _ => clampNat 100 2499), counts := t.counts.map (fun _ => clampNat 1 255) }

/-- R97, R25. -/
def clampSharing (h : Sharing) : Sharing :=
  { budgets :=
      { normal := clampNat 0 1000 h.budgets.normal, low := clampNat 0 1000 h.budgets.low,
        sag := clampNat 0 1000 h.budgets.sag }
    weights := h.weights.map (fun _ => clampNat 0 1000)
    shedOrder := h.shedOrder }

/-- Each byte read as a motion; none if one is not a motion. -/
def motionsOfCodes : List Byte → Option (List Motion)
  | [] => some []
  | b :: rest => do
    let m ← motionOfCode b
    let ms ← motionsOfCodes rest
    return m :: ms

/-- The shed order a SHARING body carries: none for a length above four, an entry that is not a motion, or a
motion named twice. The entries past the length are not read (R97, R189). -/
def rawShedOrder (b : SharingBody) : Option (List Motion) :=
  if b.shedLength.toNat ≤ 4 then
    match motionsOfCodes ([b.shed0, b.shed1, b.shed2, b.shed3].take b.shedLength.toNat) with
    | some ms => if ms.Nodup then some ms else none
    | none => none
  else none

/-- R142. -/
def clampWalk (w : WalkSettings) : WalkSettings :=
  { restFrom := clampNat 0 359 w.restFrom, restTo := clampNat 0 359 w.restTo, gain := clampNat 0 100 w.gain,
    trip := clampNat 5 90 w.trip }

/-- R111. -/
def clampConfirm (n : Nat) : Nat := clampNat 4 80 n

/-- R131. -/
def clampTimeout (n : Nat) : Nat := clampNat 2 20 n

end Machine

end Sys2Proof
end

