-- ==== Sys2Proof/Machine/Flags.lean ====
section
/-! DEFINITION. The conditions formed from other state: effective bands and the budget, in-service, the motions a
group feeds, class and affected motions of an alarm, hold and limit flags, the horn, the walk permit, the receive
state of a port, and the output lines. `settle` brings the stored ones up to date at the end of an event. -/

namespace Sys2Proof.Machine

/-! ### Bands (R24, R25) -/

/-- LOW while the supply band is not valid (R24). -/
def effectiveSupply (b : Bands) : SupplyBand := if b.supply.valid then b.supply.band else .low

/-- HEAVY while the boom band is not valid (R24). -/
def effectiveBoom (b : Bands) : BoomBand := if b.boom.valid then b.boom.band else .heavy

/-- The budget entry of a band; that of LOST is fixed at 0 (R25). -/
def budgetEntry (t : Budgets) : SupplyBand → Nat
  | .normal => t.normal
  | .low => t.low
  | .sag => t.sag
  | .lost => 0

/-- The budget B (R25). -/
def budget (b : Bands) : Nat := budgetEntry b.budgets (effectiveSupply b)

/-! ### Modes and service -/

/-- Whether a transfer order is PENDING. -/
def orderPending (q : Sequencer) : Bool := q.record.order == .pending

/-- Whether the mode is DIG, or STOPPING with source mode DIG (R67). -/
def digging : Mode → Bool
  | .dig => true
  | .stopping .dig _ => true
  | _ => false

/-- Whether the mode is WALK, or STOPPING with source mode WALK (R67). -/
def walking : Mode → Bool
  | .walk => true
  | .stopping .walk _ => true
  | _ => false

/-- Whether a group's last report is READY (R67). -/
def groupReady (r : PerGroup Readiness) (g : Group) : Bool := r.get g == .ready

/-- Whether a motion is in service (R67). -/
def motionInService (q : Sequencer) (r : PerGroup Readiness) (m : Motion) : Bool :=
  !orderPending q &&
  match m with
  | .hoist => digging q.mode && q.record.arrangement == .dig && groupReady r .hg
  | .drag => digging q.mode && q.record.arrangement == .dig && groupReady r .dg
  | .swing => digging q.mode && groupReady r .sg
  | .walk => walking q.mode && q.record.arrangement == .walk && groupReady r .hg && groupReady r .dg

/-- Whether a motion is in service, as it stands (R67). -/
def inService (s : State) (m : Motion) : Bool := motionInService s.sequencer s.shaper.readiness m

/-- Whether the mode is settled (R114). -/
def isSettled : Mode → Bool
  | .parked => true
  | .dig => true
  | .walk => true
  | _ => false

/-- Whether a store write or a zone commit is in flight (R182). -/
def storeBusy (s : State) : Bool := s.store != .idle

/-! ### Alarms -/

def noMotions : PerMotion Bool := ⟨false, false, false, false⟩

def allMotions : PerMotion Bool := ⟨true, true, true, true⟩

/-- The dig motions. -/
def digMotions : PerMotion Bool := ⟨true, true, true, false⟩

/-- One motion alone. -/
def onlyMotion (m : Motion) : PerMotion Bool := PerMotion.of (fun n => decide (n = m))

/-- The motions a group feeds under an arrangement (R30). -/
def fedBy : Group → Arrangement → PerMotion Bool
  | .hg, .dig => onlyMotion .hoist
  | .hg, .walk => onlyMotion .walk
  | .hg, .uncertain => ⟨true, false, false, true⟩
  | .dg, .dig => onlyMotion .drag
  | .dg, .walk => onlyMotion .walk
  | .dg, .uncertain => ⟨false, true, false, true⟩
  | .sg, _ => onlyMotion .swing

/-- The class of a code and source (the code table of 09). The channels of WARN class are the last line's. -/
def alarmClass : AlarmCode → Source → AlarmClass
  | .overcurrent, _ => .trip
  | .driveFault, _ => .trip
  | .brakeFail, _ => .trip
  | .supplyLost, _ => .trip
  | .stopAll, _ => .trip
  | .transferFail, _ => .trip
  | .operatorStale, _ => .hold
  | .channelFault, .encoder .camLeft => .hold
  | .channelFault, .encoder .camRight => .hold
  | .channelFault, .analog .hgCurrent => .limit
  | .channelFault, .analog .dgCurrent => .limit
  | .channelFault, .analog .sgCurrent => .limit
  | .channelFault, _ => .warn
  | .skew, _ => .limit
  | .envelopeInvalid, _ => .limit
  | .intrusion, _ => .limit
  | .zoneWarn, _ => .warn
  | .supplyLow, _ => .warn
  | .supplySag, _ => .warn
  | .boomOverload, _ => .warn
  | .overdraw, _ => .warn
  | .sequenceRefused, _ => .warn
  | .settingsCheck, _ => .warn

/-- The affected motions of a code and source under an arrangement (the code table of 09). -/
def affectedMotions (arr : Arrangement) : AlarmCode → Source → PerMotion Bool
  | .overcurrent, .group g => fedBy g arr
  | .driveFault, .group g => fedBy g arr
  | .brakeFail, .motion m => onlyMotion m
  | .supplyLost, _ => allMotions
  | .stopAll, _ => allMotions
  | .transferFail, _ => allMotions
  | .operatorStale, _ => allMotions
  | .channelFault, .encoder .camLeft => onlyMotion .walk
  | .channelFault, .encoder .camRight => onlyMotion .walk
  | .channelFault, .analog .hgCurrent => fedBy .hg arr
  | .channelFault, .analog .dgCurrent => fedBy .dg arr
  | .channelFault, .analog .sgCurrent => onlyMotion .swing
  | .skew, _ => onlyMotion .walk
  | .envelopeInvalid, _ => digMotions
  | .intrusion, _ => digMotions
  | _, _ => noMotions

/-- Whether an entry's condition is present: ACTIVE-UNACK or ACTIVE-ACK. -/
def isActive (e : AlarmEntry) : Bool := e.state != .clearedUnack

/-- Whether an active entry of class `c` affects the motion (R81). -/
def classFlag (c : AlarmClass) (l : List AlarmEntry) (m : Motion) : Bool :=
  l.any fun e => e.cls == c && isActive e && e.affected.get m

/-- Whether the list holds a TRIP entry, in any state, that affects the motion (R157). -/
def tripAffects (l : List AlarmEntry) (m : Motion) : Bool :=
  l.any fun e => e.cls == .trip && e.affected.get m

/-- Whether the list holds a TRIP entry in any state (R157). -/
def holdsTrip (l : List AlarmEntry) : Bool := l.any fun e => e.cls == .trip

/-- Whether an unacknowledged restraining entry stands in the list (R158). -/
def hornSounds (l : List AlarmEntry) : Bool :=
  l.any fun e => e.cls != .warn && e.state != .activeAck

/-- The unit with another list: both flags of every motion and the horn formed again from it (R156, R158). -/
def Alarms.withList (a : Alarms) (l : List AlarmEntry) : Alarms :=
  { a with
    list := l
    hold := PerMotion.of (classFlag .hold l)
    limit := PerMotion.of (classFlag .limit l)
    horn := hornSounds l }

/-! ### The walk permit (R120) -/

/-- The conditions of R120 but for the first. -/
def walkPermitUnmoded (s : State) : Bool :=
  s.bands.boom.valid && s.bands.boom.band == .empty &&
  s.bands.supply.valid && (s.bands.supply.band == .normal || s.bands.supply.band == .low) &&
  !holdsTrip s.alarms.list && s.envelope.edit != .committing

/-- The walk permit, OK when true. -/
def walkPermitOk (s : State) : Bool :=
  (s.sequencer.mode == .parked || s.sequencer.mode == .dig) && walkPermitUnmoded s

/-! ### Ports -/

/-- The receive states of a port (10). -/
inductive ReceiveState where
  | hunting | receiving | held | answering
  deriving DecidableEq, Repr

/-- The receive state of a port. A port that holds no request is RECEIVING while a frame is in progress, also one
whose assembly began while the port was ANSWERING (R169). -/
def PortLink.receiveState (l : PortLink) : ReceiveState :=
  match l.held with
  | some h => if h.answering then .answering else .held
  | none => if l.frame.isSome then .receiving else .hunting

/-! ### Lines -/

/-- Whether a brake's line is energised (R100). -/
def brakeEnergised (b : BrakeRecord) : Bool := b.state == .releasing || b.state == .released

/-- Whether a motion's run-enable line is asserted (R110). -/
def runEnabled (s : State) (m : Motion) : Bool :=
  inService s m && (s.shaper.motions.get m).permit && brakeEnergised (s.gate.brakes.get m)

/-- The output lines: all off until the release (R184); then the brake lines of R100, the run-enable lines of
R110, the attention lines of R177 to R179 and the horn of R158. -/
def linesOf (s : State) : Lines :=
  if s.power = .running then
    { brake := s.gate.brakes.map fun _ b => brakeEnergised b
      runEnable := PerMotion.of (runEnabled s)
      attention :=
        { a := s.ports.a.listChanged || s.alarms.horn
          b := orderPending s.sequencer
          c := s.ports.c.listChanged || s.ports.c.commitEnded }
      horn := s.alarms.horn }
  else
    { brake := noMotions, runEnable := noMotions, attention := ⟨false, false, false⟩, horn := false }

/-- What follows from the state at every event: in-service of every motion (R67), the walk permit (R120) and the
lines. Every command ends with it. -/
def settle (s : State) : State :=
  { s with
    shaper :=
      { s.shaper with motions := s.shaper.motions.map fun m r => { r with inService := inService s m } }
    sequencer := { s.sequencer with walkPermit := walkPermitOk s }
    lines := linesOf s }

end Sys2Proof.Machine
end

