-- ==== Sys2Proof/Machine/Ops.lean ====
section
/-! DEFINITION. The named operations over the blocks: replacing one block, publishing, forming the side references,
dropping a brake, stopping motions at once, entering and removing alarm entries with their effects, and starting a
store write. Every command's meaning is written over these. -/

namespace Sys2Proof.Machine

/-! ### Replacing one block -/

def State.withScanner (s : State) (x : Scanner) : State := { s with scanner := x }
def State.withBands (s : State) (x : Bands) : State := { s with bands := x }
def State.withEnvelope (s : State) (x : Envelope) : State := { s with envelope := x }
def State.withShaper (s : State) (x : Shaper) : State := { s with shaper := x }
def State.withGate (s : State) (x : Gate) : State := { s with gate := x }
def State.withSequencer (s : State) (x : Sequencer) : State := { s with sequencer := x }
def State.withWalk (s : State) (x : WalkTracker) : State := { s with walk := x }
def State.withAlarms (s : State) (x : Alarms) : State := { s with alarms := x }
def State.withPorts (s : State) (x : Ports) : State := { s with ports := x }
def State.withStore (s : State) (x : Store) : State := { s with store := x }
def State.withMemory (s : State) (x : Memory) : State := { s with memory := x }

/-- One port's link replaced. -/
def State.withLink (s : State) (p : Port) (l : PortLink) : State :=
  s.withPorts { s.ports with links := s.ports.links.set p l }

/-- What only Port A holds, replaced. -/
def State.withPortA (s : State) (x : PortA) : State := s.withPorts { s.ports with a := x }

/-- What only Port C holds, replaced. -/
def State.withPortC (s : State) (x : PortC) : State := s.withPorts { s.ports with c := x }

/-- One motion record replaced. -/
def State.withMotion (s : State) (m : Motion) (r : MotionRecord) : State :=
  s.withShaper { s.shaper with motions := s.shaper.motions.set m r }

/-- One brake record replaced. -/
def State.withBrake (s : State) (m : Motion) (b : BrakeRecord) : State :=
  s.withGate { s.gate with brakes := s.gate.brakes.set m b }

/-! ### Publication -/

/-- The outputs as the motion records hold them. -/
def outputsOf (x : Shaper) : PerMotion Int := x.motions.map fun _ r => r.output

/-- The shed marks as the motion records hold them. -/
def shedMarksOf (x : Shaper) : PerMotion Bool := x.motions.map fun _ r => r.shed

/-- The references record published again with the outputs as they stand, the same period number and the shed
marks unchanged (R96). -/
def republish (s : State) : State :=
  s.withShaper { s.shaper with references := { s.shaper.references with outputs := outputsOf s.shaper } }

/-- The trim of a WALK output `ow` under a skew and gain (R140). -/
def trimOf (skew ow : Int) (gain : Nat) : Nat := min ow.natAbs ((skew * ow.sign).natAbs * gain)

/-- WALK-LEFT for a WALK output (R140): slowed by the trim when the left side leads. -/
def walkLeftOf (skew ow : Int) (gain : Nat) : Int :=
  if 0 < skew * ow.sign then ow.sign * (ow.natAbs - trimOf skew ow gain : Int) else ow

/-- WALK-RIGHT for a WALK output (R140): slowed by the trim when the right side leads. -/
def walkRightOf (skew ow : Int) (gain : Nat) : Int :=
  if skew * ow.sign < 0 then ow.sign * (ow.natAbs - trimOf skew ow gain : Int) else ow

/-- A WALK output handed to the Walk Tracker, which forms the side references from it (R140, R141). -/
def handWalkOutput (ow : Int) (s : State) : State :=
  s.withWalk
    { s.walk with
      walkLeft := walkLeftOf s.walk.skew ow s.walk.settings.gain
      walkRight := walkRightOf s.walk.skew ow s.walk.settings.gain }

/-! ### Stopping a motion at once -/

/-- A motion record zeroed: output and target 0, dwell 0, reversal-pending clear (R96, R68, R105). -/
def MotionRecord.zeroed (r : MotionRecord) : MotionRecord :=
  { r with output := 0, target := 0, dwell := 0, reversalPending := false }

/-- The motions named are zeroed, the references republished, and a WALK output of 0 handed on if WALK is among
them (R96, R141). -/
def zeroMotions (ms : PerMotion Bool) (s : State) : State :=
  let zeroed := republish (s.withShaper
    { s.shaper with motions := s.shaper.motions.map fun m r => if ms.get m then r.zeroed else r })
  if ms.walk then handWalkOutput 0 zeroed else zeroed

/-- The run permits of the motions named are cleared (R74). -/
def clearPermits (ms : PerMotion Bool) (s : State) : State :=
  s.withShaper
    { s.shaper with
      motions := s.shaper.motions.map fun m r => if ms.get m then { r with permit := false } else r }

/-- A drop order at one brake (R108). -/
def dropBrake (b : BrakeRecord) : BrakeRecord :=
  match b.state with
  | .set => b
  | .releasing => { b with state := .setting, count := 0 }
  | .released => { b with state := .setting, count := 0 }
  | .setting => { b with remembered := false }

/-- A drop order at the brakes of the motions named (R108). -/
def dropBrakes (ms : PerMotion Bool) (s : State) : State :=
  s.withGate
    { s.gate with brakes := s.gate.brakes.map fun m b => if ms.get m then dropBrake b else b }

/-- The mode an all-motion trip leaves (R130). -/
def modeAfterTrip : Mode → Mode
  | .parked => .parked
  | .dig => .stopping .dig .parked
  | .walk => .stopping .walk .parked
  | .stopping source _ => .stopping source .parked
  | .transferring _ => .transferring .parked

/-- An all-motion trip at the Mode Sequencer (R130). -/
def allMotionTrip (s : State) : State :=
  s.withSequencer { s.sequencer with queue := [], mode := modeAfterTrip s.sequencer.mode }

/-- The effects of a TRIP entry appended or re-raised (R155): the shaper clears the permits and zeroes the motions
(R74, R96), the gate drops their brakes (R108), and the sequencer takes a trip of all four (R130). An entry with no
affected motion hands nothing on. -/
def tripEffects (ms : PerMotion Bool) (s : State) : State :=
  if ms.any then
    let stopped := dropBrakes ms (zeroMotions ms (clearPermits ms s))
    if ms.every then allMotionTrip stopped else stopped
  else s

/-! ### The alarm list (R147 to R153) -/

/-- Whether an entry is the one of a code and source (R148). -/
def AlarmEntry.isFor (e : AlarmEntry) (c : AlarmCode) (src : Source) : Bool := e.code == c && e.source == src

/-- The entry of a code and source (R148). -/
def findEntry (l : List AlarmEntry) (c : AlarmCode) (src : Source) : Option AlarmEntry :=
  l.find? fun e => e.isFor c src

/-- The entry of a code and source changed in its place (R148). -/
def changeEntry (l : List AlarmEntry) (c : AlarmCode) (src : Source) (f : AlarmEntry → AlarmEntry) :
    List AlarmEntry :=
  l.map fun e => if e.isFor c src then f e else e

/-- The entry of a code and source removed; the others close up (R148). -/
def removeEntry (l : List AlarmEntry) (c : AlarmCode) (src : Source) : List AlarmEntry :=
  l.filter fun e => !e.isFor c src

/-- The oldest WARN entry of the list (R152). -/
def oldestWarn (l : List AlarmEntry) : Option AlarmEntry := l.find? fun e => e.cls == .warn

/-- The list without its oldest WARN entry (R152). -/
def evictWarn (l : List AlarmEntry) : List AlarmEntry := l.eraseP fun e => e.cls == .warn

/-- An occurrence count after one more (R147). -/
def nextOccurrence (n : Nat) : Nat := min Config.occurrenceMax (n + 1)

/-- What a report does to the unit: the unit after it, whether it changed the list or the overrun mark (R162), and
whether it appended or re-raised an entry, so that class effects apply (R149). -/
structure Reported where
  unit : Alarms
  changed : Bool
  applied : Bool

/-- A new entry of a code and source (R149), in the state given. -/
def newEntry (a : Alarms) (arr : Arrangement) (c : AlarmCode) (src : Source) (d : Option Detail) (st : AlarmState) :
    AlarmEntry :=
  { code := c, source := src, detail := d, cls := alarmClass c src, affected := affectedMotions arr c src,
    state := st, raisedAt := a.seconds, changedAt := a.seconds, occurrences := 1 }

/-- The conditions present without an entry once an entry is dropped or evicted: its own joins them while it is
present (R152, log entry 21). -/
def lostAfter (lost : List (AlarmCode × Source)) (e : AlarmEntry) : List (AlarmCode × Source) :=
  if e.state = .clearedUnack then lost else lost.insert (e.code, e.source)

/-- The unit once a full list has dropped or evicted an entry, where there is one: the overrun mark is set (R152). -/
def Alarms.lose (a : Alarms) (e : Option AlarmEntry) : Alarms :=
  { a with overrun := true, lost := e.elim a.lost (lostAfter a.lost) }

/-- The unit once a condition is no longer one present without an entry (R152, log entry 21). -/
def Alarms.forget (a : Alarms) (c : AlarmCode) (src : Source) : Alarms :=
  { a with lost := a.lost.filter fun p => p != (c, src) }

/-- Whether a condition is present without an entry, as a WARN condition alone can be (R152, log entry 21). -/
def Alarms.hasLost (a : Alarms) (c : AlarmCode) (src : Source) : Bool :=
  alarmClass c src == .warn && a.lost.contains (c, src)

/-- An entry appended; a full list evicts its oldest WARN entry for a restraining one and drops a WARN one, and
either sets the overrun mark (R149, R152). -/
def appendEntry (a : Alarms) (e : AlarmEntry) : Reported :=
  if a.list.length < Config.alarmCapacity then
    ⟨(a.forget e.code e.source).withList (a.list ++ [e]), true, true⟩
  else if e.cls = .warn then ⟨a.lose (some e), !a.overrun, false⟩
  else ⟨(a.lose (oldestWarn a.list)).withList (evictWarn a.list ++ [e]), true, true⟩

/-- An entry re-raised to the state given (R149, R151). -/
def reRaise (a : Alarms) (arr : Arrangement) (d : Option Detail) (st : AlarmState) (e : AlarmEntry) : AlarmEntry :=
  { e with
    state := st, occurrences := nextOccurrence e.occurrences, affected := affectedMotions arr e.code e.source,
    detail := d, changedAt := a.seconds }

/-- A raise of a held condition (R149). One that is still present without an entry stays so until it is reported gone
and raised again (R152). -/
def raiseHeld (a : Alarms) (arr : Arrangement) (c : AlarmCode) (src : Source) (d : Option Detail) : Reported :=
  match findEntry a.list c src with
  | none => if a.hasLost c src then ⟨a, false, false⟩ else appendEntry a (newEntry a arr c src d .activeUnack)
  | some e =>
    if e.state = .clearedUnack then
      ⟨a.withList (changeEntry a.list c src (reRaise a arr d .activeUnack)), true, true⟩
    else if e.detail = d then ⟨a, false, false⟩
    else ⟨a.withList (changeEntry a.list c src fun e => { e with detail := d, changedAt := a.seconds }), true, false⟩

/-- A raise of a momentary condition (R151): its entry stands in CLEARED-UNACK alone. -/
def raiseMomentary (a : Alarms) (arr : Arrangement) (c : AlarmCode) (src : Source) (d : Option Detail) : Reported :=
  match findEntry a.list c src with
  | none => appendEntry a (newEntry a arr c src d .clearedUnack)
  | some _ => ⟨a.withList (changeEntry a.list c src (reRaise a arr d .clearedUnack)), true, true⟩

/-- A report that a condition is gone (R150). Against no entry it changes nothing in the list; the condition may then
be raised afresh (R152). -/
def conditionGone (a : Alarms) (c : AlarmCode) (src : Source) : Reported :=
  match findEntry a.list c src with
  | none => ⟨a.forget c src, false, false⟩
  | some e =>
    match e.state with
    | .activeUnack =>
      ⟨a.withList (changeEntry a.list c src fun e => { e with state := .clearedUnack, changedAt := a.seconds }),
        true, false⟩
    | .activeAck => ⟨a.withList (removeEntry a.list c src), true, false⟩
    | .clearedUnack => ⟨a, false, false⟩

/-- A list change told to Ports A and C, which set their list-changed marks (R162). -/
def noteListChange (s : State) : State :=
  s.withPorts
    { s.ports with a := { s.ports.a with listChanged := true }, c := { s.ports.c with listChanged := true } }

/-- The unit after a report, with the notice of a list change where there is one. -/
def takeReport (r : Reported) (s : State) : State :=
  if r.changed then noteListChange (s.withAlarms r.unit) else s.withAlarms r.unit

/-- The class effects of a raise that appended or re-raised an entry (R155); HOLD and LIMIT act through the flags
that came with the list (R156). -/
def applyClass (r : Reported) (c : AlarmCode) (src : Source) (s : State) : State :=
  if r.applied && alarmClass c src == .trip then
    tripEffects (affectedMotions s.sequencer.record.arrangement c src) s
  else s

/-- A held condition reported raised to the Alarm Unit (R149, R155). -/
def reportRaise (c : AlarmCode) (src : Source) (d : Option Detail) (s : State) : State :=
  let r := raiseHeld s.alarms s.sequencer.record.arrangement c src d
  applyClass r c src (takeReport r s)

/-- A momentary condition reported to the Alarm Unit (R151, R155). -/
def reportMomentary (c : AlarmCode) (src : Source) (d : Option Detail) (s : State) : State :=
  let r := raiseMomentary s.alarms s.sequencer.record.arrangement c src d
  applyClass r c src (takeReport r s)

/-- A condition reported gone to the Alarm Unit (R150). -/
def reportGone (c : AlarmCode) (src : Source) (s : State) : State :=
  takeReport (conditionGone s.alarms c src) s

/-- A report whose condition is compared with what was last reported: a raise when it appears or its detail changes,
a gone when it has ended, nothing when it is as reported (the manner of R46). -/
def reportChange (c : AlarmCode) (src : Source) (before now : Option (Option Detail)) (s : State) : State :=
  match now with
  | some d => if before = some d then s else reportRaise c src d s
  | none => if before.isSome then reportGone c src s else s

/-! ### Settings Store -/

/-- A single write started (R182). -/
def startWrite (w : RecordWrite) (s : State) : State := s.withStore (.writing w)

/-- What a load finds at each position (R181, R184, R185). -/
def Memory.load (mem : Memory) : Loaded where
  profileCommon := readRecord .profileCommon mem.profileCommon
  profileA := readRecord .profileA mem.profileA
  profileB := readRecord .profileB mem.profileB
  association := readRecord .association mem.association
  encoderCal := mem.encoderCal.map fun e r => readRecord (calOf e) r
  analogCal := mem.analogCal.map fun a r => readRecord (.calAnalog a) r
  supplyBands := readRecord .supplyBands mem.supplyBands
  boomBands := readRecord .boomBands mem.boomBands
  currentTrip := readRecord .currentTrip mem.currentTrip
  sharing := readRecord .sharing mem.sharing
  walk := readRecord .walk mem.walk
  gate := readRecord .gate mem.gate
  sequencer := readRecord .sequencer mem.sequencer
  zones := mem.zones.mapIdx fun i r => readRecord (.zone i) r
  header := readRecord .zoneHeader mem.header

/-- The memory with a record written: its new contents under the check word formed from them (R181, R182). -/
def Memory.write (mem : Memory) : RecordWrite → Memory
  | .profileCommon p => { mem with profileCommon := sealRecord .profileCommon p }
  | .profileA p => { mem with profileA := sealRecord .profileA p }
  | .profileB p => { mem with profileB := sealRecord .profileB p }
  | .association n => { mem with association := sealRecord .association n }
  | .calEncoder e cal _ => { mem with encoderCal := mem.encoderCal.set e (sealRecord (calOf e) cal) }
  | .calAnalog a cal => { mem with analogCal := mem.analogCal.set a (sealRecord (.calAnalog a) cal) }
  | .supplyBands t => { mem with supplyBands := sealRecord .supplyBands t }
  | .boomBands b => { mem with boomBands := sealRecord .boomBands b }
  | .currentTrip t => { mem with currentTrip := sealRecord .currentTrip t }
  | .sharing h => { mem with sharing := sealRecord .sharing h }
  | .walk w => { mem with walk := sealRecord .walk w }
  | .gate n => { mem with gate := sealRecord .gate n }
  | .sequencer n => { mem with sequencer := sealRecord .sequencer n }
  | .zone i z => { mem with zones := mem.zones.set i (sealRecord (.zone i) z) }
  | .zoneHeader h => { mem with header := sealRecord .zoneHeader h }

/-- The memory with a record left failing its check: it keeps neither its old nor its new contents (R183). -/
def Memory.spoil (mem : Memory) : RecordWrite → Memory
  | .profileCommon _ => { mem with profileCommon := none }
  | .profileA _ => { mem with profileA := none }
  | .profileB _ => { mem with profileB := none }
  | .association _ => { mem with association := none }
  | .calEncoder e _ _ => { mem with encoderCal := mem.encoderCal.set e none }
  | .calAnalog a _ => { mem with analogCal := mem.analogCal.set a none }
  | .supplyBands _ => { mem with supplyBands := none }
  | .boomBands _ => { mem with boomBands := none }
  | .currentTrip _ => { mem with currentTrip := none }
  | .sharing _ => { mem with sharing := none }
  | .walk _ => { mem with walk := none }
  | .gate _ => { mem with gate := none }
  | .sequencer _ => { mem with sequencer := none }
  | .zone i _ => { mem with zones := mem.zones.set i none }
  | .zoneHeader _ => { mem with header := none }

/-- A write in flight cut off (R183): the record under way fails its check; the store is IDLE at the load that
follows. -/
def cutOff (s : State) : State :=
  match s.store with
  | .idle => s
  | .writing w => (s.withMemory (s.memory.spoil w)).withStore .idle
  | .committing w _ => (s.withMemory (s.memory.spoil w)).withStore .idle

end Sys2Proof.Machine
end

