-- ==== Sys2Proof/Machine/Scanner.lean ====
section
/-! DEFINITION. The Channel Scanner (01): scaling and checks of the ten channels, the scan, ZERO-CHANNEL, the
completion of a calibration write, and CHANNEL-FAULT. -/

namespace Sys2Proof.Machine

/-! ### Encoder channels -/

/-- count − offset in wrapping 32-bit arithmetic, read as signed (R3). -/
def countsFrom (count offset : Word) : Int := (count - offset).toInt

/-- The scaled value of an encoder channel before clamping (R5, R6, R7). -/
def encoderScaled (e : EncoderId) (cal : EncoderCal) (count : Word) : Int :=
  let d := countsFrom count cal.offset
  match e with
  | .hoistPayout => Int.tdiv (d * cal.scale) 1000
  | .dragPayout => Int.tdiv (d * cal.scale) 1000
  | .swingAngle => Int.fdiv (Int.emod d cal.scale * 3600) cal.scale
  | .camLeft => Int.fdiv (d * 360) cal.scale
  | .camRight => Int.fdiv (d * 360) cal.scale

/-- The low end of an encoder channel's value range (01). -/
def encoderLow : EncoderId → Int
  | .hoistPayout => 0
  | .dragPayout => 0
  | .swingAngle => 0
  | .camLeft => -999999
  | .camRight => -999999

/-- The high end of an encoder channel's value range (01). -/
def encoderHigh : EncoderId → Int
  | .hoistPayout => 30000
  | .dragPayout => 30000
  | .swingAngle => 3599
  | .camLeft => 999999
  | .camRight => 999999

/-- The scaled value of an encoder channel (R5, R6, R7). -/
def encoderValue (e : EncoderId) (cal : EncoderCal) (count : Word) : Int :=
  clampInt (encoderLow e) (encoderHigh e) (encoderScaled e cal count)

/-- Whether the counts of one scan exceed the maximum step (R4). -/
def stepExceeded (cal : EncoderCal) (count prev : Word) : Bool :=
  decide (cal.maxStep < (count - prev).toInt.natAbs)

/-- The sticky marks after a scan (R12): BELOW and ABOVE for a VALID channel whose value was clamped, FAULT-SEEN
for a channel in FAULT. -/
def scanMarks (m : Marks) (valid fault : Bool) (unclamped low high : Int) : Marks :=
  { below := m.below || (valid && decide (unclamped < low))
    above := m.above || (valid && decide (high < unclamped))
    faultSeen := m.faultSeen || fault }

/-- An encoder channel record after a scan completion (R4, R8, R12). -/
def scanEncoder (e : EncoderId) (r : EncoderRecord) : EncoderRecord :=
  let state := if stepExceeded r.cal r.count r.prev then .fault else r.state
  let value := encoderValue e r.cal r.count
  { r with
    prev := r.count
    scaled := value
    state := state
    lastGood := if state = .valid then value else r.lastGood
    marks := scanMarks r.marks (state == .valid) (state == .fault) (encoderScaled e r.cal r.count) (encoderLow e)
      (encoderHigh e) }

/-- The published value of an encoder channel for the state it has after the scan (R8). -/
def encoderPublished (r : EncoderRecord) : Int := if r.state = .fault then r.lastGood else r.scaled

/-- What a snapshot takes of an encoder channel (R2). -/
def sampleEncoder (r : EncoderRecord) : EncoderSample :=
  { state := r.state, value := encoderPublished r, marks := r.marks, raw := r.count }

/-- The cam angle of a cam position, the clamped scaled value of the scan (R7). -/
def camAngle (position : Int) : Nat := (Int.emod position 360).toNat

/-- The detail of an encoder channel's fault condition; none while it is VALID (R13). -/
def encoderFaultDetail : EncoderState → Option Detail
  | .valid => none
  | .notReferenced => some .notReferenced
  | .fault => some .step

/-! ### Analog channels -/

/-- The low end of an analog channel's value range (R9). -/
def analogLow : AnalogId → Int
  | .hgCurrent => -2499
  | .dgCurrent => -2499
  | .sgCurrent => -2499
  | .boomLoad => 0
  | .supplyVoltage => 0

/-- The high end of an analog channel's value range (R9). -/
def analogHigh : AnalogId → Int
  | .hgCurrent => 2499
  | .dgCurrent => 2499
  | .sgCurrent => 2499
  | .boomLoad => 1999
  | .supplyVoltage => 1499

/-- The scaled value of an analog channel before clamping (R9). -/
def analogScaled (cal : AnalogCal) (raw : Sample) : Int :=
  Int.tdiv (((raw.toNat : Int) - cal.offset) * cal.gain) 4096

/-- The scaled value of an analog channel (R9). -/
def analogValue (a : AnalogId) (cal : AnalogCal) (raw : Sample) : Int :=
  clampInt (analogLow a) (analogHigh a) (analogScaled cal raw)

/-- The limit a raw value fails, if any (R10): a low limit of 0 and a high limit of 4095 are disabled. -/
def limitFailed (cal : AnalogCal) (raw : Sample) : Option AnalogState :=
  if cal.low ≠ 0 ∧ raw.toNat ≤ cal.low then some .faultLow
  else if cal.high ≠ 4095 ∧ cal.high ≤ raw.toNat then some .faultHigh
  else none

/-- The state and good-scan run count after a plausibility check (R10, R11). -/
def plausibility (state : AnalogState) (goodRun : Nat) (failed : Option AnalogState) : AnalogState × Nat :=
  match state, failed with
  | .valid, none => (.valid, 0)
  | .valid, some detail => (detail, 0)
  | _, none =>
    if goodRun + 1 < Config.recoveryScans then (state, goodRun + 1) else (.valid, 0)
  | _, some _ => (state, 0)

/-- An analog channel record after a scan completion with conversion `raw` (R9 to R12). -/
def scanAnalog (a : AnalogId) (raw : Sample) (r : AnalogRecord) : AnalogRecord :=
  let after := plausibility r.state r.goodRun (limitFailed r.cal raw)
  let value := analogValue a r.cal raw
  { r with
    raw := raw
    scaled := value
    state := after.1
    goodRun := after.2
    lastGood := if after.1 = .valid then value else r.lastGood
    marks := scanMarks r.marks (after.1 == .valid) (after.1 != .valid) (analogScaled r.cal raw) (analogLow a)
      (analogHigh a) }

/-- The published value of an analog channel for the state it has after the scan (R11). -/
def analogPublished (r : AnalogRecord) : Int := if r.state = .valid then r.scaled else r.lastGood

/-- What a snapshot takes of an analog channel (R2). -/
def sampleAnalog (r : AnalogRecord) : AnalogSample :=
  { state := r.state, value := analogPublished r, marks := r.marks, raw := r.raw }

/-- The detail of an analog channel's fault condition; none while it is VALID (R13). -/
def analogFaultDetail : AnalogState → Option Detail
  | .valid => none
  | .faultLow => some .lowLimit
  | .faultHigh => some .highLimit

/-! ### The scan -/

/-- The snapshot of the records as they stand, under a scan number (R2). -/
def takeSnapshot (encoders : PerEncoder EncoderRecord) (analogs : PerAnalog AnalogRecord) (number : Word) :
    Snapshot :=
  { number := number
    encoders := encoders.map fun _ r => sampleEncoder r
    analogs := analogs.map fun _ r => sampleAnalog r
    camLeftAngle := camAngle encoders.camLeft.scaled
    camRightAngle := camAngle encoders.camRight.scaled }

/-- The scanner after a scan completion: every record updated and a new snapshot published (R1). -/
def scanChannels (conversions : PerAnalog Sample) (x : Scanner) : Scanner :=
  let encoders := x.encoders.map scanEncoder
  let analogs := x.analogs.map fun a r => scanAnalog a (conversions.get a) r
  let number := x.scanNumber + 1
  { encoders := encoders
    analogs := analogs
    scanNumber := number
    snapshot := some (takeSnapshot encoders analogs number)
    reportDue := false }

/-- A fault condition reported at a scan completion (R13): a raise when the channel's state has changed to one of
its fault condition, and for every fault condition at the first scan completion after a reset; gone when the channel
has entered VALID. -/
def reportChannel (src : Source) (due changed : Bool) (now : Option Detail) (s : State) : State :=
  match now with
  | some d => if due || changed then reportRaise .channelFault src (some d) s else s
  | none => if changed then reportGone .channelFault src s else s

/-- The report of one encoder channel, from the record before the scan and the one after it. -/
def reportEncoder (due : Bool) (before after : PerEncoder EncoderRecord) (e : EncoderId) (s : State) : State :=
  reportChannel (.encoder e) due (decide ((before.get e).state ≠ (after.get e).state))
    (encoderFaultDetail (after.get e).state) s

/-- The report of one analog channel, from the record before the scan and the one after it. -/
def reportAnalog (due : Bool) (before after : PerAnalog AnalogRecord) (a : AnalogId) (s : State) : State :=
  reportChannel (.analog a) due (decide ((before.get a).state ≠ (after.get a).state))
    (analogFaultDetail (after.get a).state) s

/-- The Channel Scanner's scan completion: records, snapshot and the reports of the ten channels (R1, R13), in the order
of their numbers (DESIGN CHOICE, log entry 9). -/
def scannerScan (conversions : PerAnalog Sample) (s : State) : State :=
  let before := s.scanner
  let after := scanChannels conversions before
  let reportedEncoders :=
    EncoderId.all.foldl (fun t e => reportEncoder before.reportDue before.encoders after.encoders e t)
      (s.withScanner after)
  AnalogId.all.foldl (fun t a => reportAnalog before.reportDue before.analogs after.analogs a t) reportedEncoders

/-! ### ZERO-CHANNEL (R14) -/

/-- The new offset for a value at a count (R14). -/
def zeroOffset (e : EncoderId) (cal : EncoderCal) (count : Word) (value : Int) : Word :=
  match e with
  | .hoistPayout => count - BitVec.ofInt 32 (Int.tdiv (value * 1000) cal.scale)
  | .dragPayout => count - BitVec.ofInt 32 (Int.tdiv (value * 1000) cal.scale)
  | .swingAngle => count - BitVec.ofInt 32 (ceilDiv (value * cal.scale) 3600)
  | .camLeft => count - BitVec.ofInt 32 (ceilDiv (value * cal.scale) 360)
  | .camRight => count - BitVec.ofInt 32 (ceilDiv (value * cal.scale) 360)

/-- An encoder channel referenced to a value: the new offset at once, and VALID whatever it was (R14). -/
def zeroEncoder (e : EncoderId) (value : Int) (r : EncoderRecord) : EncoderRecord :=
  { r with cal := { r.cal with offset := zeroOffset e r.cal r.count value }, state := .valid }

/-- An accepted ZERO-CHANNEL: the channel referenced, its fault condition reported gone if it was not VALID, and
the write of its CAL record begun (R14). -/
def zeroChannel (e : EncoderId) (value : Int) (s : State) : State :=
  let before := s.scanner.encoders.get e
  let after := zeroEncoder e value before
  let referenced := s.withScanner { s.scanner with encoders := s.scanner.encoders.set e after }
  let reported := if before.state = .valid then referenced else reportGone .channelFault (.encoder e) referenced
  startWrite (.calEncoder e after.cal true) reported

/-! ### Completion of a calibration write (R15) -/

/-- New calibration of an encoder channel: a VALID channel becomes NOT-REFERENCED and its fault condition is
raised. -/
def recalibrateEncoder (e : EncoderId) (cal : EncoderCal) (s : State) : State :=
  let before := s.scanner.encoders.get e
  if before.state = .valid then
    reportRaise .channelFault (.encoder e) (some .notReferenced)
      (s.withScanner
        { s.scanner with encoders := s.scanner.encoders.set e { before with cal := cal, state := .notReferenced } })
  else s.withScanner { s.scanner with encoders := s.scanner.encoders.set e { before with cal := cal } }

/-- New calibration of an analog channel, which keeps its state and its good-scan run count. -/
def recalibrateAnalog (a : AnalogId) (cal : AnalogCal) (s : State) : State :=
  s.withScanner
    { s.scanner with analogs := s.scanner.analogs.set a { s.scanner.analogs.get a with cal := cal } }

/-! ### Marks, edges and RESTART -/

/-- CLEAR-MARKS: every sticky mark of every channel cleared (R12). -/
def clearMarks (x : Scanner) : Scanner :=
  { x with
    encoders := x.encoders.map fun _ r => { r with marks := .clear }
    analogs := x.analogs.map fun _ r => { r with marks := .clear } }

/-- One quadrature edge: the count up for a forward edge and down for a reverse one, wrapping (R3). -/
def encoderEdge (e : EncoderId) (forward : Bool) (x : Scanner) : Scanner :=
  let r := x.encoders.get e
  { x with encoders := x.encoders.set e { r with count := if forward then r.count + 1 else r.count - 1 } }

/-- The scanner's part of a RESTART (R17). -/
def restartScanner (x : Scanner) : Scanner :=
  { x with
    encoders := x.encoders.map fun _ r => { r with marks := .clear }
    analogs := x.analogs.map fun _ r => { r with marks := .clear, goodRun := 0 }
    reportDue := true }

end Sys2Proof.Machine
end

