-- ==== Sys2Proof/Machine/Bands.lean ====
section
/-! DEFINITION. The Band Monitor (02): classification, debounce, the current integrators, the band alarms and the
completions of its writes. -/

namespace Sys2Proof.Machine

/-! ### Classification -/

/-- The supply band of a value (R19). -/
def classifySupply (t : SupplyThresholds) (v : Int) : SupplyBand :=
  if (t.t1 : Int) ≤ v then .normal else if (t.t2 : Int) ≤ v then .low else if (t.t3 : Int) ≤ v then .sag else .lost

/-- The boom band of a value (R20). -/
def classifyBoom (t : BoomSettings) (v : Int) : BoomBand :=
  if v ≤ (t.g : Int) then .empty else if v < (t.h : Int) then .normal else if v < (t.o : Int) then .heavy
  else .overload

/-- The place of a supply band from better to worse (R19). -/
def supplyRank : SupplyBand → Nat
  | .normal => 0
  | .low => 1
  | .sag => 2
  | .lost => 3

/-- The place of a boom band from better to worse (R20). -/
def boomRank : BoomBand → Nat
  | .empty => 0
  | .normal => 1
  | .heavy => 2
  | .overload => 3

/-! ### Debounce -/

/-- The debounce restarted: not valid, no candidate, run count 0; the band is kept (R22). -/
def restartDebounce {β : Type} (r : BandRecord β) : BandRecord β :=
  { r with valid := false, candidate := none, run := 0 }

/-- The run count for a candidate (R21). -/
def nextRun {β : Type} [DecidableEq β] (r : BandRecord β) (c : β) : Nat :=
  if r.candidate = some c then min Config.runCountMax (r.run + 1) else 1

/-- One scan of the debounce with candidate `c` (R21, R22): an established band changes to a worse candidate at the
worse-count and to a better one at the better-count; a band being established takes the candidate at the
worse-count. -/
def debounce {β : Type} [DecidableEq β] (rank : β → Nat) (worse better : Nat) (c : β) (r : BandRecord β) :
    BandRecord β :=
  let run := nextRun r c
  let seen := { r with candidate := some c, run := run }
  if r.valid then
    if rank r.band < rank c then if worse ≤ run then { seen with band := c } else seen
    else if rank c < rank r.band then if better ≤ run then { seen with band := c } else seen
    else seen
  else if worse ≤ run then { seen with band := c, valid := true } else seen

/-- The supply record's scan (R19, R21 to R23): frozen while its channel is in FAULT. -/
def scanSupply (t : SupplyThresholds) (x : AnalogSample) (r : BandRecord SupplyBand) : BandRecord SupplyBand :=
  if x.state = .valid then
    debounce supplyRank Config.supplyWorse Config.supplyBetter (classifySupply t x.value) r
  else restartDebounce r

/-- The boom record's scan (R20 to R23). -/
def scanBoom (t : BoomSettings) (x : AnalogSample) (r : BandRecord BoomBand) : BandRecord BoomBand :=
  if x.state = .valid then debounce boomRank Config.boomWorse Config.boomBetter (classifyBoom t x.value) r
  else restartDebounce r

/-! ### Current integrators -/

/-- The current channel of a group. -/
def currentChannel : Group → AnalogId
  | .hg => .hgCurrent
  | .dg => .dgCurrent
  | .sg => .sgCurrent

/-- Whether a group's integrator is blanked by the transfer (R31). -/
def blanked (pending : Bool) : Group → Bool
  | .sg => false
  | _ => pending

/-- An integrator's step and whether it trips, after which it is 0 (R29, R30); 0 and no trip while held (R31). -/
def stepIntegrator (held : Bool) (level count : Nat) (i : Int) (n : Nat) : Nat × Bool :=
  if held then (0, false)
  else
    let stepped := if level < i.natAbs then n + 1 else n - 1
    if count ≤ stepped then (0, true) else (stepped, false)

/-- A group's integrator at a scan completion (R29 to R31). -/
def scanIntegrator (b : Bands) (pending : Bool) (snap : Snapshot) (g : Group) : Nat × Bool :=
  let x := snap.analogs.get (currentChannel g)
  stepIntegrator (blanked pending g || x.state != .valid) (b.trip.levels.get g) (b.trip.counts.get g) x.value
    (b.integrators.get g)

/-- The HG and DG integrators taken to 0 at the event that issues a transfer order, and held there while it is PENDING,
so that the first scan completion after it steps from 0 (R31, R125; DEDUCED, log entry 20). -/
def blankIntegrators (b : Bands) : Bands := { b with integrators := { b.integrators with hg := 0, dg := 0 } }

/-! ### Band alarms (R26) -/

/-- The condition of an effective supply band. -/
def supplyAlarm : SupplyBand → Option AlarmCode
  | .normal => none
  | .low => some .supplyLow
  | .sag => some .supplySag
  | .lost => some .supplyLost

/-- The condition of an effective boom band. -/
def boomAlarm : BoomBand → Option AlarmCode
  | .overload => some .boomOverload
  | _ => none

/-- A change from one condition of a source to another: the old gone and the new raised (R26). -/
def reportBand (src : Source) (before now : Option AlarmCode) (s : State) : State :=
  if before = now then s
  else
    let ended := match before with
      | some c => reportGone c src s
      | none => s
    match now with
    | some c => reportRaise c src none ended
    | none => ended

/-- The band alarms of an event that took the monitor from `before` to `now` (R26); at the first event after a
reset every condition then present is raised. The supply is reported before the boom (DESIGN CHOICE, log entry 9). -/
def reportBands (before now : Bands) (s : State) : State :=
  let old (c : Option AlarmCode) : Option AlarmCode := if before.reportDue then none else c
  reportBand .boom (old (boomAlarm (effectiveBoom before))) (boomAlarm (effectiveBoom now))
    (reportBand .supply (old (supplyAlarm (effectiveSupply before))) (supplyAlarm (effectiveSupply now)) s)

/-- The monitor changed at one of its events, with the band alarms that follow (R24, R26). -/
def bandEvent (now : Bands) (s : State) : State :=
  reportBands s.bands now (s.withBands { now with reportDue := false })

/-! ### The scan (R18) -/

/-- OVERCURRENT of a group, if its integrator tripped (R30). -/
def reportOvercurrent (tripped : PerGroup Bool) (g : Group) (s : State) : State :=
  if tripped.get g then reportMomentary .overcurrent (.group g) none s else s

/-- The monitor after a snapshot: both bands and the three integrators (R18). -/
def scannedBands (pending : Bool) (snap : Snapshot) (b : Bands) : Bands :=
  { b with
    supply := scanSupply b.thresholds snap.analogs.supplyVoltage b.supply
    boom := scanBoom b.boomSettings snap.analogs.boomLoad b.boom
    integrators := b.integrators.map fun g _ => (scanIntegrator b pending snap g).1 }

/-- The Band Monitor's event at a snapshot publication (R18). -/
def bandsScan (snap : Snapshot) (s : State) : State :=
  let pending := orderPending s.sequencer
  let tripped := s.bands.integrators.map fun g _ => (scanIntegrator s.bands pending snap g).2
  let banded := bandEvent (scannedBands pending snap s.bands) s
  reportOvercurrent tripped .sg (reportOvercurrent tripped .dg (reportOvercurrent tripped .hg banded))

/-! ### Completions (R28, R32, R25) and RESTART (R34) -/

def applySupplyBands (t : SupplyThresholds) (s : State) : State :=
  bandEvent { s.bands with thresholds := t, supply := restartDebounce s.bands.supply } s

def applyBoomBands (t : BoomSettings) (s : State) : State :=
  bandEvent { s.bands with boomSettings := t, boom := restartDebounce s.bands.boom } s

def applyCurrentTrip (t : TripSettings) (s : State) : State := s.withBands { s.bands with trip := t }

def applyBudgets (t : Budgets) (s : State) : State := s.withBands { s.bands with budgets := t }

/-- The monitor's part of a RESTART (R34). -/
def restartBands (b : Bands) : Bands :=
  { b with
    supply := restartDebounce b.supply
    boom := restartDebounce b.boom
    integrators := ⟨0, 0, 0⟩
    reportDue := true }

end Sys2Proof.Machine
end

