-- ==== Sys2Proof/Machine/Envelope.lean ====
section
/-! DEFINITION. The Envelope Unit (03): the tests of a zone, the caps, the envelope condition, membership and alarms,
the edit buffer and the commit. -/

namespace Sys2Proof.Machine

/-! ### Inside a zone -/

/-- The point P = (θ, h, g) of a snapshot (R38). -/
structure Point where
  θ : Int
  h : Int
  g : Int
  deriving DecidableEq, Repr

/-- The circular difference of two swing angles, 0..3599. -/
def swingDiff (x y : Int) : Int := Int.emod (x - y) 3600

/-- Whether an angle is inside a sector; a sector with from equal to to is the whole circle (R39). -/
def inSector (box : ZoneBox Nat) (θ : Int) : Bool :=
  decide (box.sectorFrom = box.sectorTo) ||
    decide (swingDiff θ box.sectorFrom ≤ swingDiff box.sectorTo box.sectorFrom)

/-- Whether a payout lies in lo..hi, both ends included (R40). -/
def inRange (lo hi : Nat) (x : Int) : Bool := decide ((lo : Int) ≤ x) && decide (x ≤ (hi : Int))

def inHoist (box : ZoneBox Nat) (h : Int) : Bool := inRange box.hoistLo box.hoistHi h

def inDrag (box : ZoneBox Nat) (g : Int) : Bool := inRange box.dragLo box.dragHi g

/-- Whether the point is inside the zone (R40). -/
def inBox (box : ZoneBox Nat) (p : Point) : Bool := inSector box p.θ && inHoist box p.h && inDrag box p.g

/-! ### Caps -/

/-- The approach distance δ of a zone for a motion in a direction, where the zone restrains it (R41). -/
def approach (box : ZoneBox Nat) (p : Point) : DigMotion → Direction → Option Int
  | .swing, .positive =>
    if inHoist box p.h && inDrag box p.g && !inSector box p.θ then some (swingDiff box.sectorFrom p.θ) else none
  | .swing, .negative =>
    if inHoist box p.h && inDrag box p.g && !inSector box p.θ then some (swingDiff p.θ box.sectorTo) else none
  | .hoist, .positive =>
    if inSector box p.θ && inDrag box p.g && decide ((box.hoistHi : Int) < p.h) then some (p.h - box.hoistHi)
    else none
  | .hoist, .negative =>
    if inSector box p.θ && inDrag box p.g && decide (p.h < (box.hoistLo : Int)) then some (box.hoistLo - p.h)
    else none
  | .drag, .positive =>
    if inSector box p.θ && inHoist box p.h && decide ((box.dragHi : Int) < p.g) then some (p.g - box.dragHi)
    else none
  | .drag, .negative =>
    if inSector box p.θ && inHoist box p.h && decide (p.g < (box.dragLo : Int)) then some (box.dragLo - p.g)
    else none

/-- The cap of a KEEP-OUT zone at approach distance δ, from its margin, its band and the motion's creep (R42). -/
def approachCap (creep margin band : Nat) (δ : Int) : Nat :=
  if δ ≤ (margin : Int) then 0
  else if ((margin + band : Nat) : Int) ≤ δ then 1000
  else max creep (Int.fdiv ((δ - margin) * 1000) band).toNat

/-- The margin that serves a motion's axis (R42). -/
def marginFor (m : Margins Nat) : DigMotion → Nat
  | .swing => m.swingMargin
  | _ => m.ropeMargin

/-- The band that serves a motion's axis (R42). -/
def bandFor (m : Margins Nat) : DigMotion → Nat
  | .swing => m.swingBand
  | _ => m.ropeBand

/-- The cap a zone gives a motion in a direction, if it gives one (R42, R43, R44). -/
def zoneCap (creep : PerDig Nat) (p : Point) (m : DigMotion) (d : Direction) : Zone → Option Nat
  | .keepOut box mg => (approach box p m d).map (approachCap (creep.get m) (marginFor mg m) (bandFor mg m))
  | .slow box caps => if inBox box p then caps.get m else none
  | .warnOnly _ => none

/-- The zones of the table (R35). -/
def tableZones (t : List TableSlot) : List Zone := t.filterMap TableSlot.entry

/-- The least of the caps the zones give, 1000 when none gives one (R45, VALID). -/
def leastCap (zones : List Zone) (creep : PerDig Nat) (p : Point) (m : DigMotion) (d : Direction) : Nat :=
  (zones.filterMap (zoneCap creep p m d)).foldl min 1000

/-- Every cap the same. -/
def allCaps (c : Nat) : PerDig DirCaps := ⟨⟨c, c⟩, ⟨c, c⟩, ⟨c, c⟩⟩

/-- The caps record for a condition (R45). -/
def capsFor (cond : EnvelopeCondition) (zones : List Zone) (creep : PerDig Nat) (p : Point) : PerDig DirCaps :=
  match cond with
  | .valid =>
    PerDig.of fun m => ⟨leastCap zones creep p m .positive, leastCap zones creep p m .negative⟩
  | .invalid => allCaps 1000
  | .blind => allCaps 1000
  | .committing => allCaps 0

/-! ### Condition and membership -/

/-- The point of the snapshot last taken, when all three position channels are VALID in it (R37, R38). -/
def pointOf (snap : Option Snapshot) : Option Point :=
  match snap with
  | some x =>
    if x.encoders.hoistPayout.state = .valid ∧ x.encoders.dragPayout.state = .valid ∧
        x.encoders.swingAngle.state = .valid then
      some { θ := x.encoders.swingAngle.value, h := x.encoders.hoistPayout.value, g := x.encoders.dragPayout.value }
    else none
  | none => none

/-- The envelope condition (R37). -/
def conditionOf (edit : EditState) (tableFailed : Bool) (point : Option Point) : EnvelopeCondition :=
  if edit = .committing then .committing
  else if tableFailed then .invalid
  else if point.isNone then .blind
  else .valid

def isKeepOut : Zone → Bool
  | .keepOut _ _ => true
  | _ => false

def isWarnOnly : Zone → Bool
  | .warnOnly _ => true
  | _ => false

/-- The lowest-numbered position whose zone is of the kind and contains the point. -/
def lowestContaining (kind : Zone → Bool) (p : Point) (t : List TableSlot) : Option Nat :=
  t.findIdx? fun slot =>
    match slot.entry with
    | some z => kind z && inBox (zoneBox z) p
    | none => false

/-- The membership of a kind: none unless the table is USABLE and the positions are known (R38). -/
def memberOf (kind : Zone → Bool) (tableFailed : Bool) (point : Option Point) (t : List TableSlot) : Option Nat :=
  if tableFailed then none
  else
    match point with
    | some p => lowestContaining kind p t
    | none => none

/-- The detail of ENVELOPE-INVALID, none while it is absent (R48). Before a snapshot has been taken no position
channel is VALID in it. -/
def invalidDetail (tableFailed : Bool) (point : Option Point) : Option InvalidDetail :=
  if tableFailed then some .table else if point.isNone then some .position else none

/-- The effective creep of each dig motion under its association as it stands (R38, R42). -/
def digCreep (x : Shaper) : PerDig Nat :=
  PerDig.of fun m => (effectiveProfile x.profiles (x.motions.get m.motion).association).creep

/-- The unit with its condition, caps and membership formed from a snapshot (R38, steps 1 to 3; R55). -/
def formEnvelope (creep : PerDig Nat) (snap : Option Snapshot) (e : Envelope) : Envelope :=
  let point := pointOf snap
  let cond := conditionOf e.edit e.tableFailed point
  { e with
    condition := cond
    caps := capsFor cond (tableZones e.table) creep (point.getD ⟨0, 0, 0⟩)
    keepOutMember := memberOf isKeepOut e.tableFailed point e.table
    warnMember := memberOf isWarnOnly e.tableFailed point e.table }

def invalidDetailOf : InvalidDetail → Detail
  | .table => .table
  | .position => .position

/-- The three envelope conditions reported where they differ from what was last reported (R46 to R48). The order of the
three at one event, ENVELOPE-INVALID, INTRUSION, ZONE-WARN, is that of R38's list, which does not call itself an order
(DESIGN CHOICE, log entry 9). -/
def reportEnvelope (invalid : Option InvalidDetail) (s : State) : State :=
  let e := s.envelope
  let before := e.reported
  let noted := s.withEnvelope
    { e with reported := { invalid := invalid, intrusion := e.keepOutMember, zoneWarn := e.warnMember } }
  let first := reportChange .envelopeInvalid .envelope (before.invalid.map fun d => some (invalidDetailOf d))
    (invalid.map fun d => some (invalidDetailOf d)) noted
  let second := reportChange .intrusion .envelope (before.intrusion.map fun n => some (.zone n))
    (e.keepOutMember.map fun n => some (.zone n)) first
  reportChange .zoneWarn .envelope (before.zoneWarn.map fun n => some (.zone n))
    (e.warnMember.map fun n => some (.zone n)) second

/-- The Envelope Unit's event from the snapshot last taken: at a snapshot publication (R38) and at commit completion
(R55). -/
def envelopeEvent (s : State) : State :=
  let snap := s.scanner.snapshot
  reportEnvelope (invalidDetail s.envelope.tableFailed (pointOf snap))
    (s.withEnvelope (formEnvelope (digCreep s.shaper) snap s.envelope))

/-! ### The edit buffer (R49 to R52) -/

/-- The empty buffer: every position unused, every edited mark clear (R49). -/
def emptyBuffer : List BufferSlot := List.replicate Config.zonePositions ⟨none, false⟩

/-- EDIT-BEGIN: the active table copied, the edited mark of each failed position set (R50). -/
def beginEdit (e : Envelope) : Envelope :=
  { e with buffer := e.table.map fun slot => ⟨slot.entry, slot.failed⟩, edit := .open }

/-- EDIT-ZONE: a position written and marked edited (R51). -/
def editPosition (i : Nat) (z : Option Zone) (e : Envelope) : Envelope :=
  { e with buffer := e.buffer.set i ⟨z, true⟩ }

/-- EDIT-DISCARD: the buffer emptied, the edit state CLOSED (R52). -/
def discardEdit (e : Envelope) : Envelope := { e with buffer := emptyBuffer, edit := .closed }

/-! ### Commit (R53 to R55) -/

/-- The ZONE records of the edited positions in ascending order, counting positions from `i` (R54). -/
def editedRecords : Nat → List BufferSlot → List RecordWrite
  | _, [] => []
  | i, slot :: rest =>
    if slot.edited then .zone i slot.entry :: editedRecords (i + 1) rest else editedRecords (i + 1) rest

/-- The records of a commit after its first header (R54). -/
def commitRest (e : Envelope) : List RecordWrite :=
  editedRecords 0 e.buffer ++ [.zoneHeader ⟨e.generation + 1, false⟩]

/-- EDIT-COMMIT accepted: COMMITTING, every cap 0, and the store sequence begun with the marked header (R53). -/
def beginCommit (s : State) : State :=
  let first : RecordWrite := .zoneHeader ⟨s.envelope.generation, true⟩
  (s.withEnvelope { s.envelope with edit := .committing, condition := .committing, caps := allCaps 0 }).withStore
    (.committing first (commitRest s.envelope))

/-- The active table after a commit: the buffer's contents, the failed mark of each written position cleared
(R55). -/
def committedTable (t : List TableSlot) (b : List BufferSlot) : List TableSlot :=
  List.zipWith (fun slot new => ⟨new.entry, slot.failed && !new.edited⟩) t b

/-- The unit at commit completion, before its condition is formed again (R55). -/
def committedEnvelope (generation : Half) (e : Envelope) : Envelope :=
  { e with
    table := committedTable e.table e.buffer
    tableFailed := false
    generation := generation
    edit := .closed
    buffer := emptyBuffer }

/-- The unit's part of a RESTART: an open edit discarded; its reports are owed again (R58). The condition is formed
again (R37); caps and membership stand until the next scan completion. -/
def restartEnvelope (snap : Option Snapshot) (e : Envelope) : Envelope :=
  { e with
    edit := .closed
    buffer := emptyBuffer
    condition := conditionOf .closed e.tableFailed (pointOf snap)
    reported := ⟨none, none, none⟩ }

end Sys2Proof.Machine
end

