-- ==== Sys2Proof/Machine/Walk.lean ====
section
/-! DEFINITION. The Walk Tracker (08): skew, walk position, steps, the rest test and the SKEW condition. The side
references are formed in Ops.lean, since a trip hands the tracker a WALK output too. -/

namespace Sys2Proof.Machine

/-- Whether a cam angle is in the rest sector; a sector with from equal to to holds that one angle (R138). -/
def inRestSector (w : WalkSettings) (angle : Nat) : Bool :=
  decide (Int.emod ((angle : Int) - w.restFrom) 360 ≤ Int.emod ((w.restTo : Int) - w.restFrom) 360)

/-- Skew of two cam positions (R136). -/
def skewOf (left right : Int) : Int := clampInt (-9999) 9999 (left - right)

/-- Walk position of two cam positions (R136). -/
def walkPositionOf (left right : Int) : Int := Int.fdiv (left + right) 2

/-- Steps of a walk position (R136). -/
def stepsOf (walkPosition : Int) : Int := Int.tdiv walkPosition 360

/-- The tracker's quantities after a snapshot: positions, skew, walk position and steps when both cams are VALID,
held otherwise; the angle of each VALID cam; the rest tests (R135 to R138). -/
def trackWalk (snap : Snapshot) (w : WalkTracker) : WalkTracker :=
  let left := snap.encoders.camLeft
  let right := snap.encoders.camRight
  let leftAngle := if left.state = .valid then snap.camLeftAngle else w.leftAngle
  let rightAngle := if right.state = .valid then snap.camRightAngle else w.rightAngle
  let leftRest := left.state == .valid && inRestSector w.settings leftAngle
  let rightRest := right.state == .valid && inRestSector w.settings rightAngle
  let rested :=
    { w with
      leftAngle := leftAngle
      rightAngle := rightAngle
      leftInRest := leftRest
      rightInRest := rightRest
      bothInRest := leftRest && rightRest }
  if left.state = .valid ∧ right.state = .valid then
    { rested with
      leftPosition := left.value
      rightPosition := right.value
      skew := skewOf left.value right.value
      walkPosition := walkPositionOf left.value right.value
      steps := stepsOf (walkPositionOf left.value right.value) }
  else rested

/-- The SKEW condition judged on a skew: present at the trip, absent below half of it (R139). -/
def judgeSkew (present : Bool) (skew : Int) (trip : Nat) : Bool :=
  if present then decide (trip / 2 ≤ skew.natAbs) else decide (trip ≤ skew.natAbs)

/-- The Walk Tracker's event at a snapshot publication (R135): a change of the SKEW condition is reported, and at
the first scan completion after a reset a condition then present is raised (R139). -/
def walkScan (snap : Snapshot) (s : State) : State :=
  let before := if s.walk.reportDue then false else s.walk.skewCondition
  let tracked := trackWalk snap s.walk
  let now := judgeSkew s.walk.skewCondition tracked.skew s.walk.settings.trip
  let judged := s.withWalk { tracked with skewCondition := now, reportDue := false }
  if before = now then judged
  else if now then reportRaise .skew (.motion .walk) none judged
  else reportGone .skew (.motion .walk) judged

/-- The WALK write's completion (R143). -/
def applyWalkSettings (w : WalkSettings) (s : State) : State := s.withWalk { s.walk with settings := w }

/-- The tracker's part of a RESTART (R145). -/
def restartWalk (w : WalkTracker) : WalkTracker := { w with walkLeft := 0, walkRight := 0, reportDue := true }

end Sys2Proof.Machine
end

