-- ==== Sys2Proof/Machine/Sequencer.lean ====
section
/-! DEFINITION. The Mode Sequencer (07): transfer orders, the queue, the taking of entries, the end of STOPPING; and
what a change of the order or the arrangement brings about in the Alarm Unit (R156, R159, R160). -/

namespace Sys2Proof.Machine

/-! ### DRIVE-FAULT (R159, R160) -/

/-- Whether a group's DRIVE-FAULT condition is present: its last reported value is FAULT and, for HG and DG, no
order is PENDING (R159). -/
def driveFaultPresent (pending : Bool) (report : PerGroup Readiness) (g : Group) : Bool :=
  report.get g == .fault && (g == .sg || !pending)

/-- One group's DRIVE-FAULT condition formed again, and its change reported. -/
def formDriveFault (g : Group) (s : State) : State :=
  let before := s.alarms.driveFault.get g
  let now := driveFaultPresent (orderPending s.sequencer) s.alarms.driveReport g
  let noted := s.withAlarms { s.alarms with driveFault := s.alarms.driveFault.set g now }
  if before = now then s
  else if now then reportRaise .driveFault (.group g) none noted
  else reportGone .driveFault (.group g) noted

/-- The three DRIVE-FAULT conditions formed again (R159, R160): HG, DG, SG where several change at one event (DESIGN
CHOICE, log entry 9). -/
def formDriveFaults (s : State) : State := formDriveFault .sg (formDriveFault .dg (formDriveFault .hg s))

/-! ### Affected motions at a change of the arrangement (R156) -/

/-- An entry of CHANNEL-FAULT on HG-CURRENT or DG-CURRENT that is active takes the motions its group feeds now. -/
def recomputeEntry (arr : Arrangement) (seconds : Nat) (e : AlarmEntry) : AlarmEntry :=
  if e.code = .channelFault ∧ (e.source = .analog .hgCurrent ∨ e.source = .analog .dgCurrent) ∧ isActive e ∧
      e.affected ≠ affectedMotions arr e.code e.source then
    { e with affected := affectedMotions arr e.code e.source, changedAt := seconds }
  else e

/-- The entries recomputed at a change of the arrangement, with the flags formed again (R156). -/
def recomputeAffected (s : State) : State :=
  let l := s.alarms.list.map (recomputeEntry s.sequencer.record.arrangement s.alarms.seconds)
  takeReport ⟨s.alarms.withList l, decide (l ≠ s.alarms.list), false⟩ s

/-! ### Orders (R125, R127 to R129) -/

def Working.settled : Working → Settled
  | .dig => .dig
  | .walk => .walk

def Working.arrangement : Working → Arrangement
  | .dig => .dig
  | .walk => .walk

/-- The settled mode a destination names. -/
def Settled.mode : Settled → Mode
  | .parked => .parked
  | .dig => .dig
  | .walk => .walk

/-- The mode alone changed. -/
def setMode (m : Mode) (s : State) : State := s.withSequencer { s.sequencer with mode := m }

/-- A transfer order issued at the event that enters TRANSFERRING (R125), with the integrators of HG and DG at 0 (R31)
and their DRIVE-FAULT conditions blanked from it (R160). -/
def issueOrder (kind : Working) (s : State) : State :=
  let q := s.sequencer
  formDriveFaults ((s.withBands (blankIntegrators s.bands)).withSequencer
    { q with
      mode := .transferring kind.settled
      record :=
        { q.record with
          kind := some kind, mark := !q.record.mark, order := .pending, endedBy := none,
          issueTime := s.alarms.seconds, timer := some q.timeout } })

/-- The destination of TRANSFERRING as it stands; PARKED where there is none. -/
def destinationOf : Mode → Settled
  | .stopping _ d => d
  | .transferring d => d
  | _ => .parked

/-- An order ended DONE (R127): the arrangement it asked for, TRANSFER-FAIL gone if it stood, the mode at its
destination, and the drive faults no longer blanked. -/
def orderDone (s : State) : State :=
  let q := s.sequencer
  let arrangement := match q.record.kind with
    | some k => k.arrangement
    | none => q.record.arrangement
  let ended := s.withSequencer
    { q with
      mode := (destinationOf q.mode).mode
      record :=
        { q.record with
          arrangement := arrangement, order := .done, endedBy := some .report, failedMark := false,
          timer := none } }
  let recomputed := recomputeAffected ended
  let cleared := if q.record.failedMark then reportGone .transferFail .sequencer recomputed else recomputed
  formDriveFaults cleared

/-- An order ended FAILED, by a report or by its timeout (R128, R129): UNCERTAIN, PARKED, the queue empty,
TRANSFER-FAIL raised, and the drive faults no longer blanked. -/
def orderFailed (by' : EndedBy) (s : State) : State :=
  let q := s.sequencer
  let ended := s.withSequencer
    { q with
      mode := .parked
      queue := []
      record :=
        { q.record with
          arrangement := .uncertain, order := .failed, endedBy := some by', failedMark := true, timer := none } }
  formDriveFaults (reportRaise .transferFail .sequencer none (recomputeAffected ended))

/-! ### The queue (R119, R121) -/

/-- SEQUENCE-REFUSED reported (R121, R124). -/
def refuseSequence (d : Detail) (s : State) : State := reportMomentary .sequenceRefused .sequencer (some d) s

/-- The action on an entry the sequencer takes, in the settled mode it stands in (R121). -/
def takeEntry (request : Settled) (s : State) : State :=
  match request, s.sequencer.mode with
  | .dig, .parked =>
    match s.sequencer.record.arrangement with
    | .dig => setMode .dig s
    | .walk => if s.walk.bothInRest then issueOrder .dig s else refuseSequence .notAtRest s
    | .uncertain => issueOrder .dig s
  | .dig, .walk => setMode (.stopping .walk .dig) s
  | .walk, .parked =>
    if walkPermitOk s then
      if s.sequencer.record.arrangement = .walk then setMode .walk s else issueOrder .walk s
    else refuseSequence .walk s
  | .walk, .dig => if walkPermitOk s then setMode (.stopping .dig .walk) s else refuseSequence .walk s
  | .parked, .dig => setMode (.stopping .dig .parked) s
  | .parked, .walk => setMode (.stopping .walk .parked) s
  | _, _ => s

/-- Whether the sequencer takes the head of a queue (R119). -/
def mayTake (s : State) : Bool := isSettled s.sequencer.mode && s.envelope.edit != .committing

/-- Entries taken one after another while they may be, `n` at most (R119). -/
def takeEntries : Nat → State → State
  | 0, s => s
  | n + 1, s =>
    match s.sequencer.queue with
    | [] => s
    | e :: rest =>
      if mayTake s then takeEntries n (takeEntry e.request (s.withSequencer { s.sequencer with queue := rest }))
      else s

/-- The sequencer takes what it may from its queue (R119). -/
def serviceQueue (s : State) : State := takeEntries s.sequencer.queue.length s

/-! ### Mode requests (R116 to R118) -/

/-- A PARK request: it empties the queue and is its one entry in a settled mode, and rewrites the destination
otherwise (R117, R118). -/
def takePark (p : Port) (s : State) : State :=
  let q := s.sequencer
  match q.mode with
  | .stopping source _ => s.withSequencer { q with queue := [], mode := .stopping source .parked }
  | .transferring _ => s.withSequencer { q with queue := [], mode := .transferring .parked }
  | _ => serviceQueue (s.withSequencer { q with queue := [⟨.parked, p⟩] })

/-- Whether a WALK request is refused by the walk permit, formed without its first condition while the mode is
unsettled (R116, check 4). -/
def walkRequestRefused (s : State) : Bool :=
  if isSettled s.sequencer.mode then !walkPermitOk s else !walkPermitUnmoded s

/-- A DIG or WALK request past the permit and supply tests (R116, checks 7 to 9). -/
def appendRequest (request : Settled) (p : Port) (s : State) : ResultCode × State :=
  let q := s.sequencer
  if q.queue.getLast?.map QueueEntry.request = some request then (.accepted, s)
  else if Config.queueCapacity ≤ q.queue.length then (.queueFull, s)
  else (.accepted, serviceQueue (s.withSequencer { q with queue := q.queue ++ [⟨request, p⟩] }))

/-- A mode request judged from check 3 on (R116). -/
def judgeModeRequest (request : Settled) (p : Port) (s : State) : ResultCode × State :=
  match request with
  | .parked => (.accepted, takePark p s)
  | .walk =>
    if p = .c then (.notPermitted, s)
    else if walkRequestRefused s then (.notPermitted, s)
    else appendRequest .walk p s
  | .dig =>
    if p = .c then (.notPermitted, s)
    else if effectiveSupply s.bands = .lost then (.notPermitted, s)
    else appendRequest .dig p s

/-! ### The end of STOPPING (R123, R124) -/

/-- What a period end notification carries for a motion (06). -/
structure Notice where
  target : Int
  output : Int
  release : Bool
  association : ProfileName
  deriving DecidableEq, Repr

/-- The motions a stop is for (R114). -/
def sourceMotions : Working → PerMotion Bool
  | .dig => digMotions
  | .walk => onlyMotion .walk

/-- Whether a motion stands: target and output of the notification 0 and its brake SET (R123). -/
def standsStill (n : Notice) (b : BrakeRecord) : Bool :=
  decide (n.target = 0) && decide (n.output = 0) && b.state == .set

/-- Whether every motion of the source mode stands (R123). -/
def stopComplete (source : Working) (notices : PerMotion Notice) (s : State) : Bool :=
  (PerMotion.of fun m =>
    !(sourceMotions source).get m || standsStill (notices.get m) (s.gate.brakes.get m)).every

/-- What a completed stop does, by its destination (R124). -/
def completeStop (destination : Settled) (s : State) : State :=
  match destination with
  | .parked => setMode .parked s
  | .walk => if walkPermitUnmoded s then issueOrder .walk s else refuseSequence .walk (setMode .dig s)
  | .dig => if s.walk.bothInRest then issueOrder .dig s else refuseSequence .notAtRest (setMode .walk s)

/-- The sequencer told that the gate has taken a period end notification (R123). -/
def periodEndAtSequencer (notices : PerMotion Notice) (s : State) : State :=
  match s.sequencer.mode with
  | .stopping source destination =>
    if stopComplete source notices s then serviceQueue (completeStop destination s) else s
  | _ => s

/-! ### Transfer reports (R126) -/

/-- A report judged against the arrangement record (R126 to R128). -/
def judgeReport (mark done : Bool) (s : State) : ResultCode × State :=
  let r := s.sequencer.record
  match r.order with
  | .pending =>
    if mark = r.mark then
      (.accepted, if done then serviceQueue (orderDone s) else orderFailed .report s)
    else (.mismatch, s)
  | .failed =>
    if r.endedBy = some .timeout ∧ mark = r.mark then (.late, s) else (.notPermitted, s)
  | _ => (.notPermitted, s)

/-! ### RESTART (R133) -/

/-- The sequencer's part of a RESTART, before TRANSFER-FAIL is reported anew. -/
def restartSequencer (q : Sequencer) : Sequencer :=
  { q with queue := [], record := { q.record with order := .none, endedBy := none } }

end Sys2Proof.Machine
end

