-- ==== Sys2Proof/Machine/Shaper.lean ====
section
/-! DEFINITION. The Reference Shaper (05): the eight stages of a period, the association check, and the completions
and RESTART of the motion records (04). -/

namespace Sys2Proof.Machine

/-- The effective profile of a motion under its association in force (R60). -/
def motionProfile (x : Shaper) (m : Motion) : Profile :=
  effectiveProfile x.profiles (x.motions.get m).association

/-! ### Stage 1: the effective request (R82, R83) -/

/-- Whether WALK is being finished: STOPPING with source WALK and destination DIG (R83). -/
def finishingWalk (m : Mode) : Bool := m == .stopping .walk .dig

/-- The effective request of a motion. -/
def effectiveRequest (s : State) (m : Motion) : Int :=
  let r := s.shaper.motions.get m
  let mayRun := inService s m && r.permit && !s.alarms.hold.get m
  match s.sequencer.mode with
  | .stopping _ _ =>
    if finishingWalk s.sequencer.mode && decide (m = .walk) && mayRun && !s.walk.bothInRest then
      match r.lastDirection with
      | some d => (motionProfile s.shaper .walk).creep * d.sign
      | none => 0
    else 0
  | _ => if mayRun && s.ports.a.freshness == .fresh then r.request else 0

/-! ### Stage 2: cap and target (R84, R85) -/

/-- The envelope cap of a motion in a direction; none for WALK. -/
def envelopeCap (caps : PerDig DirCaps) (m : Motion) (positive : Bool) : Option Nat :=
  let pick (d : DirCaps) : Nat := if positive then d.pos else d.neg
  match m with
  | .hoist => some (pick caps.hoist)
  | .drag => some (pick caps.drag)
  | .swing => some (pick caps.swing)
  | .walk => none

/-- The boom cap (R24, R84). -/
def boomCap (b : Bands) : Nat :=
  match effectiveBoom b with
  | .overload => 0
  | .heavy => b.boomSettings.heavyCap
  | _ => 1000

/-- Whether the boom cap applies to a motion asked for r: HOIST and DRAG in the positive direction. -/
def boomCapped (m : Motion) (r : Int) : Bool := (decide (m = .hoist) || decide (m = .drag)) && decide (0 < r)

/-- The cap of a motion for effective request r (R84). -/
def motionCap (s : State) (m : Motion) (r : Int) : Nat :=
  let p := motionProfile s.shaper m
  let c₁ := if r = 0 then p.ceiling else
    match envelopeCap s.envelope.caps m (decide (0 < r)) with
    | some e => min p.ceiling e
    | none => p.ceiling
  let c₂ := if boomCapped m r then min c₁ (boomCap s.bands) else c₁
  if s.alarms.limit.get m then min c₂ p.creep else c₂

/-- The target of stage 2 (R85). -/
def cappedTarget (r : Int) (c : Nat) : Int := r.sign * (min r.natAbs c : Nat)

/-! ### Stages 3 and 4: reversal, dwell and ramp (R86 to R88) -/

/-- What the stages form of one motion: the target as it stands after stage 3, the output being formed,
reversal-pending and the dwell count. -/
structure Formed where
  target : Int
  output : Int
  reversalPending : Bool
  dwell : Nat
  deriving DecidableEq, Repr

/-- Whether two references are nonzero and of different sign. -/
def opposed (o t : Int) : Bool := decide (o ≠ 0) && decide (t ≠ 0) && decide (o.sign ≠ t.sign)

/-- Stage 3 (R86): target, reversal-pending and dwell count from the previous output `o` and the target `t`. -/
def reversalStage (o t : Int) (pending : Bool) (dwell : Nat) : Formed :=
  if o ≠ 0 then
    if t = 0 then ⟨0, o, pending, dwell⟩
    else if opposed o t then ⟨0, o, true, dwell⟩
    else ⟨t, o, false, dwell⟩
  else if 0 < dwell then ⟨0, o, pending, dwell - 1⟩
  else ⟨t, o, false, dwell⟩

/-- Whether the ramp falls: t is 0, or of the same sign as o and smaller (R88). -/
def ramping (o t : Int) : Bool := decide (t = 0) || (decide (o.sign = t.sign) && decide (t.natAbs < o.natAbs))

/-- The ramp (R88). -/
def rampOutput (o t : Int) (accel decel : Nat) : Int :=
  if ramping o t then o.sign * (max t.natAbs (o.natAbs - decel) : Nat)
  else t.sign * (min t.natAbs (o.natAbs + accel) : Nat)

/-- Stage 4 (R88, R87): the ramp, and the dwell loaded where a pending reversal reaches 0. -/
def rampStage (p : Profile) (o : Int) (f : Formed) : Formed :=
  let next := rampOutput o f.target p.accel p.decel
  if o ≠ 0 ∧ next = 0 ∧ f.reversalPending then
    { f with output := 0, dwell := p.dwell, reversalPending := false }
  else { f with output := next }

/-! ### Stage 5: brake gating (R89) -/

/-- Whether a release request is marked. -/
def releaseRequested (target : Int) (b : BrakeState) : Bool :=
  decide (target ≠ 0) && (b == .set || b == .setting)

/-- The output after brake gating. -/
def gateStage (b : BrakeState) (f : Formed) : Formed := if b = .released then f else { f with output := 0 }

/-- Stages 1 to 5 of one motion (R80). -/
def formMotion (s : State) (m : Motion) : Formed :=
  let rec' := s.shaper.motions.get m
  let r := effectiveRequest s m
  let t := cappedTarget r (motionCap s m r)
  gateStage (s.gate.brakes.get m).state
    (rampStage (motionProfile s.shaper m) rec'.output
      (reversalStage rec'.output t rec'.reversalPending rec'.dwell))

/-! ### Stage 6: supply sharing (R90 to R93) -/

/-- One motion's term of the weighted demand (R90). -/
def demandTerm (w : Nat) (o : Int) : Nat := w * o.natAbs / 1000

/-- The weighted demand D (R90). -/
def demand (w : PerMotion Nat) (o : PerMotion Int) : Nat :=
  demandTerm w.hoist o.hoist + demandTerm w.drag o.drag + demandTerm w.swing o.swing + demandTerm w.walk o.walk

/-- The acceleration hold (R91). -/
def accelerationHold (prev o : PerMotion Int) : PerMotion Int :=
  o.map fun m x => if (prev.get m).natAbs < x.natAbs then prev.get m else x

/-- The output of a motion taken for shedding (R92). -/
def shedCut (w excess decel : Nat) (prev o : Int) : Int :=
  let floor := min o.natAbs (prev.natAbs - decel)
  let n := (ceilDiv (excess * 1000 : Nat) w).toNat
  o.sign * (max floor (o.natAbs - n) : Nat)

/-- Outputs and shed marks after supply sharing. -/
structure Shared where
  outputs : PerMotion Int
  marks : PerMotion Bool
  deriving DecidableEq, Repr

/-- One motion of the shed order (R92): taken when its weight is above 0 and the demand above the budget. -/
def shedOne (w : PerMotion Nat) (b : Nat) (decel : PerMotion Nat) (prev : PerMotion Int) (x : Shared) (m : Motion) :
    Shared :=
  let d := demand w x.outputs
  if 0 < w.get m ∧ b < d then
    { outputs := x.outputs.set m (shedCut (w.get m) (d - b) (decel.get m) (prev.get m) (x.outputs.get m))
      marks := x.marks.set m true }
  else x

/-- Supply sharing of the four outputs of stage 5 against a budget (R90 to R92). -/
def shareSupply (w : PerMotion Nat) (order : List Motion) (b : Nat) (decel : PerMotion Nat) (prev o : PerMotion Int) :
    Shared :=
  if b < demand w o then order.foldl (shedOne w b decel prev) ⟨accelerationHold prev o, noMotions⟩
  else ⟨o, noMotions⟩

/-! ### Stage 7: overdraw (R94) -/

/-- The overdraw count and condition after a period (R94). -/
def overdrawStep (present exceeds : Bool) (count : Nat) : Bool × Nat :=
  if present = exceeds then (present, 0)
  else if count + 1 < Config.overdrawPeriods then (present, count + 1)
  else (exceeds, 0)

/-- Stage 7, with the report of a change (R94). -/
def overdrawStage (exceeds : Bool) (s : State) : State :=
  let x := s.shaper
  let after := overdrawStep x.overdraw exceeds x.overdrawCount
  let counted := s.withShaper { x with overdraw := after.1, overdrawCount := after.2 }
  if after.1 = x.overdraw then counted
  else if after.1 then reportRaise .overdraw .supply none counted
  else reportGone .overdraw .supply counted

/-! ### Stage 8: publication (R95) -/

/-- A motion record with what a period formed for it. -/
def settleMotion (r : MotionRecord) (f : Formed) (out : Int) (shed : Bool) : MotionRecord :=
  { r with
    prevOutput := r.output
    target := f.target
    output := out
    reversalPending := f.reversalPending
    dwell := f.dwell
    lastDirection := if out = 0 then r.lastDirection else directionOf out
    shed := shed }

/-- The shaper with a period's outputs, published under its number (R79, R95). -/
def publishPeriod (formed : PerMotion Formed) (shared : Shared) (x : Shaper) : Shaper :=
  let motions := x.motions.map fun m r => settleMotion r (formed.get m) (shared.outputs.get m) (shared.marks.get m)
  { x with
    motions := motions
    period := x.period + 1
    references := { period := x.period + 1, outputs := shared.outputs, shed := shared.marks } }

/-- The period end notification (06): target, output, release request and the association in force at the expiry. -/
def noticesOf (s : State) (formed : PerMotion Formed) (outputs : PerMotion Int) : PerMotion Notice :=
  PerMotion.of fun m =>
    { target := (formed.get m).target
      output := outputs.get m
      release := releaseRequested (formed.get m).target (s.gate.brakes.get m).state
      association := (s.shaper.motions.get m).association }

/-- The association check of one motion at a period end (R65). -/
def checkAssociation (r : MotionRecord) : MotionRecord :=
  match r.pendingAssociation with
  | some n => if r.output = 0 then { r with association := n, pendingAssociation := none } else r
  | none => r

/-- The association check of the four motions (R65). -/
def checkAssociations (s : State) : State :=
  s.withShaper { s.shaper with motions := s.shaper.motions.map fun _ r => checkAssociation r }

/-- The four outputs of stage 5. -/
def formedOutputs (formed : PerMotion Formed) : PerMotion Int := formed.map fun _ f => f.output

/-- The four previous outputs. -/
def previousOutputs (s : State) : PerMotion Int := outputsOf s.shaper

/-- Stage 6 of a period from its stage 5 results. -/
def sharePeriod (s : State) (formed : PerMotion Formed) : Shared :=
  shareSupply s.shaper.weights s.shaper.shedOrder (budget s.bands)
    (PerMotion.of fun m => (motionProfile s.shaper m).decel) (previousOutputs s) (formedOutputs formed)

/-- Stages 1 to 8 at the shaper, with the WALK output handed to the tracker and the association check (R80, R95);
the notification goes to the Brake Gate after it. -/
def shapePeriod (s : State) : State :=
  let formed := PerMotion.of (formMotion s)
  let shared := sharePeriod s formed
  let judged := overdrawStage (decide (budget s.bands < demand s.shaper.weights shared.outputs)) s
  let published := judged.withShaper (publishPeriod formed shared judged.shaper)
  checkAssociations (handWalkOutput shared.outputs.walk published)

/-- The notification of the period that `shapePeriod` forms from the same state. -/
def periodNotices (s : State) : PerMotion Notice :=
  let formed := PerMotion.of (formMotion s)
  noticesOf s formed (sharePeriod s formed).outputs

/-! ### Completions of profile, association and sharing writes -/

def applyCommon (p : Profile) (s : State) : State :=
  s.withShaper { s.shaper with profiles := { s.shaper.profiles with common := p } }

def applyProfileA (p : PartialProfile) (s : State) : State :=
  s.withShaper { s.shaper with profiles := { s.shaper.profiles with a := p } }

def applyProfileB (p : PartialProfile) (s : State) : State :=
  s.withShaper { s.shaper with profiles := { s.shaper.profiles with b := p } }

/-- A written association at one motion (R64). -/
def associate (name : ProfileName) (r : MotionRecord) : MotionRecord :=
  if name = r.association then { r with pendingAssociation := none }
  else if r.output = 0 then { r with association := name, pendingAssociation := none }
  else { r with pendingAssociation := some name }

def applyAssociation (names : PerMotion ProfileName) (s : State) : State :=
  s.withShaper { s.shaper with motions := s.shaper.motions.map fun m r => associate (names.get m) r }

/-- Weights and shed order at the shaper, budgets at the Band Monitor (R97, R25). -/
def applySharing (h : Sharing) (s : State) : State :=
  applyBudgets h.budgets (s.withShaper { s.shaper with weights := h.weights, shedOrder := h.shedOrder })

/-! ### The ceiling test of a PROFILE write (R62) -/

/-- Whether the effective ceiling under a name would fall. -/
def ceilingFalls (old new : Profiles) (n : ProfileName) : Bool :=
  decide ((effectiveProfile new n).ceiling < (effectiveProfile old n).ceiling)

/-- Whether some motion's effective ceiling would fall, under its association in force or its pending one (R62). -/
def lowersCeiling (x : Shaper) (new : Profiles) : Bool :=
  (PerMotion.of fun m =>
    let r := x.motions.get m
    ceilingFalls x.profiles new r.association ||
      match r.pendingAssociation with
      | some n => ceilingFalls x.profiles new n
      | none => false).any

/-! ### RESTART (R77, R99) -/

/-- A motion record's part of a RESTART (R77). -/
def restartMotion (r : MotionRecord) : MotionRecord :=
  { r with
    request := 0, permit := false, pendingAssociation := none, target := 0, output := 0, prevOutput := 0,
    reversalPending := false, dwell := 0, lastDirection := none, shed := false }

/-- The shaper's part of a RESTART (R77, R99). -/
def restartShaper (x : Shaper) : Shaper :=
  { x with
    motions := x.motions.map fun _ r => restartMotion r
    readiness := ⟨.notReady, .notReady, .notReady⟩
    overdrawCount := 0
    overdraw := false
    references := { x.references with outputs := ⟨0, 0, 0, 0⟩, shed := noMotions } }

end Sys2Proof.Machine
end

