-- ==== Sys2Proof/Machine/Brakes.lean ====
section
/-! DEFINITION. The Brake Gate (06): the period end notification, the feedback changes and BRAKE-FAIL. -/

namespace Sys2Proof.Machine

/-- What a notification gives one brake: the notice of its motion, its release delay and idle-set time under the
association carried, the confirm time, and whether the stop-and-set order names it (R102, R109). -/
structure BrakeInput where
  notice : Notice
  releaseDelay : Nat
  idleSet : Nat
  confirm : Nat
  named : Bool
  deriving DecidableEq, Repr

/-- Whether target and output of the notification are both 0. -/
def Notice.idle (n : Notice) : Bool := decide (n.target = 0) && decide (n.output = 0)

/-- A brake and whether a failure has set a fail condition that was absent, so that BRAKE-FAIL is raised (R107). -/
structure Tested where
  brake : BrakeRecord
  failed : Bool
  deriving DecidableEq, Repr

/-- Step 1 (R102): the counts. -/
def stepCounts (n : Notice) (b : BrakeRecord) : BrakeRecord :=
  match b.state with
  | .releasing => { b with count := min Config.stateCountMax (b.count + 1) }
  | .setting => { b with count := min Config.stateCountMax (b.count + 1) }
  | .released => { b with idle := if n.idle then min Config.idleCountMax (b.idle + 1) else 0 }
  | .set => b

/-- A brake entering SETTING with its line dropped. -/
def toSetting (b : BrakeRecord) : BrakeRecord := { b with state := .setting, count := 0 }

/-- A brake entering RELEASING with its line energised; the remembered release is clear outside SETTING (R100). -/
def toReleasing (b : BrakeRecord) : BrakeRecord := { b with state := .releasing, count := 0, remembered := false }

/-- A brake with its fail condition set, and whether that is news (R107). -/
def failBrake (b : BrakeRecord) : Tested := ⟨{ b with fail := true }, !b.fail⟩

/-- The tests of RELEASING (R104, R109). -/
def testReleasing (x : BrakeInput) (b : BrakeRecord) : Tested :=
  if x.releaseDelay ≤ b.count ∧ b.feedback then ⟨{ b with state := .released, idle := 0 }, false⟩
  else if x.releaseDelay + x.confirm ≤ b.count ∧ !b.feedback then failBrake (toSetting b)
  else if x.named && x.notice.idle then ⟨toSetting b, false⟩
  else ⟨b, false⟩

/-- The tests of RELEASED (R105, R109). -/
def testReleased (x : BrakeInput) (b : BrakeRecord) : Tested :=
  if x.idleSet ≤ b.idle ∨ (x.named && x.notice.idle) then ⟨toSetting b, false⟩ else ⟨b, false⟩

/-- The tests of SETTING (R106). -/
def testSetting (x : BrakeInput) (b : BrakeRecord) : Tested :=
  let asked := { b with remembered := b.remembered || x.notice.release }
  if !b.feedback then
    if asked.remembered ∧ x.notice.target ≠ 0 then ⟨toReleasing asked, false⟩
    else ⟨{ asked with state := .set, remembered := false }, false⟩
  else if x.confirm ≤ b.count then failBrake asked
  else ⟨asked, false⟩

/-- Step 2 (R102): the tests of the present state. -/
def testBrake (x : BrakeInput) (b : BrakeRecord) : Tested :=
  match b.state with
  | .set => ⟨b, false⟩
  | .releasing => testReleasing x b
  | .released => testReleased x b
  | .setting => testSetting x b

/-- Whether step 3 clears the fail condition: SET with its feedback not released (R102, R107). -/
def failEnds (b : BrakeRecord) : Bool := b.fail && b.state == .set && !b.feedback

/-- Step 4 (R102): the release request acted on in the state reached (R103, R106). -/
def actOnRelease (x : BrakeInput) (b : BrakeRecord) : BrakeRecord :=
  if x.notice.release then
    match b.state with
    | .set => toReleasing b
    | .setting => { b with remembered := true }
    | _ => b
  else b

/-- A brake after a period end notification, with what it reports (R102). -/
structure Notified where
  brake : BrakeRecord
  raised : Bool
  gone : Bool
  deriving DecidableEq, Repr

/-- The four steps of a notification at one brake (R102). -/
def notifyBrake (x : BrakeInput) (b : BrakeRecord) : Notified :=
  let tested := testBrake x (stepCounts x.notice b)
  let ended := failEnds tested.brake
  { brake := actOnRelease x (if ended then { tested.brake with fail := false } else tested.brake)
    raised := tested.failed
    gone := ended }

/-- Whether the stop-and-set order names a motion (R109). -/
def stopAndSet (m : Mode) (x : Motion) : Bool :=
  match m with
  | .stopping source _ => (sourceMotions source).get x
  | _ => false

/-- What a notification gives the brake of a motion (R102). -/
def brakeInput (s : State) (n : Notice) (m : Motion) : BrakeInput :=
  let p := effectiveProfile s.shaper.profiles n.association
  { notice := n, releaseDelay := p.releaseDelay, idleSet := p.idleSet, confirm := s.gate.confirm,
    named := stopAndSet s.sequencer.mode m }

/-- BRAKE-FAIL of a motion raised. -/
def raiseBrakeFail (m : Motion) (s : State) : State := reportRaise .brakeFail (.motion m) none s

/-- A notification at the brake of one motion with its reports. `due` is set at the first notification after a
reset, at which BRAKE-FAIL is raised for a fail condition then present (R112, R113). -/
def notifyMotion (n : Notice) (due : Bool) (m : Motion) (s : State) : State :=
  let after := notifyBrake (brakeInput s n m) (s.gate.brakes.get m)
  let acted := s.withBrake m after.brake
  let raised := if after.raised || (due && after.brake.fail) then raiseBrakeFail m acted else acted
  if after.gone then reportGone .brakeFail (.motion m) raised else raised

/-- A period end notification at the gate: each brake in turn (R102). -/
def notifyGate (notices : PerMotion Notice) (s : State) : State :=
  let due := s.gate.reportDue != .none
  Motion.all.foldl (fun t m => notifyMotion (notices.get m) due m t)
    (s.withGate { s.gate with reportDue := .none })

/-! ### Feedback (R101, R103, R105) -/

/-- A level change at a feedback input (R101): the filter starts, or starts again, from the new level; a level that
has returned to the record's has nothing to take. -/
def feedbackEdge (m : Motion) (s : State) : State :=
  let level := !s.feedbackInputs.get m
  let b := s.gate.brakes.get m
  ({ s with feedbackInputs := s.feedbackInputs.set m level }).withBrake m
    { b with filtering := decide (level ≠ b.feedback) }

/-- A feedback change to released in SET: the fail condition, reported unless it was present or the first
notification after a power-on or external reset is still to come (R103, R107, R112). -/
def feedbackInSet (m : Motion) (b : BrakeRecord) (s : State) : State :=
  let failed := failBrake b
  let noted := s.withBrake m failed.brake
  if failed.failed && s.gate.reportDue != .reset then raiseBrakeFail m noted else noted

/-- A feedback change to not released in RELEASED: the line dropped, the motion zeroed at the shaper, and the
failure reported (R105, R107). -/
def feedbackInReleased (m : Motion) (b : BrakeRecord) (s : State) : State :=
  let failed := failBrake (toSetting b)
  let dropped := zeroMotions (onlyMotion m) (s.withBrake m failed.brake)
  if failed.failed then raiseBrakeFail m dropped else dropped

/-- A feedback change supervised by the state of its brake (R101, R103 to R106). -/
def superviseFeedback (m : Motion) (s : State) : State :=
  let level := s.feedbackInputs.get m
  let b := { s.gate.brakes.get m with feedback := level, filtering := false }
  match b.state, level with
  | .set, true => feedbackInSet m b s
  | .released, false => feedbackInReleased m b s
  | _, _ => s.withBrake m b

/-- FEEDBACK-CHANGE: the level the filter has held for 10 ms is taken (R101); none where no filter runs. -/
def takeFeedback (m : Motion) (s : State) : State :=
  if (s.gate.brakes.get m).filtering then superviseFeedback m s else s

/-! ### Settings and RESTART -/

def applyConfirm (n : Nat) (s : State) : State := s.withGate { s.gate with confirm := n }

/-- A brake's part of a RESTART (R113). -/
def restartBrake (b : BrakeRecord) : BrakeRecord :=
  { b with state := .set, count := 0, idle := 0, remembered := false, fail := b.feedback }

/-- The gate's part of a RESTART (R113). A first notification that a power-on or an external reset still owes is still to
come, and a feedback change's report goes on waiting for it (R112). -/
def restartGate (g : Gate) : Gate :=
  { g with
    brakes := g.brakes.map fun _ b => restartBrake b
    reportDue := if g.reportDue = .reset then .reset else .restart }

end Sys2Proof.Machine
end

