-- ==== Sys2Proof/Machine/Wire.lean ====
section
/-! DEFINITION. The line (10, 12): the check word, the reading of a request from a frame's payload, and the byte
layouts of every record and response. -/

namespace Sys2Proof.Machine

/-! ### The check word (R166) -/

/-- The check word of a frame: over kind, length and payload (R166). -/
def frameCheck (kind length : Byte) (payload : List Byte) : Half := crc16 (kind :: length :: payload)

/-- A motion set in one byte: bits 0 to 3 for HOIST, DRAG, SWING and WALK (R188). -/
def motionByte (x : PerMotion Bool) : Byte :=
  nat8 ((if x.hoist then 1 else 0) + (if x.drag then 2 else 0) + (if x.swing then 4 else 0) +
    (if x.walk then 8 else 0))

/-! ### Reading a payload -/

def byteAt (p : List Byte) (i : Nat) : Byte := p.getD i 0

def halfAt (p : List Byte) (i : Nat) : Half := byteAt p i ++ byteAt p (i + 1)

def wordAt (p : List Byte) (i : Nat) : Word := halfAt p i ++ halfAt p (i + 2)

/-- The extent of a zone from offset `i` (R189). -/
def boxAt (p : List Byte) (i : Nat) : ZoneBox Half :=
  { sectorFrom := halfAt p i, sectorTo := halfAt p (i + 2), hoistLo := halfAt p (i + 4),
    hoistHi := halfAt p (i + 6), dragLo := halfAt p (i + 8), dragHi := halfAt p (i + 10) }

/-- A zone entry read from its bytes; a misfit where its length is not the one its kind requires (R189). -/
def parseEntry (p : List Byte) : ZoneBody :=
  if zoneEntryLength (byteAt p 0) = some p.length then
    match (byteAt p 0).toNat with
    | 0 => .unused
    | 1 =>
      .keepOut (boxAt p 1)
        { swingMargin := halfAt p 13, swingBand := halfAt p 15, ropeMargin := halfAt p 17, ropeBand := halfAt p 19 }
    | 2 => .slow (boxAt p 1) (byteAt p 13) ⟨halfAt p 14, halfAt p 16, halfAt p 18⟩
    | _ => .warnOnly (boxAt p 1)
  else .misfit p

/-- A WRITE-SETTING read from its payload: the group byte, then the group's body in its length (R189); a body of
another length, or a group or channel that cannot be named, is a bad length (R170). -/
def parseWriteSetting (p : List Byte) : Request :=
  let bad : Request := .badLength 0x0D p
  match groupOfCode (byteAt p 0) with
  | none => bad
  | some .profile =>
    if p.length = 17 then
      .writeProfile (byteAt p 1) (byteAt p 2)
        { accel := halfAt p 3, decel := halfAt p 5, ceiling := halfAt p 7, creep := halfAt p 9, dwell := halfAt p 11,
          releaseDelay := halfAt p 13, idleSet := halfAt p 15 }
    else bad
  | some .association =>
    if p.length = 5 then .writeAssociation ⟨byteAt p 1, byteAt p 2, byteAt p 3, byteAt p 4⟩ else bad
  | some .calibration =>
    if (byteAt p 1).toNat ≤ 4 then
      if p.length = 12 then .writeCalibration (byteAt p 1) (.encoder (wordAt p 2) (wordAt p 6) (halfAt p 10)) else bad
    else if (byteAt p 1).toNat ≤ 9 then
      if p.length = 10 then
        .writeCalibration (byteAt p 1) (.analog (halfAt p 2) (halfAt p 4) (halfAt p 6) (halfAt p 8))
      else bad
    else bad
  | some .supplyBands => if p.length = 7 then .writeSupplyBands (halfAt p 1) (halfAt p 3) (halfAt p 5) else bad
  | some .boomBands =>
    if p.length = 9 then .writeBoomBands (halfAt p 1) (halfAt p 3) (halfAt p 5) (halfAt p 7) else bad
  | some .currentTrip =>
    if p.length = 10 then
      .writeCurrentTrip ⟨halfAt p 1, halfAt p 4, halfAt p 7⟩ ⟨byteAt p 3, byteAt p 6, byteAt p 9⟩
    else bad
  | some .sharing =>
    if p.length = 20 then
      .writeSharing
        { normal := halfAt p 1, low := halfAt p 3, sag := halfAt p 5,
          weights := ⟨halfAt p 7, halfAt p 9, halfAt p 11, halfAt p 13⟩, shedLength := byteAt p 15,
          shed0 := byteAt p 16, shed1 := byteAt p 17, shed2 := byteAt p 18, shed3 := byteAt p 19 }
    else bad
  | some .walk => if p.length = 7 then .writeWalk (halfAt p 1) (halfAt p 3) (byteAt p 5) (byteAt p 6) else bad
  | some .gate => if p.length = 2 then .writeGate (byteAt p 1) else bad
  | some .sequencer => if p.length = 2 then .writeSequencer (byteAt p 1) else bad

/-- The request of a frame's kind and payload (R168, R170, R188): every kind at the length the formats chapter gives
it, and what the port refuses otherwise. -/
def parseRequest (kind : Byte) (p : List Byte) : Request :=
  let fixed (n : Nat) (r : Request) : Request := if p.length = n then r else .badLength kind p
  match kind.toNat with
  | 0x01 => fixed 0 .readStatus
  | 0x02 => fixed 9 (.motionRequest (byteAt p 0) ⟨halfAt p 1, halfAt p 3, halfAt p 5, halfAt p 7⟩)
  | 0x03 => fixed 1 (.modeRequest (byteAt p 0))
  | 0x04 => fixed 0 .stopAll
  | 0x05 => fixed 2 (.ackAlarm (byteAt p 0) (byteAt p 1))
  | 0x06 => fixed 2 (.readAlarms (byteAt p 0) (byteAt p 1))
  | 0x07 => fixed 0 .clearOverrun
  | 0x08 => fixed 0 .readMeasurements
  | 0x09 => fixed 0 .readReferences
  | 0x0A => fixed 2 (.transferReport (byteAt p 0) (byteAt p 1))
  | 0x0B => fixed 3 (.driveState ⟨byteAt p 0, byteAt p 1, byteAt p 2⟩)
  | 0x0C => fixed 2 (.readSetting (byteAt p 0) (byteAt p 1))
  | 0x0D => parseWriteSetting p
  | 0x0E => fixed 5 (.zeroChannel (byteAt p 0) (wordAt p 1))
  | 0x0F => fixed 0 .clearMarks
  | 0x10 => fixed 2 (.readZone (byteAt p 0) (byteAt p 1))
  | 0x11 => fixed 0 .editBegin
  | 0x12 =>
    match parseEntry (p.drop 1) with
    | .misfit _ => .badLength kind p
    | entry => .editZone (byteAt p 0) entry
  | 0x13 => fixed 0 .editCommit
  | 0x14 => fixed 0 .editDiscard
  | 0x15 => fixed 0 .restart
  | _ => .unknownKind kind

/-- The kind of a request (R188). -/
def kindOf : Request → Byte
  | .unknownKind k => k
  | .badLength k _ => k
  | .readStatus => 0x01
  | .motionRequest _ _ => 0x02
  | .modeRequest _ => 0x03
  | .stopAll => 0x04
  | .ackAlarm _ _ => 0x05
  | .readAlarms _ _ => 0x06
  | .clearOverrun => 0x07
  | .readMeasurements => 0x08
  | .readReferences => 0x09
  | .transferReport _ _ => 0x0A
  | .driveState _ => 0x0B
  | .readSetting _ _ => 0x0C
  | .writeProfile _ _ _ => 0x0D
  | .writeAssociation _ => 0x0D
  | .writeCalibration _ _ => 0x0D
  | .writeSupplyBands _ _ _ => 0x0D
  | .writeBoomBands _ _ _ _ => 0x0D
  | .writeCurrentTrip _ _ => 0x0D
  | .writeSharing _ => 0x0D
  | .writeWalk _ _ _ _ => 0x0D
  | .writeGate _ => 0x0D
  | .writeSequencer _ => 0x0D
  | .zeroChannel _ _ => 0x0E
  | .clearMarks => 0x0F
  | .readZone _ _ => 0x10
  | .editBegin => 0x11
  | .editZone _ _ => 0x12
  | .editCommit => 0x13
  | .editDiscard => 0x14
  | .restart => 0x15

/-! ### Value codes of response fields (R188) -/

def modeCode : Mode → Byte
  | .parked => 0
  | .dig => 1
  | .walk => 2
  | .stopping _ _ => 3
  | .transferring _ => 4

def settledCode : Settled → Byte
  | .parked => 0
  | .dig => 1
  | .walk => 2

def destinationCode : Mode → Byte
  | .stopping _ d => settledCode d
  | .transferring d => settledCode d
  | _ => absent

def arrangementCode : Arrangement → Byte
  | .dig => 0
  | .walk => 1
  | .uncertain => 2

def orderKindCode : Option Working → Byte
  | some .dig => 0
  | some .walk => 1
  | none => absent

def orderStateCode : OrderState → Byte
  | .none => 0
  | .pending => 1
  | .done => 2
  | .failed => 3

def supplyCode : SupplyBand → Byte
  | .normal => 0
  | .low => 1
  | .sag => 2
  | .lost => 3

def boomCode : BoomBand → Byte
  | .empty => 0
  | .normal => 1
  | .heavy => 2
  | .overload => 3

def conditionCode : EnvelopeCondition → Byte
  | .valid => 0
  | .invalid => 1
  | .blind => 2
  | .committing => 3

def editCode : EditState → Byte
  | .closed => 0
  | .open => 1
  | .committing => 2

def brakeCode : BrakeState → Byte
  | .set => 0
  | .releasing => 1
  | .released => 2
  | .setting => 3

def freshnessCode : Freshness → Byte
  | .never => 0
  | .fresh => 1
  | .stale => 2

def portCode : Port → Byte
  | .a => 0
  | .b => 1
  | .c => 2

def groupCode : Group → Byte
  | .hg => 0
  | .dg => 1
  | .sg => 2

def encoderStateCode : EncoderState → Byte
  | .valid => 0
  | .notReferenced => 1
  | .fault => 2

def analogStateCode : AnalogState → Byte
  | .valid => 0
  | .faultLow => 3
  | .faultHigh => 4

def alarmStateCode : AlarmState → Nat
  | .activeUnack => 0
  | .activeAck => 1
  | .clearedUnack => 2

def alarmClassCode : AlarmClass → Nat
  | .trip => 0
  | .hold => 1
  | .limit => 2
  | .warn => 3

def alarmCodeCode : AlarmCode → Byte
  | .overcurrent => 0
  | .driveFault => 1
  | .brakeFail => 2
  | .supplyLost => 3
  | .stopAll => 4
  | .transferFail => 5
  | .operatorStale => 6
  | .channelFault => 7
  | .skew => 8
  | .envelopeInvalid => 9
  | .intrusion => 10
  | .zoneWarn => 11
  | .supplyLow => 12
  | .supplySag => 13
  | .boomOverload => 14
  | .overdraw => 15
  | .sequenceRefused => 16
  | .settingsCheck => 17

def sourceCode : Source → Byte
  | .motion m => motionCode m
  | .group g => 4 + groupCode g
  | .encoder e => nat8 (7 + encoderNumber e)
  | .analog a => nat8 (7 + analogNumber a)
  | .supply => 17
  | .boom => 18
  | .envelope => 19
  | .sequencer => 20
  | .store => 21
  | .portA => 22
  | .portC => 23

/-- An alarm detail (R188). -/
def detailCode : Option Detail → Byte
  | none => absent
  | some (.zone n) => nat8 n
  | some .notReferenced => 0x20
  | some .step => 0x21
  | some .lowLimit => 0x22
  | some .highLimit => 0x23
  | some .table => 0x30
  | some .position => 0x31
  | some .walk => 0x40
  | some .notAtRest => 0x41
  | some (.record r) => nat8 (0x50 + recordNumber r)

def resultCode : ResultCode → Byte
  | .accepted => 0
  | .adjusted => 1
  | .repeated => 2
  | .notPermitted => 3
  | .wrongMode => 4
  | .busy => 5
  | .badArgument => 6
  | .queueFull => 7
  | .notFound => 8
  | .mismatch => 9
  | .late => 10
  | .unknownKind => 11

/-! ### Responses -/

/-- The payload of a response: the result code, then the data (R188). -/
def responsePayload (r : Response) : List Byte := resultCode r.result :: r.data

/-- The characters of a response frame (R166, R188). -/
def responseFrame (r : Response) : List Byte :=
  let payload := responsePayload r
  let length := nat8 payload.length
  Config.startByte :: r.kind :: length :: (payload ++ be16 (frameCheck r.kind length payload))

/-- The status of one motion in the status record (R188). -/
def motionStatus (s : State) (m : Motion) : List Byte :=
  let r := s.shaper.motions.get m
  int16 (s.shaper.references.outputs.get m) ++
    [brakeCode (s.gate.brakes.get m).state,
      nat8 ((if r.permit then 1 else 0) + (if inService s m then 2 else 0))]

/-- The queue's part of the status record: its depth, and the mode and port of its head entry (R173). -/
def queueStatus (q : List QueueEntry) : List Byte :=
  match q with
  | [] => [0, absent, absent]
  | e :: _ => [nat8 q.length, settledCode e.request, portCode e.port]

/-- The status record, 48 bytes, with the commit-ended mark as the port shows it (R173, R188). -/
def statusRecord (s : State) (commitEnded : Bool) : List Byte :=
  let q := s.sequencer
  [modeCode q.mode, destinationCode q.mode, arrangementCode q.record.arrangement, orderStateCode q.record.order,
      bool8 (walkPermitOk s)] ++
    queueStatus q.queue ++
    [supplyCode s.bands.supply.band, bool8 s.bands.supply.valid] ++ nat16 (budget s.bands) ++
    [boomCode s.bands.boom.band, bool8 s.bands.boom.valid] ++
    [conditionCode s.envelope.condition] ++ be16 s.envelope.generation ++ [editCode s.envelope.edit] ++
    motionStatus s .hoist ++ motionStatus s .drag ++ motionStatus s .swing ++ motionStatus s .walk ++
    int16 s.walk.walkLeft ++ int16 s.walk.walkRight ++ int16 s.walk.steps ++ int16 s.walk.skew ++
    [nat8 s.alarms.list.length, bool8 s.alarms.overrun, bool8 s.alarms.horn, bool8 (storeBusy s),
      freshnessCode s.ports.a.freshness, bool8 commitEnded]

/-- The references record, 24 bytes (R95, R188). -/
def referencesRecord (s : State) : List Byte :=
  let x := s.shaper.references
  let r := s.sequencer.record
  be32 x.period ++ int16 x.outputs.hoist ++ int16 x.outputs.drag ++ int16 x.outputs.swing ++ int16 x.outputs.walk ++
    [motionByte x.shed] ++ int16 s.walk.walkLeft ++ int16 s.walk.walkRight ++
    [orderKindCode r.kind, bool8 r.mark, orderStateCode r.order] ++ nat32 r.issueTime

/-- The sticky marks of a channel in one byte: bits 0 to 2 for BELOW, ABOVE and FAULT-SEEN (R188). -/
def marksByte (m : Marks) : Byte :=
  nat8 ((if m.below then 1 else 0) + (if m.above then 2 else 0) + (if m.faultSeen then 4 else 0))

def encoderSampleBytes (x : EncoderSample) : List Byte :=
  [encoderStateCode x.state, marksByte x.marks] ++ int32 x.value ++ be32 x.raw

def analogSampleBytes (x : AnalogSample) : List Byte :=
  [analogStateCode x.state, marksByte x.marks] ++ int16 x.value ++ nat16 x.raw.toNat

/-- The measurement snapshot, 88 bytes (R2, R188). -/
def snapshotBytes (x : Snapshot) : List Byte :=
  be32 x.number ++ encoderSampleBytes x.encoders.hoistPayout ++ encoderSampleBytes x.encoders.dragPayout ++
    encoderSampleBytes x.encoders.swingAngle ++ encoderSampleBytes x.encoders.camLeft ++
    encoderSampleBytes x.encoders.camRight ++ analogSampleBytes x.analogs.hgCurrent ++
    analogSampleBytes x.analogs.dgCurrent ++ analogSampleBytes x.analogs.sgCurrent ++
    analogSampleBytes x.analogs.boomLoad ++ analogSampleBytes x.analogs.supplyVoltage ++
    nat16 x.camLeftAngle ++ nat16 x.camRightAngle

/-- A stamp in three bytes; above FFFFFFh it is sent as FFFFFFh (R190). -/
def stampBytes (n : Nat) : List Byte := (nat32 (min n 0xFFFFFF)).drop 1

/-- An alarm entry, 11 bytes (R190). -/
def entryBytes (e : AlarmEntry) : List Byte :=
  [alarmCodeCode e.code, sourceCode e.source, detailCode e.detail,
      nat8 ((motionByte e.affected).toNat + 16 * alarmClassCode e.cls + 64 * alarmStateCode e.state),
      nat8 e.occurrences] ++
    stampBytes e.raisedAt ++ stampBytes e.changedAt

/-- The data of a READ-ALARMS response (R161, R190). -/
def alarmsData (a : Alarms) (start count : Nat) : List Byte :=
  [nat8 a.list.length, nat8 ((if a.overrun then 1 else 0) + (if a.horn then 2 else 0))] ++ nat32 a.seconds ++
    (((a.list.drop start).take count).map entryBytes).flatten

/-! ### Settings bodies and zone entries (R189) -/

/-- The working profile of a name as a body shows it. -/
def shownProfile (p : Profiles) : ProfileName → PartialProfile
  | .common => p.common.map some
  | .a => p.a
  | .b => p.b

def pendingCode : Option ProfileName → Byte
  | none => absent
  | some n => profileCode n

/-- The associations in force, then the pending ones (R189). -/
def associationBytes (m : PerMotion MotionRecord) : List Byte :=
  [profileCode m.hoist.association, profileCode m.drag.association, profileCode m.swing.association,
    profileCode m.walk.association, pendingCode m.hoist.pendingAssociation, pendingCode m.drag.pendingAssociation,
    pendingCode m.swing.pendingAssociation, pendingCode m.walk.pendingAssociation]

/-- The working values of a group as READ-SETTING returns them (R174, R189); none where the profile or the channel it
names does not exist, or where the second byte of any other group is not 00h (R188). -/
def settingBytes (s : State) (g : SettingGroup) (which : Byte) : Option (List Byte) :=
  match g with
  | .profile => (profileOfCode which).map fun n => profileBytes n (shownProfile s.shaper.profiles n)
  | .association => unnamed (associationBytes s.shaper.motions)
  | .calibration =>
    match encoderOfNumber which.toNat with
    | some e => some (encoderCalBytes e (s.scanner.encoders.get e).cal)
    | none => (analogOfNumber which.toNat).map fun a => analogCalBytes a (s.scanner.analogs.get a).cal
  | .supplyBands => unnamed (supplyBytes s.bands.thresholds)
  | .boomBands => unnamed (boomBytes s.bands.boomSettings)
  | .currentTrip => unnamed (tripBytes s.bands.trip)
  | .sharing => unnamed (sharingBytes s.bands.budgets s.shaper.weights s.shaper.shedOrder)
  | .walk => unnamed (walkBytes s.walk.settings)
  | .gate => unnamed [nat8 s.gate.confirm]
  | .sequencer => unnamed [nat8 s.sequencer.timeout]
where
  /-- The body of a group that no second byte divides: that byte is 00h. -/
  unnamed (body : List Byte) : Option (List Byte) := if which = 0 then some body else none

end Sys2Proof.Machine
end

