-- ==== Sys2Proof/Machine/Requests.lean ====
section
/-! DEFINITION. What the owner of each request does with it (R170, the request catalogue): the result code, the
response data and the state it leaves. The checks of the port itself come before (Ports.lean). -/

namespace Sys2Proof.Machine

/-- What an owner gives the port: the result code and the response data (R170). -/
structure Reply where
  result : ResultCode
  data : List Byte
  deriving DecidableEq, Repr

/-- A refusal: no data, no effect (R171, R172). -/
def refuse (c : ResultCode) (s : State) : Reply × State := (⟨c, []⟩, s)

/-- A reading request answered ACCEPTED with its data (R171). -/
def answer (data : List Byte) (s : State) : Reply × State := (⟨.accepted, data⟩, s)

/-- A request taken, with no data. -/
def done (s : State) : Reply × State := (⟨.accepted, []⟩, s)

/-- ADJUSTED where a value was clamped, ACCEPTED where none was (R172). -/
def clampedResult (adjusted : Bool) : ResultCode := if adjusted then .adjusted else .accepted

/-- An accepted write: answered as it was clamped, its store write begun (R175, R182). -/
def acceptWrite (adjusted : Bool) (w : RecordWrite) (s : State) : Reply × State :=
  (⟨clampedResult adjusted, []⟩, startWrite w s)

/-! ### Reads -/

/-- READ-STATUS (R173): on Port C it shows the commit-ended mark and clears it (R179). -/
def takeReadStatus (p : Port) (s : State) : Reply × State :=
  if p = .c then
    (⟨.accepted, statusRecord s s.ports.c.commitEnded⟩, s.withPortC { s.ports.c with commitEnded := false })
  else answer (statusRecord s false) s

/-- READ-MEASUREMENTS (R2). -/
def takeReadMeasurements (s : State) : Reply × State :=
  match s.scanner.snapshot with
  | some x => answer (snapshotBytes x) s
  | none => refuse .busy s

/-- READ-REFERENCES (R95). -/
def takeReadReferences (s : State) : Reply × State := answer (referencesRecord s) s

/-- READ-SETTING (R174). -/
def takeReadSetting (group which : Byte) (s : State) : Reply × State :=
  match groupOfCode group with
  | none => refuse .badArgument s
  | some g =>
    match settingBytes s g which with
    | some data => answer data s
    | none => refuse .badArgument s

/-- The list-changed mark of a port cleared by its own READ-ALARMS (R177, R179). -/
def clearListChanged (p : Port) (s : State) : State :=
  match p with
  | .a => s.withPortA { s.ports.a with listChanged := false }
  | .b => s
  | .c => s.withPortC { s.ports.c with listChanged := false }

/-- READ-ALARMS (R161). -/
def takeReadAlarms (p : Port) (start count : Byte) (s : State) : Reply × State :=
  if count.toNat = 0 ∨ 8 < count.toNat ∨ 31 < start.toNat then refuse .badArgument s
  else (⟨.accepted, alarmsData s.alarms start.toNat count.toNat⟩, clearListChanged p s)

/-- READ-ZONE (R49). The buffer's answer is the fields the table of 12 names, position, edited mark and entry, and no
third byte that its count "3 + entry" would ask for (DESIGN CHOICE, log entry 19). BAD-ARGUMENT comes before
WRONG-MODE (DESIGN CHOICE, log entry 12). -/
def takeReadZone (table position : Byte) (s : State) : Reply × State :=
  let e := s.envelope
  if 1 < table.toNat ∨ Config.zonePositions ≤ position.toNat then refuse .badArgument s
  else if table.toNat = 0 then
    let slot := e.table.getD position.toNat ⟨none, false⟩
    answer ([position, bool8 slot.failed] ++ be16 e.generation ++ zoneBytes slot.entry) s
  else if e.edit = .closed then refuse .wrongMode s
  else
    let slot := e.buffer.getD position.toNat ⟨none, false⟩
    answer ([position, bool8 slot.edited] ++ zoneBytes slot.entry) s

/-! ### Operator requests (R69 to R75) -/

/-- A reference clamped to −1000..1000 (R69). -/
def clampReference (x : Half) : Int := clampInt (-1000) 1000 x.toInt

/-- The data of an answered MOTION-REQUEST: freshness state and run permits (R188). -/
def motionReply (s : State) : List Byte :=
  [freshnessCode s.ports.a.freshness, motionByte (s.shaper.motions.map fun _ r => r.permit)]

/-- A motion record at a fresh frame: its request stored, and its permit set where the reference is 0 and no TRIP
entry affects it (R70, R75). -/
def storeRequest (l : List AlarmEntry) (refs : PerMotion Int) (m : Motion) (r : MotionRecord) : MotionRecord :=
  { r with
    request := refs.get m
    permit := r.permit || (decide (refs.get m = 0) && !tripAffects l m) }

/-- A fresh frame taken (R70): references stored, the hold timer started, FRESH, OPERATOR-STALE reported gone where
all four are 0, and the permits re-armed. -/
def freshFrame (mark : Bool) (refs : PerMotion Int) (s : State) : State :=
  let centred := (refs.map fun _ x => decide (x = 0)).every
  let clears := centred && s.ports.a.staleCondition
  let a := { s.ports.a with
    freshness := .fresh, lastMark := some mark, holdTimer := true,
    staleCondition := s.ports.a.staleCondition && !centred }
  let stored := s.withPortA a
  let reported := if clears then reportGone .operatorStale .portA stored else stored
  reported.withShaper
    { reported.shaper with
      motions := reported.shaper.motions.map (storeRequest reported.alarms.list refs) }

/-- MOTION-REQUEST (R69 to R71). -/
def takeMotionRequest (mark : Byte) (refs : PerMotion Half) (s : State) : Reply × State :=
  match markOfCode mark with
  | none => refuse .badArgument s
  | some k =>
    if s.ports.a.freshness ≠ .never ∧ s.ports.a.lastMark = some k then (⟨.repeated, motionReply s⟩, s)
    else
      let clamped := refs.map fun _ x => clampReference x
      let adjusted := decide (clamped ≠ refs.map fun _ x => x.toInt)
      let t := freshFrame k clamped s
      (⟨clampedResult adjusted, motionReply t⟩, t)

/-! ### Modes, transfer and drives -/

/-- The data of an accepted MODE-REQUEST: mode, destination, queue depth (R188). -/
def modeReply (s : State) : List Byte :=
  [modeCode s.sequencer.mode, destinationCode s.sequencer.mode, nat8 s.sequencer.queue.length]

/-- MODE-REQUEST (R116). -/
def takeModeRequest (p : Port) (mode : Byte) (s : State) : Reply × State :=
  match settledOfCode mode with
  | none => refuse .badArgument s
  | some request =>
    let judged := judgeModeRequest request p s
    if judged.1 = .accepted then (⟨.accepted, modeReply judged.2⟩, judged.2) else refuse judged.1 s

/-- The data of an accepted TRANSFER-REPORT: order state, order mark, arrangement (R188). -/
def reportReply (s : State) : List Byte :=
  let r := s.sequencer.record
  [orderStateCode r.order, bool8 r.mark, arrangementCode r.arrangement]

/-- TRANSFER-REPORT (R126). -/
def takeTransferReport (mark result : Byte) (s : State) : Reply × State :=
  match markOfCode mark, doneOfCode result with
  | some k, some finished =>
    let judged := judgeReport k finished s
    if judged.1 = .accepted then (⟨.accepted, reportReply judged.2⟩, judged.2) else refuse judged.1 s
  | _, _ => refuse .badArgument s

/-- The motions that a new readiness takes out of service while their output is not 0 (R68). -/
def lostMotions (s : State) (r : PerGroup Readiness) : PerMotion Bool :=
  PerMotion.of fun m =>
    inService s m && !motionInService s.sequencer r m && decide ((s.shaper.motions.get m).output ≠ 0)

/-- A loss of service (R68): the motions zeroed at once and their brakes dropped. -/
def loseService (ms : PerMotion Bool) (s : State) : State :=
  if ms.any then dropBrakes ms (zeroMotions ms s) else s

/-- A readiness report taken by the shaper (R67, R68) and by the Alarm Unit (R159). -/
def takeReadiness (r : PerGroup Readiness) (s : State) : State :=
  let lost := lostMotions s r
  let ready := loseService lost (s.withShaper { s.shaper with readiness := r })
  formDriveFaults (ready.withAlarms { ready.alarms with driveReport := r })

/-- The readiness a DRIVE-STATE carries; none where a value is not one of the three (R159). -/
def readinessOf (values : PerGroup Byte) : Option (PerGroup Readiness) :=
  match readinessOfCode values.hg, readinessOfCode values.dg, readinessOfCode values.sg with
  | some h, some d, some g => some ⟨h, d, g⟩
  | _, _, _ => none

/-- DRIVE-STATE (R159); its data is in-service after it (R188). -/
def takeDriveState (values : PerGroup Byte) (s : State) : Reply × State :=
  match readinessOf values with
  | none => refuse .badArgument s
  | some r =>
    let t := takeReadiness r s
    (⟨.accepted, [motionByte (PerMotion.of (inService t))]⟩, t)

/-! ### Alarms -/

/-- The source a STOP-ALL has on a port. Port B's never reaches the owner (R154). -/
def stopAllSource : Port → Source
  | .c => .portC
  | _ => .portA

/-- STOP-ALL (R154). -/
def takeStopAll (p : Port) (s : State) : Reply × State := done (reportMomentary .stopAll (stopAllSource p) none s)

/-- CLEAR-OVERRUN (R152); a change of the mark is a list change (R162). -/
def takeClearOverrun (s : State) : Reply × State :=
  done (takeReport ⟨{ s.alarms with overrun := false }, s.alarms.overrun, false⟩ s)

/-- An entry after an acknowledgement, none where it leaves the list (R153). -/
def acknowledge (seconds : Nat) (e : AlarmEntry) : Option AlarmEntry :=
  match e.state with
  | .activeUnack => some { e with state := .activeAck, changedAt := seconds }
  | .clearedUnack => none
  | .activeAck => some e

/-- The entries a selector names acknowledged (R153). -/
def acknowledgeList (a : Alarms) (selects : AlarmEntry → Bool) : List AlarmEntry :=
  a.list.filterMap fun e => if selects e then acknowledge a.seconds e else some e

/-- Whether an acknowledgement changes the list: some entry named is not already ACTIVE-ACK. -/
def acknowledges (a : Alarms) (selects : AlarmEntry → Bool) : Bool :=
  a.list.any fun e => selects e && e.state != .activeAck

/-- An acknowledgement taken (R153). -/
def takeAcknowledgement (selects : AlarmEntry → Bool) (s : State) : State :=
  takeReport ⟨s.alarms.withList (acknowledgeList s.alarms selects), acknowledges s.alarms selects, false⟩ s

/-- ACK-ALARM (R153): FFh in both fields is the selector ALL. -/
def takeAckAlarm (code source : Byte) (s : State) : Reply × State :=
  if code = absent ∧ source = absent then done (takeAcknowledgement (fun _ => true) s)
  else
    match alarmCodeOfCode code, sourceOfCode source with
    | some c, some src =>
      if (findEntry s.alarms.list c src).isSome then done (takeAcknowledgement (fun e => e.isFor c src) s)
      else refuse .notFound s
    | _, _ => refuse .badArgument s

/-! ### Settings writes (R175) -/

/-- The write of a profile's record, with the profiles it would leave: none where COMMON lacks a field (R61). -/
def profileWrite (p : Profiles) (n : ProfileName) (x : PartialProfile) : Option (RecordWrite × Profiles) :=
  match n with
  | .common => (completeProfile x).map fun c => (.profileCommon c, { p with common := c })
  | .a => some (.profileA x, { p with a := x })
  | .b => some (.profileB x, { p with b := x })

/-- WRITE-SETTING PROFILE (R61, R62). -/
def takeWriteProfile (profile presence : Byte) (fields : ProfileFields Half) (s : State) : Reply × State :=
  match profileOfCode profile with
  | none => refuse .badArgument s
  | some n =>
    let raw := rawProfile presence fields
    let clamped := clampProfile raw
    if 128 ≤ presence.toNat then refuse .badArgument s
    else if storeBusy s then refuse .busy s
    else
      match profileWrite s.shaper.profiles n clamped with
      | none => refuse .badArgument s
      | some (w, profiles) =>
        if s.sequencer.mode ≠ .parked ∧ lowersCeiling s.shaper profiles then refuse .wrongMode s
        else acceptWrite (decide (clamped ≠ raw)) w s

/-- The four names of an ASSOCIATION write. -/
def associationOf (names : PerMotion Byte) : Option (PerMotion ProfileName) :=
  match profileOfCode names.hoist, profileOfCode names.drag, profileOfCode names.swing, profileOfCode names.walk with
  | some h, some d, some g, some w => some ⟨h, d, g, w⟩
  | _, _, _, _ => none

/-- WRITE-SETTING ASSOCIATION (R64). -/
def takeWriteAssociation (names : PerMotion Byte) (s : State) : Reply × State :=
  if storeBusy s then refuse .busy s
  else
    match associationOf names with
    | none => refuse .badArgument s
    | some n => acceptWrite false (.association n) s

/-- A CALIBRATION write past its mode and store tests (R15). -/
def acceptCalibration (channel : Nat) (body : CalBody) (s : State) : Reply × State :=
  match body with
  | .encoder offset scale maxStep =>
    match encoderOfNumber channel with
    | none => refuse .badArgument s
    | some e =>
      let raw : EncoderCal := ⟨offset, scale.toNat, maxStep.toNat⟩
      acceptWrite (decide (clampEncoderCal e raw ≠ raw)) (.calEncoder e (clampEncoderCal e raw) false) s
  | .analog offset gain low high =>
    match analogOfNumber channel with
    | none => refuse .badArgument s
    | some a =>
      let raw : AnalogCal := ⟨offset.toNat, gain.toNat, low.toNat, high.toNat⟩
      if limitsOrdered (clampAnalogCal raw) then
        acceptWrite (decide (clampAnalogCal raw ≠ raw)) (.calAnalog a (clampAnalogCal raw)) s
      else refuse .badArgument s

/-- WRITE-SETTING CALIBRATION (R15). -/
def takeWriteCalibration (channel : Byte) (body : CalBody) (s : State) : Reply × State :=
  if s.sequencer.mode ≠ .parked then refuse .wrongMode s
  else if storeBusy s then refuse .busy s
  else acceptCalibration channel.toNat body s

/-- WRITE-SETTING SUPPLY-BANDS (R27). -/
def takeWriteSupplyBands (t1 t2 t3 : Half) (s : State) : Reply × State :=
  let raw : SupplyThresholds := ⟨t1.toNat, t2.toNat, t3.toNat⟩
  if storeBusy s then refuse .busy s
  else if supplyOrdered (clampSupply raw) then
    acceptWrite (decide (clampSupply raw ≠ raw)) (.supplyBands (clampSupply raw)) s
  else refuse .badArgument s

/-- WRITE-SETTING BOOM-BANDS (R27). -/
def takeWriteBoomBands (g h o heavyCap : Half) (s : State) : Reply × State :=
  let raw : BoomSettings := ⟨g.toNat, h.toNat, o.toNat, heavyCap.toNat⟩
  if storeBusy s then refuse .busy s
  else if boomOrdered (clampBoom raw) then
    acceptWrite (decide (clampBoom raw ≠ raw)) (.boomBands (clampBoom raw)) s
  else refuse .badArgument s

/-- WRITE-SETTING CURRENT-TRIP (R32). -/
def takeWriteCurrentTrip (levels : PerGroup Half) (counts : PerGroup Byte) (s : State) : Reply × State :=
  let raw : TripSettings := ⟨levels.map fun _ x => x.toNat, counts.map fun _ x => x.toNat⟩
  if storeBusy s then refuse .busy s
  else acceptWrite (decide (clampTrip raw ≠ raw)) (.currentTrip (clampTrip raw)) s

/-- WRITE-SETTING SHARING (R97, R25). -/
def takeWriteSharing (b : SharingBody) (s : State) : Reply × State :=
  if storeBusy s then refuse .busy s
  else
    match rawShedOrder b with
    | none => refuse .badArgument s
    | some order =>
      let raw : Sharing := ⟨⟨b.normal.toNat, b.low.toNat, b.sag.toNat⟩, b.weights.map fun _ x => x.toNat, order⟩
      acceptWrite (decide (clampSharing raw ≠ raw)) (.sharing (clampSharing raw)) s

/-- WRITE-SETTING WALK (R142). -/
def takeWriteWalk (restFrom restTo : Half) (gain trip : Byte) (s : State) : Reply × State :=
  let raw : WalkSettings := ⟨restFrom.toNat, restTo.toNat, gain.toNat, trip.toNat⟩
  if storeBusy s then refuse .busy s
  else acceptWrite (decide (clampWalk raw ≠ raw)) (.walk (clampWalk raw)) s

/-- WRITE-SETTING GATE (R111). -/
def takeWriteGate (confirm : Byte) (s : State) : Reply × State :=
  let raw := confirm.toNat
  if storeBusy s then refuse .busy s
  else acceptWrite (decide (clampConfirm raw ≠ raw)) (.gate (clampConfirm raw)) s

/-- WRITE-SETTING SEQUENCER (R131). -/
def takeWriteSequencer (timeout : Byte) (s : State) : Reply × State :=
  let raw := timeout.toNat
  if storeBusy s then refuse .busy s
  else acceptWrite (decide (clampTimeout raw ≠ raw)) (.sequencer (clampTimeout raw)) s

/-! ### Channels -/

/-- ZERO-CHANNEL (R14). -/
def takeZeroChannel (channel : Byte) (value : Word) (s : State) : Reply × State :=
  match encoderOfNumber channel.toNat with
  | none => refuse .badArgument s
  | some e =>
    if s.sequencer.mode ≠ .parked then refuse .wrongMode s
    else if storeBusy s then refuse .busy s
    else
      let v := clampZeroValue e value.toInt
      (⟨clampedResult (decide (v ≠ value.toInt)), []⟩, zeroChannel e v s)

/-- CLEAR-MARKS (R12). -/
def takeClearMarks (s : State) : Reply × State := done (s.withScanner (clearMarks s.scanner))

/-! ### The working envelope -/

/-- EDIT-BEGIN (R50). -/
def takeEditBegin (s : State) : Reply × State :=
  if s.envelope.edit = .closed then done (s.withEnvelope (beginEdit s.envelope)) else refuse .busy s

/-- The zone part of an EDIT-ZONE past its position check (R51, checks 2 to 4). -/
def acceptEntry (position : Nat) (entry : Option Zone) (s : State) : Reply × State :=
  match entry with
  | none => done (s.withEnvelope (editPosition position none s.envelope))
  | some z =>
    if boxOrdered (zoneBox (clampZone z)) then
      (⟨clampedResult (decide (clampZone z ≠ z)), []⟩,
        s.withEnvelope (editPosition position (some (clampZone z)) s.envelope))
    else refuse .badArgument s

/-- EDIT-ZONE (R51). -/
def takeEditZone (position : Byte) (entry : ZoneBody) (s : State) : Reply × State :=
  match s.envelope.edit with
  | .closed => refuse .wrongMode s
  | .committing => refuse .busy s
  | .open =>
    if Config.zonePositions ≤ position.toNat then refuse .badArgument s
    else
      match rawEntry entry with
      | none => refuse .badArgument s
      | some z => acceptEntry position.toNat z s

/-- EDIT-DISCARD (R52). -/
def takeEditDiscard (s : State) : Reply × State :=
  match s.envelope.edit with
  | .closed => refuse .wrongMode s
  | .committing => refuse .busy s
  | .open => done (s.withEnvelope (discardEdit s.envelope))

/-- EDIT-COMMIT (R53). -/
def takeEditCommit (s : State) : Reply × State :=
  match s.envelope.edit with
  | .closed => refuse .wrongMode s
  | .committing => refuse .busy s
  | .open =>
    if s.sequencer.mode ≠ .parked then refuse .wrongMode s
    else if storeBusy s then refuse .busy s
    else done (beginCommit s)

/-! ### RESTART (R176) -/

/-- The Alarm Unit's part of a RESTART (R165). -/
def restartAlarms (a : Alarms) : Alarms :=
  { a with
    list := [], overrun := false, lost := [], hold := noMotions, limit := noMotions, horn := false, seconds := 0,
    driveReport := ⟨.notReady, .notReady, .notReady⟩, driveFault := ⟨false, false, false⟩ }

/-- Port A's part of a RESTART (R77). -/
def restartPortA (a : PortA) : PortA :=
  { a with freshness := .never, lastMark := none, holdTimer := false, staleCondition := false }

/-- Every block's part of a RESTART, the list change it is (R165, R180), and TRANSFER-FAIL anew where its mark is
set (R133). The store keeps what it holds (R186). -/
def restartAll (s : State) : State :=
  let blocks : State :=
    { s with
      scanner := restartScanner s.scanner
      bands := restartBands s.bands
      envelope := restartEnvelope s.scanner.snapshot s.envelope
      shaper := restartShaper s.shaper
      gate := restartGate s.gate
      sequencer := restartSequencer s.sequencer
      walk := restartWalk s.walk
      alarms := restartAlarms s.alarms
      ports := { s.ports with a := restartPortA s.ports.a } }
  let emptied := noteListChange blocks
  if s.sequencer.record.failedMark then reportRaise .transferFail .sequencer none emptied else emptied

/-- RESTART (R176). -/
def takeRestart (s : State) : Reply × State :=
  if s.sequencer.mode ≠ .parked then refuse .wrongMode s
  else if storeBusy s then refuse .busy s
  else done (restartAll s)

end Sys2Proof.Machine
end

