-- ==== Sys2Proof/Machine/Ports.lean ====
section
/-! DEFINITION. The Station Ports (10): the checks of a request, its delivery to the owner and the response, the
assembly of frames from characters, and the sending of responses. -/

namespace Sys2Proof.Machine

/-! ### The checks of the port (R170) -/

/-- Whether the catalogue allows a kind on a port; none for a kind outside it (R170, the request catalogue). -/
def kindAllowed (kind : Byte) (p : Port) : Option Bool :=
  match kind.toNat with
  | 0x01 => some true
  | 0x02 => some (decide (p = .a))
  | 0x03 => some (decide (p ≠ .b))
  | 0x04 => some (decide (p ≠ .b))
  | 0x05 => some (decide (p = .a))
  | 0x06 => some (decide (p ≠ .b))
  | 0x07 => some (decide (p ≠ .b))
  | 0x08 => some (decide (p ≠ .b))
  | 0x09 => some (decide (p ≠ .a))
  | 0x0A => some (decide (p = .b))
  | 0x0B => some (decide (p = .b))
  | 0x0C => some (decide (p = .c))
  | 0x0D => some (decide (p = .c))
  | 0x0E => some (decide (p = .c))
  | 0x0F => some (decide (p = .c))
  | 0x10 => some (decide (p = .c))
  | 0x11 => some (decide (p = .c))
  | 0x12 => some (decide (p = .c))
  | 0x13 => some (decide (p = .c))
  | 0x14 => some (decide (p = .c))
  | 0x15 => some (decide (p = .c))
  | _ => none

/-- Whether a CALIBRATION body has the shape of the channel it names (R189). -/
def calShape (channel : Byte) : CalBody → Bool
  | .encoder _ _ _ => (encoderOfNumber channel.toNat).isSome
  | .analog _ _ _ _ => (analogOfNumber channel.toNat).isSome

/-- Whether a request has the length its kind, group or entry is given (R170, check 3). -/
def lengthFits : Request → Bool
  | .unknownKind _ => false
  | .badLength _ _ => false
  | .writeCalibration channel body => calShape channel body
  | .editZone _ (.misfit _) => false
  | _ => true

/-! ### The owners -/

/-- The owner's answer to a request that has passed the port's checks (R170, the request catalogue). -/
def ownerAnswer (p : Port) (r : Request) (s : State) : Reply × State :=
  match r with
  | .unknownKind _ => refuse .badArgument s
  | .badLength _ _ => refuse .badArgument s
  | .readStatus => takeReadStatus p s
  | .motionRequest mark refs => takeMotionRequest mark refs s
  | .modeRequest mode => takeModeRequest p mode s
  | .stopAll => takeStopAll p s
  | .ackAlarm code source => takeAckAlarm code source s
  | .readAlarms start count => takeReadAlarms p start count s
  | .clearOverrun => takeClearOverrun s
  | .readMeasurements => takeReadMeasurements s
  | .readReferences => takeReadReferences s
  | .transferReport mark result => takeTransferReport mark result s
  | .driveState values => takeDriveState values s
  | .readSetting group which => takeReadSetting group which s
  | .writeProfile profile presence fields => takeWriteProfile profile presence fields s
  | .writeAssociation names => takeWriteAssociation names s
  | .writeCalibration channel body => takeWriteCalibration channel body s
  | .writeSupplyBands t1 t2 t3 => takeWriteSupplyBands t1 t2 t3 s
  | .writeBoomBands g h o heavyCap => takeWriteBoomBands g h o heavyCap s
  | .writeCurrentTrip levels counts => takeWriteCurrentTrip levels counts s
  | .writeSharing body => takeWriteSharing body s
  | .writeWalk restFrom restTo gain trip => takeWriteWalk restFrom restTo gain trip s
  | .writeGate confirm => takeWriteGate confirm s
  | .writeSequencer timeout => takeWriteSequencer timeout s
  | .zeroChannel channel value => takeZeroChannel channel value s
  | .clearMarks => takeClearMarks s
  | .readZone table position => takeReadZone table position s
  | .editBegin => takeEditBegin s
  | .editZone position entry => takeEditZone position entry s
  | .editCommit => takeEditCommit s
  | .editDiscard => takeEditDiscard s
  | .restart => takeRestart s

/-- A request judged at the port and, past its checks, by the owner (R170). -/
def judgeRequest (p : Port) (r : Request) (s : State) : Reply × State :=
  match kindAllowed (kindOf r) p with
  | none => refuse .unknownKind s
  | some false => refuse .notPermitted s
  | some true => if lengthFits r then ownerAnswer p r s else refuse .badArgument s

/-- The response to a request: its kind with the top bit set (R171). -/
def responseTo (r : Request) (reply : Reply) : Response :=
  { kind := kindOf r ||| 0x80, result := reply.result, data := reply.data }

/-- A request taken at a port: judged, and held with its response until the response has been sent (R169, R171). -/
def takeRequest (p : Port) (r : Request) (s : State) : State :=
  let judged := judgeRequest p r s
  let link := judged.2.ports.links.get p
  judged.2.withLink p { link with held := some ⟨r, responseTo r judged.1, false⟩ }

/-- The frame in progress at a port ended. -/
def dropFrame (p : Port) (s : State) : State := s.withLink p { s.ports.links.get p with frame := none }

/-- A whole and correct frame completes at a port: its request is taken where the port holds none, and discarded with
no effect where it does (R168, R169). -/
def completeFrame (p : Port) (r : Request) (s : State) : State :=
  let ended := dropFrame p s
  if (s.ports.links.get p).held.isSome then ended else takeRequest p r ended

/-! ### Assembly (R167) -/

/-- The frame in progress after its start byte. -/
def startedFrame : Frame := { kind := none, length := none, payload := [], check := none }

/-- What a character does to the frame in progress (R167): the frame goes on, is discarded, or completes with the two
check bytes. -/
inductive Assembly where
  | continues (f : Frame)
  | discarded
  | completes (kind length : Byte) (payload : List Byte) (check : Half)
  deriving DecidableEq, Repr

/-- A character in RECEIVING (R167). -/
def assemble (f : Frame) (b : Byte) : Assembly :=
  match f.kind, f.length with
  | none, _ => .continues { f with kind := some b }
  | some _, none =>
    if b.toNat ≤ Config.maxPayload then .continues { f with length := some b } else .discarded
  | some k, some n =>
    if f.payload.length < n.toNat then .continues { f with payload := f.payload ++ [b] }
    else
      match f.check with
      | none => .continues { f with check := some b }
      | some first => .completes k n f.payload (first ++ b)

/-- A character received at a port (R167, R168): a start byte begins a frame, a character of a frame is stored, and
the last one completes it; a frame whose check word differs is discarded. -/
def receiveCharacter (p : Port) (b : Byte) (s : State) : State :=
  let link := s.ports.links.get p
  match link.frame with
  | none => if b = Config.startByte then s.withLink p { link with frame := some startedFrame } else s
  | some f =>
    match assemble f b with
    | .continues g => s.withLink p { link with frame := some g }
    | .discarded => dropFrame p s
    | .completes kind length payload check =>
      if frameCheck kind length payload = check then completeFrame p (parseRequest kind payload) s
      else dropFrame p s

/-! ### Sending (R169) -/

/-- The response begins: HELD becomes ANSWERING and its frame goes out on the TX pin. -/
def startResponse (p : Port) (s : State) : State :=
  let link := s.ports.links.get p
  match link.held with
  | some h =>
    if h.answering then s
    else s.withLink p { link with held := some { h with answering := true }, sending := responseFrame h.response }
  | none => s

/-- The last response character has been sent: the port holds no request any more. A frame whose assembly began
before goes on. -/
def endResponse (p : Port) (s : State) : State :=
  let link := s.ports.links.get p
  match link.held with
  | some h => if h.answering then s.withLink p { link with held := none, sending := [] } else s
  | none => s

end Sys2Proof.Machine
end

