-- ==== Sys2Proof/Machine/Startup.lean ====
section
/-! DEFINITION. The start of the part (11): power-on, loss of supply, the external reset, and the release at the end
of the load, where each block takes its working copies from the memory. -/

namespace Sys2Proof.Machine

/-! ### Held in reset -/

/-- A part without supply, or loading: a write in flight cut off (R183), every block held in its reset values with
nothing taken from the memory yet, every line off (R184). What lasts is the memory, the levels at the feedback
inputs, which the field drives, and the queue of commands. -/
def heldInReset (power : Power) (s : State) : State :=
  settle { State.reset with
    power := power
    memory := (cutOff s).memory
    feedbackInputs := s.feedbackInputs
    pending := s.pending }

/-! ### What each block takes at the release -/

/-- Calibration from the CAL records, a factory default where one fails (R16, R184). -/
def loadedScanner (mem : Loaded) : Scanner :=
  { State.reset.scanner with
    encoders := mem.encoderCal.map fun e cal => .reset (cal.getD (Config.factoryEncoderCal.get e))
    analogs := mem.analogCal.map fun a cal => .reset (cal.getD (Config.factoryAnalogCal.get a)) }

/-- The Band Monitor's settings (R33). -/
def loadedBands (mem : Loaded) : Bands :=
  { State.reset.bands with
    thresholds := mem.supplyBands.getD Config.factorySupply
    boomSettings := mem.boomBands.getD Config.factoryBoom
    trip := mem.currentTrip.getD Config.factoryTrip
    budgets := (mem.sharing.getD Config.factorySharing).budgets }

/-- A position from its ZONE record: unused with the failed mark set where the record fails (R185). -/
def loadedSlot : Option (Option Zone) → TableSlot
  | some entry => ⟨entry, false⟩
  | none => ⟨none, true⟩

/-- Whether the header fails its check or carries the marker (R185). -/
def headerFails : Option ZoneHeader → Bool
  | some h => h.marker
  | none => true

/-- The generation a header gives: 0 where it fails its check (R185). -/
def headerGeneration : Option ZoneHeader → Half
  | some h => h.generation
  | none => 0

/-- Whether the load leaves the table state FAILED (R57, R185). -/
def loadFailsTable (mem : Loaded) : Bool := headerFails mem.header || mem.zones.any Option.isNone

/-- The Envelope Unit's table, state and generation, with its edit CLOSED, its caps 1000 and its membership empty
(R57, R185). -/
def loadedEnvelope (mem : Loaded) : Envelope :=
  { State.reset.envelope with
    table := mem.zones.map loadedSlot
    tableFailed := loadFailsTable mem
    generation := headerGeneration mem.header
    condition := conditionOf .closed (loadFailsTable mem) none }

/-- Profiles, associations, weights and shed order (R76, R98). -/
def loadedShaper (mem : Loaded) : Shaper :=
  { State.reset.shaper with
    motions := (mem.association.getD Config.factoryAssociation).map fun _ n => .reset n
    profiles :=
      { common := mem.profileCommon.getD Config.factoryCommon
        a := mem.profileA.getD Config.factoryPartial
        b := mem.profileB.getD Config.factoryPartial }
    weights := (mem.sharing.getD Config.factorySharing).weights
    shedOrder := (mem.sharing.getD Config.factorySharing).shedOrder }

/-- The confirm time, and each feedback from the level at its input, with its fail condition where it is released
(R112, R101). -/
def loadedGate (mem : Loaded) (inputs : PerMotion Bool) : Gate :=
  { State.reset.gate with
    brakes := inputs.map fun _ level => .reset level
    confirm := mem.gate.getD Config.factoryConfirm }

/-- The transfer timeout (R132). -/
def loadedSequencer (mem : Loaded) : Sequencer :=
  { State.reset.sequencer with timeout := mem.sequencer.getD Config.factoryTimeout }

/-- The walk settings (R144). -/
def loadedWalk (mem : Loaded) : WalkTracker :=
  { State.reset.walk with settings := mem.walk.getD Config.factoryWalk }

/-! ### SETTINGS-CHECK (R184) -/

/-- The settings records in the order of R181, each with whether it fails its check. -/
def settingsChecks (mem : Loaded) : List (SettingsRecord × Bool) :=
  [(.profileCommon, mem.profileCommon.isNone), (.profileA, mem.profileA.isNone), (.profileB, mem.profileB.isNone),
    (.association, mem.association.isNone)] ++
  EncoderId.all.map (fun e => (.calEncoder e, (mem.encoderCal.get e).isNone)) ++
  AnalogId.all.map (fun a => (.calAnalog a, (mem.analogCal.get a).isNone)) ++
  [(.supplyBands, mem.supplyBands.isNone), (.boomBands, mem.boomBands.isNone),
    (.currentTrip, mem.currentTrip.isNone), (.sharing, mem.sharing.isNone), (.walk, mem.walk.isNone),
    (.gate, mem.gate.isNone), (.sequencer, mem.sequencer.isNone)]

/-- The settings records that fail their check, in the order of R181. -/
def failedSettings (mem : Loaded) : List SettingsRecord := ((settingsChecks mem).filter Prod.snd).map Prod.fst

/-- SETTINGS-CHECK raised for one failed record (R184). -/
def raiseSettingsCheck (s : State) (r : SettingsRecord) : State :=
  reportMomentary .settingsCheck .store (some (.record r)) s

/-! ### The release -/

/-- Every block at the release, before the store's raises (R184, R185). -/
def loadedBlocks (s : State) : State :=
  let mem := s.memory.load
  { State.reset with
    scanner := loadedScanner mem
    bands := loadedBands mem
    envelope := loadedEnvelope mem
    shaper := loadedShaper mem
    gate := loadedGate mem s.feedbackInputs
    sequencer := loadedSequencer mem
    walk := loadedWalk mem
    memory := s.memory
    feedbackInputs := s.feedbackInputs
    pending := s.pending }

/-- The end of the load: the blocks released, and SETTINGS-CHECK once for each failed settings record (R184). -/
def release (s : State) : State := (failedSettings s.memory.load).foldl raiseSettingsCheck (loadedBlocks s)

/-! ### The commands -/

/-- POWER_ON (R184): the load begins, whatever the part was doing. -/
def execPowerOn (s : State) : Host.Outcome State Fault Refusal := .next (heldInReset .loading s)

/-- POWER_LOSS (R183): a write in flight is cut off; only the memory lasts. -/
def execPowerLoss (s : State) : Host.Outcome State Fault Refusal := .next (heldInReset .off s)

/-- EXTERNAL_RESET (R183, R184): a write in flight is cut off and the load begins; a part without supply stays so. -/
def execExternalReset (s : State) : Host.Outcome State Fault Refusal :=
  match s.power with
  | .off => .next s
  | .loading => .next (heldInReset .loading s)
  | .running => .next (heldInReset .loading s)

/-- SETTINGS_LOAD_END (R184): the release, where a load is under way. -/
def execSettingsLoadEnd (s : State) : Host.Outcome State Fault Refusal :=
  match s.power with
  | .loading => .next (settle (release s))
  | .off => .next s
  | .running => .next s

end Sys2Proof.Machine
end

