-- ==== Sys2Proof/Machine/Completions.lean ====
section
/-! DEFINITION. The completions of the Settings Store (11): a single write, a record of a commit, and the commit. -/

namespace Sys2Proof.Machine

/-- An event of the running part: it takes its effect, and what follows at every event is formed again (`settle`).
A part without supply, or held in reset, takes none (R184). -/
def runningEvent (f : State → State) (s : State) : Host.Outcome State Fault Refusal :=
  if s.power = .running then .next (settle (f s)) else .next s

/-! ### A single write -/

/-- The SEQUENCER write's completion (R131). -/
def applyTimeout (n : Nat) (s : State) : State := s.withSequencer { s.sequencer with timeout := n }

/-- The written values taken by the owner of the record (R183). A CAL write of ZERO-CHANNEL changes nothing. -/
def applyWrite (w : RecordWrite) (s : State) : State :=
  match w with
  | .profileCommon p => applyCommon p s
  | .profileA p => applyProfileA p s
  | .profileB p => applyProfileB p s
  | .association names => applyAssociation names s
  | .calEncoder e cal zeroing => if zeroing then s else recalibrateEncoder e cal s
  | .calAnalog a cal => recalibrateAnalog a cal s
  | .supplyBands t => applySupplyBands t s
  | .boomBands b => applyBoomBands b s
  | .currentTrip t => applyCurrentTrip t s
  | .sharing h => applySharing h s
  | .walk w => applyWalkSettings w s
  | .gate n => applyConfirm n s
  | .sequencer n => applyTimeout n s
  | .zone _ _ => s
  | .zoneHeader _ => s

/-- A single write completes: the record passes its check with its new contents, the store is IDLE, and the owner
takes the values (R183). -/
def completeWrite (s : State) : State :=
  match s.store with
  | .writing w => applyWrite w ((s.withMemory (s.memory.write w)).withStore .idle)
  | _ => s

/-! ### A commit -/

/-- A record of a commit other than the last completes, and the next begins (R182, R183). -/
def completeCommitRecord (s : State) : State :=
  match s.store with
  | .committing w (next :: rest) => (s.withMemory (s.memory.write w)).withStore (.committing next rest)
  | _ => s

/-- What commit completion does beyond the store (R55, R119): the active table replaced, the condition, caps and
membership formed from the snapshot last taken and reported, Port C told, and the waiting entries taken. That the
reports come before the entries are taken is the model's (DESIGN CHOICE, log entry 9). -/
def finishCommit (generation : Half) (s : State) : State :=
  let formed := envelopeEvent (s.withEnvelope (committedEnvelope generation s.envelope))
  serviceQueue (formed.withPortC { formed.ports.c with commitEnded := true })

/-- The final header write completes (R55, R183). -/
def completeCommit (s : State) : State :=
  match s.store with
  | .committing (.zoneHeader h) [] =>
    finishCommit h.generation ((s.withMemory (s.memory.write (.zoneHeader h))).withStore .idle)
  | _ => s

/-! ### The commands -/

/-- STORE_WRITE_COMPLETION (R183). -/
def execStoreWriteCompletion (s : State) : Host.Outcome State Fault Refusal := runningEvent completeWrite s

/-- COMMIT_RECORD_WRITE_COMPLETION (R54, R183). -/
def execCommitRecordWriteCompletion (s : State) : Host.Outcome State Fault Refusal :=
  runningEvent completeCommitRecord s

/-- COMMIT_COMPLETION (R55). -/
def execCommitCompletion (s : State) : Host.Outcome State Fault Refusal := runningEvent completeCommit s

end Sys2Proof.Machine
end

