-- ==== Sys2Proof/Machine/Events.lean ====
section
/-! DEFINITION. The events of the field and of the part's own timers: edges, the scan, the period, feedback, the hold,
transfer and gap timers, the second, and the steps of a port that carry no request. -/

namespace Sys2Proof.Machine

/-! ### The scan and the period -/

/-- A scan completion: the scanner, then at the publication of its snapshot the Envelope Unit, the Band Monitor and
the Walk Tracker (R1, R2, R18, R38, R135). The order is the one the alarm list of R187's example shows. -/
def scanAll (conversions : PerAnalog Sample) (s : State) : State :=
  let scanned := scannerScan conversions s
  match scanned.scanner.snapshot with
  | some snap => walkScan snap (bandsScan snap (envelopeEvent scanned))
  | none => scanned

/-- A period expiry: the eight stages, the period end notification at the gate, and the sequencer after the gate
(R80, R95, R102, R123). -/
def periodAll (s : State) : State :=
  let notices := periodNotices s
  periodEndAtSequencer notices (notifyGate notices (shapePeriod s))

/-! ### Timers -/

/-- The hold timer runs out in FRESH (R72): STALE, every operator request 0, OPERATOR-STALE raised. -/
def holdExpires (s : State) : State :=
  if s.ports.a.holdTimer then
    let stale := s.withPortA { s.ports.a with freshness := .stale, holdTimer := false, staleCondition := true }
    let zeroed := stale.withShaper
      { stale.shaper with motions := stale.shaper.motions.map fun _ r => { r with request := 0 } }
    reportRaise .operatorStale .portA none zeroed
  else s

/-- The transfer timer of a PENDING order runs out (R129). -/
def transferExpires (s : State) : State := if orderPending s.sequencer then orderFailed .timeout s else s

/-- The seconds count rises by one and stops at its end (R163). -/
def tickSeconds (s : State) : State :=
  s.withAlarms { s.alarms with seconds := min Config.secondsMax (s.alarms.seconds + 1) }

/-- A frame that completes while the port holds a request is discarded (R169). -/
def discardWhileHeld (p : Port) (s : State) : State :=
  if (s.ports.links.get p).held.isSome then dropFrame p s else s

/-! ### The commands -/

/-- ENCODER_EDGE (R3). -/
def execEncoderEdge (e : EncoderId) (forward : Bool) (s : State) : Host.Outcome State Fault Refusal :=
  runningEvent (fun s => s.withScanner (encoderEdge e forward s.scanner)) s

/-- SCAN_COMPLETION (R1). -/
def execScanCompletion (conversions : PerAnalog Sample) (s : State) : Host.Outcome State Fault Refusal :=
  runningEvent (scanAll conversions) s

/-- PERIOD_EXPIRY (R80). -/
def execPeriodExpiry (s : State) : Host.Outcome State Fault Refusal := runningEvent periodAll s

/-- FEEDBACK_INPUT_EDGE (R101): the input has its new level whether the part runs or not; the filter is the running
gate's. -/
def execFeedbackInputEdge (m : Motion) (s : State) : Host.Outcome State Fault Refusal :=
  if s.power = .running then .next (settle (feedbackEdge m s))
  else .next { s with feedbackInputs := s.feedbackInputs.set m (!s.feedbackInputs.get m) }

/-- FEEDBACK_CHANGE (R101). -/
def execFeedbackChange (m : Motion) (s : State) : Host.Outcome State Fault Refusal := runningEvent (takeFeedback m) s

/-- HOLD_TIMER_EXPIRY (R72). -/
def execHoldTimerExpiry (s : State) : Host.Outcome State Fault Refusal := runningEvent holdExpires s

/-- TRANSFER_TIMER_EXPIRY (R129). -/
def execTransferTimerExpiry (s : State) : Host.Outcome State Fault Refusal := runningEvent transferExpires s

/-- SECONDS_TICK (R163). -/
def execSecondsTick (s : State) : Host.Outcome State Fault Refusal := runningEvent tickSeconds s

/-- GAP_TIMER_EXPIRY (R167): the frame in progress is discarded. -/
def execGapTimerExpiry (p : Port) (s : State) : Host.Outcome State Fault Refusal := runningEvent (dropFrame p) s

/-- BAD_FRAME_DISCARD (R166, R168): the frame in progress is discarded without a response. -/
def execBadFrameDiscard (p : Port) (s : State) : Host.Outcome State Fault Refusal := runningEvent (dropFrame p) s

/-- FRAME_WHILE_HELD_DISCARD (R169). -/
def execFrameWhileHeldDiscard (p : Port) (s : State) : Host.Outcome State Fault Refusal :=
  runningEvent (discardWhileHeld p) s

/-- RESPONSE_START (R169). -/
def execResponseStart (p : Port) (s : State) : Host.Outcome State Fault Refusal := runningEvent (startResponse p) s

/-- RESPONSE_COMPLETE (R169). -/
def execResponseComplete (p : Port) (s : State) : Host.Outcome State Fault Refusal := runningEvent (endResponse p) s

/-- CHARACTER_RECEIVED (R167, R168). -/
def execCharacterReceived (p : Port) (char : Byte) (s : State) : Host.Outcome State Fault Refusal :=
  runningEvent (receiveCharacter p char) s

end Sys2Proof.Machine
end

