-- ==== Sys2Proof/Machine/Commands.lean ====
section
/-! DEFINITION. The station requests, one command each: the request of a whole and correct frame, taken at its port
where the port holds none (R168, R169). What it does is the owner's (Requests.lean), past the port's checks
(Ports.lean). -/

namespace Sys2Proof.Machine

/-- UNKNOWN_KIND_REQUEST (R170). -/
def execUnknownKindRequest (p : Port) (kind : Byte) (s : State) : Host.Outcome State Fault Refusal :=
  runningEvent (completeFrame p (.unknownKind kind)) s

/-- READ_STATUS (R173). -/
def execReadStatus (p : Port) (s : State) : Host.Outcome State Fault Refusal :=
  runningEvent (completeFrame p .readStatus) s

/-- MOTION_REQUEST (R69 to R71). -/
def execMotionRequest (p : Port) (mark : Byte) (refs : PerMotion Half) (s : State) :
    Host.Outcome State Fault Refusal :=
  runningEvent (completeFrame p (.motionRequest mark refs)) s

/-- MODE_REQUEST (R116). -/
def execModeRequest (p : Port) (mode : Byte) (s : State) : Host.Outcome State Fault Refusal :=
  runningEvent (completeFrame p (.modeRequest mode)) s

/-- STOP_ALL (R154). -/
def execStopAll (p : Port) (s : State) : Host.Outcome State Fault Refusal := runningEvent (completeFrame p .stopAll) s

/-- ACK_ALARM (R153). -/
def execAckAlarm (p : Port) (code source : Byte) (s : State) : Host.Outcome State Fault Refusal :=
  runningEvent (completeFrame p (.ackAlarm code source)) s

/-- READ_ALARMS (R161). -/
def execReadAlarms (p : Port) (start count : Byte) (s : State) : Host.Outcome State Fault Refusal :=
  runningEvent (completeFrame p (.readAlarms start count)) s

/-- CLEAR_OVERRUN (R152). -/
def execClearOverrun (p : Port) (s : State) : Host.Outcome State Fault Refusal :=
  runningEvent (completeFrame p .clearOverrun) s

/-- READ_MEASUREMENTS (R2). -/
def execReadMeasurements (p : Port) (s : State) : Host.Outcome State Fault Refusal :=
  runningEvent (completeFrame p .readMeasurements) s

/-- READ_REFERENCES (R95). -/
def execReadReferences (p : Port) (s : State) : Host.Outcome State Fault Refusal :=
  runningEvent (completeFrame p .readReferences) s

/-- TRANSFER_REPORT (R126). -/
def execTransferReport (p : Port) (mark result : Byte) (s : State) : Host.Outcome State Fault Refusal :=
  runningEvent (completeFrame p (.transferReport mark result)) s

/-- DRIVE_STATE (R159). -/
def execDriveState (p : Port) (values : PerGroup Byte) (s : State) : Host.Outcome State Fault Refusal :=
  runningEvent (completeFrame p (.driveState values)) s

/-- READ_SETTING (R174). -/
def execReadSetting (p : Port) (group which : Byte) (s : State) : Host.Outcome State Fault Refusal :=
  runningEvent (completeFrame p (.readSetting group which)) s

/-- WRITE_SETTING_PROFILE (R61, R62). -/
def execWriteSettingProfile (p : Port) (profile presence : Byte) (fields : ProfileFields Half) (s : State) :
    Host.Outcome State Fault Refusal :=
  runningEvent (completeFrame p (.writeProfile profile presence fields)) s

/-- WRITE_SETTING_ASSOCIATION (R64). -/
def execWriteSettingAssociation (p : Port) (names : PerMotion Byte) (s : State) : Host.Outcome State Fault Refusal :=
  runningEvent (completeFrame p (.writeAssociation names)) s

/-- WRITE_SETTING_CALIBRATION (R15). -/
def execWriteSettingCalibration (p : Port) (channel : Byte) (body : CalBody) (s : State) :
    Host.Outcome State Fault Refusal :=
  runningEvent (completeFrame p (.writeCalibration channel body)) s

/-- WRITE_SETTING_SUPPLY_BANDS (R27). -/
def execWriteSettingSupplyBands (p : Port) (t1 t2 t3 : Half) (s : State) : Host.Outcome State Fault Refusal :=
  runningEvent (completeFrame p (.writeSupplyBands t1 t2 t3)) s

/-- WRITE_SETTING_BOOM_BANDS (R27). -/
def execWriteSettingBoomBands (p : Port) (g h o heavyCap : Half) (s : State) : Host.Outcome State Fault Refusal :=
  runningEvent (completeFrame p (.writeBoomBands g h o heavyCap)) s

/-- WRITE_SETTING_CURRENT_TRIP (R32). -/
def execWriteSettingCurrentTrip (p : Port) (levels : PerGroup Half) (counts : PerGroup Byte) (s : State) :
    Host.Outcome State Fault Refusal :=
  runningEvent (completeFrame p (.writeCurrentTrip levels counts)) s

/-- WRITE_SETTING_SHARING (R97, R25). -/
def execWriteSettingSharing (p : Port) (body : SharingBody) (s : State) : Host.Outcome State Fault Refusal :=
  runningEvent (completeFrame p (.writeSharing body)) s

/-- WRITE_SETTING_WALK (R142). -/
def execWriteSettingWalk (p : Port) (restFrom restTo : Half) (gain trip : Byte) (s : State) :
    Host.Outcome State Fault Refusal :=
  runningEvent (completeFrame p (.writeWalk restFrom restTo gain trip)) s

/-- WRITE_SETTING_GATE (R111). -/
def execWriteSettingGate (p : Port) (confirm : Byte) (s : State) : Host.Outcome State Fault Refusal :=
  runningEvent (completeFrame p (.writeGate confirm)) s

/-- WRITE_SETTING_SEQUENCER (R131). -/
def execWriteSettingSequencer (p : Port) (timeout : Byte) (s : State) : Host.Outcome State Fault Refusal :=
  runningEvent (completeFrame p (.writeSequencer timeout)) s

/-- ZERO_CHANNEL (R14). -/
def execZeroChannel (p : Port) (channel : Byte) (value : Word) (s : State) : Host.Outcome State Fault Refusal :=
  runningEvent (completeFrame p (.zeroChannel channel value)) s

/-- CLEAR_MARKS (R12). -/
def execClearMarks (p : Port) (s : State) : Host.Outcome State Fault Refusal :=
  runningEvent (completeFrame p .clearMarks) s

/-- READ_ZONE (R49). -/
def execReadZone (p : Port) (table position : Byte) (s : State) : Host.Outcome State Fault Refusal :=
  runningEvent (completeFrame p (.readZone table position)) s

/-- EDIT_BEGIN (R50). -/
def execEditBegin (p : Port) (s : State) : Host.Outcome State Fault Refusal :=
  runningEvent (completeFrame p .editBegin) s

/-- EDIT_ZONE (R51). -/
def execEditZone (p : Port) (position : Byte) (entry : ZoneBody) (s : State) : Host.Outcome State Fault Refusal :=
  runningEvent (completeFrame p (.editZone position entry)) s

/-- EDIT_DISCARD (R52). -/
def execEditDiscard (p : Port) (s : State) : Host.Outcome State Fault Refusal :=
  runningEvent (completeFrame p .editDiscard) s

/-- EDIT_COMMIT (R53). -/
def execEditCommit (p : Port) (s : State) : Host.Outcome State Fault Refusal :=
  runningEvent (completeFrame p .editCommit) s

/-- RESTART (R176). -/
def execRestart (p : Port) (s : State) : Host.Outcome State Fault Refusal := runningEvent (completeFrame p .restart) s

end Sys2Proof.Machine
end

