-- ==== Sys2Proof/Machine/Dispatch.lean ====
section
/-! DEFINITION. Which meaning a command has. -/

namespace Sys2Proof.Machine

def exec (i : Instr) (s : State) : Host.Outcome State Fault Refusal :=
  match i with
  | .powerOn => Sys2Proof.Machine.execPowerOn s
  | .powerLoss => Sys2Proof.Machine.execPowerLoss s
  | .externalReset => Sys2Proof.Machine.execExternalReset s
  | .settingsLoadEnd => Sys2Proof.Machine.execSettingsLoadEnd s
  | .encoderEdge e forward => Sys2Proof.Machine.execEncoderEdge e forward s
  | .scanCompletion conversions => Sys2Proof.Machine.execScanCompletion conversions s
  | .periodExpiry => Sys2Proof.Machine.execPeriodExpiry s
  | .feedbackInputEdge m => Sys2Proof.Machine.execFeedbackInputEdge m s
  | .feedbackChange m => Sys2Proof.Machine.execFeedbackChange m s
  | .holdTimerExpiry => Sys2Proof.Machine.execHoldTimerExpiry s
  | .transferTimerExpiry => Sys2Proof.Machine.execTransferTimerExpiry s
  | .secondsTick => Sys2Proof.Machine.execSecondsTick s
  | .storeWriteCompletion => Sys2Proof.Machine.execStoreWriteCompletion s
  | .commitRecordWriteCompletion => Sys2Proof.Machine.execCommitRecordWriteCompletion s
  | .commitCompletion => Sys2Proof.Machine.execCommitCompletion s
  | .gapTimerExpiry p => Sys2Proof.Machine.execGapTimerExpiry p s
  | .badFrameDiscard p => Sys2Proof.Machine.execBadFrameDiscard p s
  | .frameWhileHeldDiscard p => Sys2Proof.Machine.execFrameWhileHeldDiscard p s
  | .responseStart p => Sys2Proof.Machine.execResponseStart p s
  | .responseComplete p => Sys2Proof.Machine.execResponseComplete p s
  | .unknownKindRequest p kind => Sys2Proof.Machine.execUnknownKindRequest p kind s
  | .readStatus p => Sys2Proof.Machine.execReadStatus p s
  | .motionRequest p mark refs => Sys2Proof.Machine.execMotionRequest p mark refs s
  | .modeRequest p mode => Sys2Proof.Machine.execModeRequest p mode s
  | .stopAll p => Sys2Proof.Machine.execStopAll p s
  | .ackAlarm p code source => Sys2Proof.Machine.execAckAlarm p code source s
  | .readAlarms p start count => Sys2Proof.Machine.execReadAlarms p start count s
  | .clearOverrun p => Sys2Proof.Machine.execClearOverrun p s
  | .readMeasurements p => Sys2Proof.Machine.execReadMeasurements p s
  | .readReferences p => Sys2Proof.Machine.execReadReferences p s
  | .transferReport p mark result => Sys2Proof.Machine.execTransferReport p mark result s
  | .driveState p values => Sys2Proof.Machine.execDriveState p values s
  | .readSetting p group which => Sys2Proof.Machine.execReadSetting p group which s
  | .writeSettingProfile p profile presence fields => Sys2Proof.Machine.execWriteSettingProfile p profile presence fields s
  | .writeSettingAssociation p names => Sys2Proof.Machine.execWriteSettingAssociation p names s
  | .writeSettingCalibration p channel body => Sys2Proof.Machine.execWriteSettingCalibration p channel body s
  | .writeSettingSupplyBands p t1 t2 t3 => Sys2Proof.Machine.execWriteSettingSupplyBands p t1 t2 t3 s
  | .writeSettingBoomBands p g h o heavyCap => Sys2Proof.Machine.execWriteSettingBoomBands p g h o heavyCap s
  | .writeSettingCurrentTrip p levels counts => Sys2Proof.Machine.execWriteSettingCurrentTrip p levels counts s
  | .writeSettingSharing p body => Sys2Proof.Machine.execWriteSettingSharing p body s
  | .writeSettingWalk p restFrom restTo gain trip => Sys2Proof.Machine.execWriteSettingWalk p restFrom restTo gain trip s
  | .writeSettingGate p confirm => Sys2Proof.Machine.execWriteSettingGate p confirm s
  | .writeSettingSequencer p timeout => Sys2Proof.Machine.execWriteSettingSequencer p timeout s
  | .zeroChannel p channel value => Sys2Proof.Machine.execZeroChannel p channel value s
  | .clearMarks p => Sys2Proof.Machine.execClearMarks p s
  | .readZone p table position => Sys2Proof.Machine.execReadZone p table position s
  | .editBegin p => Sys2Proof.Machine.execEditBegin p s
  | .editZone p position entry => Sys2Proof.Machine.execEditZone p position entry s
  | .editDiscard p => Sys2Proof.Machine.execEditDiscard p s
  | .editCommit p => Sys2Proof.Machine.execEditCommit p s
  | .restart p => Sys2Proof.Machine.execRestart p s
  | .characterReceived p char => Sys2Proof.Machine.execCharacterReceived p char s

end Sys2Proof.Machine
end

