-- ==== Sys2Proof/Safety.lean ====
section
/-! DEFINITION. What the claims speak of: the laws a safe run keeps, stated from the rules and not from the meanings
that keep them, and the terms in which a command's outcome is described. -/

namespace Sys2Proof.Machine

/-! ### Answers at a port -/

/-- A running part whose port `p` holds no request, so that a whole and correct frame is taken there (R169). -/
def PortFree (p : Port) (s : State) : Prop := s.power = .running ∧ (s.ports.links.get p).held = none

/-- The state with a request held at a port, its response formed and not yet begun, and no frame in progress there
(R168, R169, R171). `kind` is the kind the response carries. -/
def holdAnswer (p : Port) (r : Request) (kind : Byte) (result : ResultCode) (data : List Byte) (s : State) : State :=
  s.withLink p { s.ports.links.get p with frame := none, held := some ⟨r, ⟨kind, result, data⟩, false⟩ }

/-- The request a station request's command carries, with its port; none for the other commands. -/
def requestOf : Instr → Option (Port × Request)
  | .unknownKindRequest p kind => some (p, .unknownKind kind)
  | .readStatus p => some (p, .readStatus)
  | .motionRequest p mark refs => some (p, .motionRequest mark refs)
  | .modeRequest p mode => some (p, .modeRequest mode)
  | .stopAll p => some (p, .stopAll)
  | .ackAlarm p code source => some (p, .ackAlarm code source)
  | .readAlarms p start count => some (p, .readAlarms start count)
  | .clearOverrun p => some (p, .clearOverrun)
  | .readMeasurements p => some (p, .readMeasurements)
  | .readReferences p => some (p, .readReferences)
  | .transferReport p mark result => some (p, .transferReport mark result)
  | .driveState p values => some (p, .driveState values)
  | .readSetting p group which => some (p, .readSetting group which)
  | .writeSettingProfile p profile presence fields => some (p, .writeProfile profile presence fields)
  | .writeSettingAssociation p names => some (p, .writeAssociation names)
  | .writeSettingCalibration p channel body => some (p, .writeCalibration channel body)
  | .writeSettingSupplyBands p t1 t2 t3 => some (p, .writeSupplyBands t1 t2 t3)
  | .writeSettingBoomBands p g h o heavyCap => some (p, .writeBoomBands g h o heavyCap)
  | .writeSettingCurrentTrip p levels counts => some (p, .writeCurrentTrip levels counts)
  | .writeSettingSharing p body => some (p, .writeSharing body)
  | .writeSettingWalk p restFrom restTo gain trip => some (p, .writeWalk restFrom restTo gain trip)
  | .writeSettingGate p confirm => some (p, .writeGate confirm)
  | .writeSettingSequencer p timeout => some (p, .writeSequencer timeout)
  | .zeroChannel p channel value => some (p, .zeroChannel channel value)
  | .clearMarks p => some (p, .clearMarks)
  | .readZone p table position => some (p, .readZone table position)
  | .editBegin p => some (p, .editBegin)
  | .editZone p position entry => some (p, .editZone position entry)
  | .editDiscard p => some (p, .editDiscard)
  | .editCommit p => some (p, .editCommit)
  | .restart p => some (p, .restart)
  | .powerOn => none
  | .powerLoss => none
  | .externalReset => none
  | .settingsLoadEnd => none
  | .encoderEdge _ _ => none
  | .scanCompletion _ => none
  | .periodExpiry => none
  | .feedbackInputEdge _ => none
  | .feedbackChange _ => none
  | .holdTimerExpiry => none
  | .transferTimerExpiry => none
  | .secondsTick => none
  | .storeWriteCompletion => none
  | .commitRecordWriteCompletion => none
  | .commitCompletion => none
  | .gapTimerExpiry _ => none
  | .badFrameDiscard _ => none
  | .frameWhileHeldDiscard _ => none
  | .responseStart _ => none
  | .responseComplete _ => none
  | .characterReceived _ _ => none

/-- The characters of a whole frame (R166): start byte, kind, length, payload and check word, high byte first. -/
def frameCharacters (kind : Byte) (payload : List Byte) (check : Half) : List Byte :=
  Config.startByte :: kind :: nat8 payload.length :: payload ++ be16 check

/-- One character after another received at a port. -/
def receiveAll (p : Port) : List Byte → State → Host.Outcome State Fault Refusal
  | [], s => .next s
  | b :: rest, s =>
    match exec (.characterReceived p b) s with
    | .next t => receiveAll p rest t
    | .fault f => .fault f
    | .refused r => .refused r

/-! ### The records of the memory (R181) -/

/-- The settings records in the order of R181. -/
def SettingsRecord.all : List SettingsRecord :=
  [.profileCommon, .profileA, .profileB, .association, .calEncoder .hoistPayout, .calEncoder .dragPayout,
    .calEncoder .swingAngle, .calEncoder .camLeft, .calEncoder .camRight, .calAnalog .hgCurrent,
    .calAnalog .dgCurrent, .calAnalog .sgCurrent, .calAnalog .boomLoad, .calAnalog .supplyVoltage, .supplyBands,
    .boomBands, .currentTrip, .sharing, .walk, .gate, .sequencer]

/-- A record's contents, told as the write that would leave them; none where the record fails its check. -/
def Memory.recordAt (mem : Memory) : RecordName → Option RecordWrite
  | .settings .profileCommon => mem.load.profileCommon.map .profileCommon
  | .settings .profileA => mem.load.profileA.map .profileA
  | .settings .profileB => mem.load.profileB.map .profileB
  | .settings .association => mem.load.association.map .association
  | .settings (.calEncoder e) => (mem.load.encoderCal.get e).map fun cal => .calEncoder e cal false
  | .settings (.calAnalog a) => (mem.load.analogCal.get a).map (.calAnalog a)
  | .settings .supplyBands => mem.load.supplyBands.map .supplyBands
  | .settings .boomBands => mem.load.boomBands.map .boomBands
  | .settings .currentTrip => mem.load.currentTrip.map .currentTrip
  | .settings .sharing => mem.load.sharing.map .sharing
  | .settings .walk => mem.load.walk.map .walk
  | .settings .gate => mem.load.gate.map .gate
  | .settings .sequencer => mem.load.sequencer.map .sequencer
  | .zone i => (mem.load.zones.getD i none).map (.zone i)
  | .zoneHeader => mem.load.header.map .zoneHeader

/-- A write's contents as the record holds them: a CAL record does not tell who wrote it. -/
def RecordWrite.written : RecordWrite → RecordWrite
  | .calEncoder e cal _ => .calEncoder e cal false
  | w => w

/-- The records a store has in flight or still to write. -/
def Store.records : Store → List RecordWrite
  | .idle => []
  | .writing w => [w]
  | .committing w rest => w :: rest

/-- The memory a loss of supply or a reset leaves (R183). -/
def memoryAfterCut (s : State) : Memory :=
  match s.store with
  | .idle => s.memory
  | .writing w => s.memory.spoil w
  | .committing w _ => s.memory.spoil w

/-- The state with a single write completed at the store, before its owner takes the values (R183). -/
def afterWrite (s : State) : State :=
  match s.store with
  | .writing w => { s with store := .idle, memory := s.memory.write w }
  | _ => s

/-- A part without supply or loading: every block in its reset values, with the memory a cut-off leaves, the levels at
the feedback inputs and the queue. -/
def resetHeld (p : Power) (s : State) : State :=
  { State.reset with
    power := p, memory := memoryAfterCut s, feedbackInputs := s.feedbackInputs, pending := s.pending }

/-- The settings records that fail their check, in the order of R181. -/
def failingSettings (mem : Memory) : List SettingsRecord :=
  SettingsRecord.all.filter fun r => (mem.recordAt (.settings r)).isNone

/-! ### In service, the walk permit and the lines (R67, R120, R100, R110, R158, R177 to R179, R184) -/

/-- The row of R67 for a motion: mode or source mode, arrangement and drive readiness, with no order PENDING. -/
def MayServe (s : State) : Motion → Prop
  | .hoist =>
    (s.sequencer.mode = .dig ∨ ∃ d, s.sequencer.mode = .stopping .dig d) ∧
      s.sequencer.record.arrangement = .dig ∧ s.shaper.readiness.hg = .ready ∧ s.sequencer.record.order ≠ .pending
  | .drag =>
    (s.sequencer.mode = .dig ∨ ∃ d, s.sequencer.mode = .stopping .dig d) ∧
      s.sequencer.record.arrangement = .dig ∧ s.shaper.readiness.dg = .ready ∧ s.sequencer.record.order ≠ .pending
  | .swing =>
    (s.sequencer.mode = .dig ∨ ∃ d, s.sequencer.mode = .stopping .dig d) ∧
      s.shaper.readiness.sg = .ready ∧ s.sequencer.record.order ≠ .pending
  | .walk =>
    (s.sequencer.mode = .walk ∨ ∃ d, s.sequencer.mode = .stopping .walk d) ∧
      s.sequencer.record.arrangement = .walk ∧ s.shaper.readiness.hg = .ready ∧ s.shaper.readiness.dg = .ready ∧
      s.sequencer.record.order ≠ .pending

/-- The conditions of R120 but for the mode's. -/
def MayWalk (s : State) : Prop :=
  (s.bands.boom.valid = true ∧ s.bands.boom.band = .empty) ∧
  (s.bands.supply.valid = true ∧ (s.bands.supply.band = .normal ∨ s.bands.supply.band = .low)) ∧
  (∀ e ∈ s.alarms.list, e.cls ≠ .trip) ∧ s.envelope.edit ≠ .committing

/-- Whether a brake is RELEASING or RELEASED. -/
def Lifted (b : BrakeRecord) : Prop := b.state = .releasing ∨ b.state = .released

/-- The lines of a running part. -/
def LinesFollow (s : State) : Prop :=
  (∀ m, s.lines.brake.get m = true ↔ Lifted (s.gate.brakes.get m)) ∧
  (∀ m, s.lines.runEnable.get m = true ↔
    MayServe s m ∧ (s.shaper.motions.get m).permit = true ∧ Lifted (s.gate.brakes.get m)) ∧
  (s.lines.horn = true ↔ s.alarms.horn = true) ∧
  (s.lines.attention.a = true ↔ s.ports.a.listChanged = true ∨ s.alarms.horn = true) ∧
  (s.lines.attention.b = true ↔ s.sequencer.record.order = .pending) ∧
  (s.lines.attention.c = true ↔ s.ports.c.listChanged = true ∨ s.ports.c.commitEnded = true)

/-- Every line off. -/
def LinesOff (s : State) : Prop :=
  s.lines = { brake := ⟨false, false, false, false⟩, runEnable := ⟨false, false, false, false⟩,
              attention := ⟨false, false, false⟩, horn := false }

/-- What is formed from other state is as it is formed: in-service of every motion, the walk permit and the lines. -/
def Coherent (s : State) : Prop :=
  (∀ m, (s.shaper.motions.get m).inService = true ↔ MayServe s m) ∧
  (s.sequencer.walkPermit = true ↔ (s.sequencer.mode = .parked ∨ s.sequencer.mode = .dig) ∧ MayWalk s) ∧
  (s.power = .running → LinesFollow s) ∧ (s.power ≠ .running → LinesOff s)

/-! ### The alarm list (R147, R148, R81, R158, the code table of 09) -/

/-- The code and source pairs of the code table. -/
def inCodeTable : AlarmCode → Source → Bool
  | .overcurrent, .group _ => true
  | .driveFault, .group _ => true
  | .brakeFail, .motion _ => true
  | .supplyLost, .supply => true
  | .stopAll, .portA => true
  | .stopAll, .portC => true
  | .transferFail, .sequencer => true
  | .operatorStale, .portA => true
  | .channelFault, .encoder _ => true
  | .channelFault, .analog _ => true
  | .skew, .motion .walk => true
  | .envelopeInvalid, .envelope => true
  | .intrusion, .envelope => true
  | .zoneWarn, .envelope => true
  | .supplyLow, .supply => true
  | .supplySag, .supply => true
  | .boomOverload, .boom => true
  | .overdraw, .supply => true
  | .sequenceRefused, .sequencer => true
  | .settingsCheck, .store => true
  | _, _ => false

/-- Every entry is of a pair of the code table with the class that table gives, no two entries share code and source,
there are at most 32, and the flags and the horn are those the list gives. A condition present without an entry is of
class WARN and, in the list, has none; none is remembered twice (R152; log entry 21). -/
def AlarmListLaw (s : State) : Prop :=
  (∀ e ∈ s.alarms.list, inCodeTable e.code e.source = true ∧ e.cls = alarmClass e.code e.source) ∧
  (s.alarms.list.map fun e => (e.code, e.source)).Nodup ∧
  s.alarms.list.length ≤ 32 ∧
  (∀ m, s.alarms.hold.get m = true ↔
    ∃ e ∈ s.alarms.list, e.cls = .hold ∧ e.state ≠ .clearedUnack ∧ e.affected.get m = true) ∧
  (∀ m, s.alarms.limit.get m = true ↔
    ∃ e ∈ s.alarms.list, e.cls = .limit ∧ e.state ≠ .clearedUnack ∧ e.affected.get m = true) ∧
  (s.alarms.horn = true ↔ ∃ e ∈ s.alarms.list, e.cls ≠ .warn ∧ e.state ≠ .activeAck) ∧
  (∀ p ∈ s.alarms.lost, alarmClass p.1 p.2 = .warn ∧ ∀ e ∈ s.alarms.list, e.code = p.1 → e.source ≠ p.2) ∧
  s.alarms.lost.Nodup

/-- Whether a TRIP entry in the list, in any state, affects a motion (R157). -/
def Tripped (s : State) (m : Motion) : Prop := ∃ e ∈ s.alarms.list, e.cls = .trip ∧ e.affected.get m = true

/-- A run permit is clear while a TRIP entry affecting its motion stands in the list (R155). -/
def PermitLaw (s : State) : Prop := ∀ m, Tripped s m → (s.shaper.motions.get m).permit = false

/-! ### Settings in range (R60) -/

/-- Whether `n` lies in lo..hi. -/
def Within (lo hi n : Nat) : Prop := lo ≤ n ∧ n ≤ hi

/-- A profile with every field in its range. -/
def ProfileInRange (p : Profile) : Prop :=
  Within 1 200 p.accel ∧ Within 1 200 p.decel ∧ Within 100 1000 p.ceiling ∧ Within 10 200 p.creep ∧
  Within 0 40 p.dwell ∧ Within 0 80 p.releaseDelay ∧ Within 1 2400 p.idleSet

/-- A partial profile with every present field in its range. -/
def PartialInRange (p : PartialProfile) : Prop :=
  (∀ n ∈ p.accel, Within 1 200 n) ∧ (∀ n ∈ p.decel, Within 1 200 n) ∧ (∀ n ∈ p.ceiling, Within 100 1000 n) ∧
  (∀ n ∈ p.creep, Within 10 200 n) ∧ (∀ n ∈ p.dwell, Within 0 40 n) ∧ (∀ n ∈ p.releaseDelay, Within 0 80 n) ∧
  (∀ n ∈ p.idleSet, Within 1 2400 n)

/-- A write of a profile record carries a profile in range. -/
def RecordWrite.CarriesProfileInRange : RecordWrite → Prop
  | .profileCommon p => ProfileInRange p
  | .profileA p => PartialInRange p
  | .profileB p => PartialInRange p
  | _ => True

/-- Every profile is in range: the working ones, the stored ones and any being written (R60, R61). -/
def ProfileLaw (s : State) : Prop :=
  ProfileInRange s.shaper.profiles.common ∧ PartialInRange s.shaper.profiles.a ∧
  PartialInRange s.shaper.profiles.b ∧ (∀ p ∈ s.memory.load.profileCommon, ProfileInRange p) ∧
  (∀ p ∈ s.memory.load.profileA, PartialInRange p) ∧ (∀ p ∈ s.memory.load.profileB, PartialInRange p) ∧
  ∀ w ∈ s.store.records, w.CarriesProfileInRange

/-! ### Outputs (R89, R96, R140) -/

/-- A motion's output is nonzero only while it is in service, its permit is set and its brake is RELEASED (R89). -/
def OutputLaw (s : State) : Prop :=
  ∀ m, (s.shaper.motions.get m).output ≠ 0 →
    MayServe s m ∧ (s.shaper.motions.get m).permit = true ∧ (s.gate.brakes.get m).state = .released

/-- A side reference against the WALK output: no larger, and of its sign or zero (R140). -/
def SideOf (side ow : Int) : Prop := side.natAbs ≤ ow.natAbs ∧ (side = 0 ∨ side.sign = ow.sign)

/-- What is published is what is held: the outputs of the references record are the motions' outputs (R95, R96), and
the side references keep to the WALK output (R140, R141). -/
def PublishedLaw (s : State) : Prop :=
  (∀ m, s.shaper.references.outputs.get m = (s.shaper.motions.get m).output) ∧
  SideOf s.walk.walkLeft s.shaper.motions.walk.output ∧ SideOf s.walk.walkRight s.shaper.motions.walk.output

/-! ### The sequencer and the commit (R114 to R117, R53, R59) -/

/-- The integrators of HG and DG are 0, as while a transfer order is PENDING (R31, R125). -/
def IntegratorsBlanked (s : State) : Prop := s.bands.integrators.hg = 0 ∧ s.bands.integrators.dg = 0

/-- At most four requests wait, and none stands ahead of a PARK (R117). -/
def QueueLaw (s : State) : Prop :=
  s.sequencer.queue.length ≤ 4 ∧ ∀ e ∈ s.sequencer.queue.tail, e.request ≠ .parked

/-- An order is PENDING exactly in TRANSFERRING, its timer runs exactly then, ended-by is present exactly for an ended
order (R115), and the integrators of HG and DG are 0 while it is PENDING (R31, R125); the edit state is COMMITTING
exactly while the store is, and only in PARKED (R53). -/
def OrderLaw (s : State) : Prop :=
  (s.sequencer.record.order = .pending ↔ ∃ d, s.sequencer.mode = .transferring d) ∧
  (s.sequencer.record.timer.isSome = true ↔ s.sequencer.record.order = .pending) ∧
  (s.sequencer.record.endedBy.isSome = true ↔
    s.sequencer.record.order = .done ∨ s.sequencer.record.order = .failed) ∧
  (s.sequencer.record.order = .pending → IntegratorsBlanked s) ∧
  (s.envelope.edit = .committing ↔ ∃ w rest, s.store = .committing w rest) ∧
  (s.envelope.edit = .committing → s.sequencer.mode = .parked)

/-! ### The zone table (R35, R36, R49) -/

/-- A zone's extent in range, with no payout range reversed (R36). -/
def BoxInRange (b : ZoneBox Nat) : Prop :=
  b.sectorFrom ≤ 3599 ∧ b.sectorTo ≤ 3599 ∧ b.hoistLo ≤ b.hoistHi ∧ b.hoistHi ≤ 30000 ∧ b.dragLo ≤ b.dragHi ∧
  b.dragHi ≤ 30000

/-- A zone with every field its kind requires in range (R36). -/
def ZoneInRange : Zone → Prop
  | .keepOut b m =>
    BoxInRange b ∧ m.swingMargin ≤ 900 ∧ Within 1 1800 m.swingBand ∧ m.ropeMargin ≤ 5000 ∧ Within 1 10000 m.ropeBand
  | .slow b c => BoxInRange b ∧ (∀ n ∈ c.hoist, n ≤ 1000) ∧ (∀ n ∈ c.drag, n ≤ 1000) ∧ (∀ n ∈ c.swing, n ≤ 1000)
  | .warnOnly b => BoxInRange b

/-- A write of a ZONE record carries the unused entry or a zone in range. -/
def RecordWrite.CarriesZoneInRange : RecordWrite → Prop
  | .zone _ entry => ∀ z ∈ entry, ZoneInRange z
  | _ => True

/-- 24 positions in the table, the buffer and the memory (R35, R49, R181); the buffer empty in CLOSED (R49); every
zone in range (R36). -/
def TableLaw (s : State) : Prop :=
  s.envelope.table.length = 24 ∧ s.envelope.buffer.length = 24 ∧ s.memory.zones.length = 24 ∧
  (s.envelope.edit = .closed → ∀ slot ∈ s.envelope.buffer, slot = ⟨none, false⟩) ∧
  (∀ slot ∈ s.envelope.table, ∀ z ∈ slot.entry, ZoneInRange z) ∧
  (∀ slot ∈ s.envelope.buffer, ∀ z ∈ slot.entry, ZoneInRange z) ∧
  (∀ record ∈ s.memory.load.zones, ∀ entry ∈ record, ∀ z ∈ entry, ZoneInRange z) ∧
  ∀ w ∈ s.store.records, w.CarriesZoneInRange

/-! ### Measurements (R5 to R7, R9, R134) -/

/-- Whether `x` lies in lo..hi. -/
def Between (lo hi x : Int) : Prop := lo ≤ x ∧ x ≤ hi

/-- Every measured value is in its channel's range, and what the Walk Tracker forms from them in its own. -/
def MeasuredLaw (s : State) : Prop :=
  (∀ e, Between (encoderLow e) (encoderHigh e) (s.scanner.encoders.get e).scaled ∧
    Between (encoderLow e) (encoderHigh e) (s.scanner.encoders.get e).lastGood) ∧
  (∀ a, Between (analogLow a) (analogHigh a) (s.scanner.analogs.get a).scaled ∧
    Between (analogLow a) (analogHigh a) (s.scanner.analogs.get a).lastGood) ∧
  Between (-999999) 999999 s.walk.leftPosition ∧ Between (-999999) 999999 s.walk.rightPosition ∧
  s.walk.leftAngle < 360 ∧ s.walk.rightAngle < 360 ∧ Between (-9999) 9999 s.walk.skew ∧
  Between (-999999) 999999 s.walk.walkPosition ∧ Between (-2777) 2777 s.walk.steps ∧
  (s.walk.bothInRest = true ↔ s.walk.leftInRest = true ∧ s.walk.rightInRest = true)

/-! ### Brakes (R100) -/

/-- Counts within their fields; the remembered release clear in every state but SETTING. -/
def BrakeLaw (s : State) : Prop :=
  ∀ m, (s.gate.brakes.get m).count ≤ 65535 ∧ (s.gate.brakes.get m).idle ≤ 2400 ∧
    ((s.gate.brakes.get m).remembered = true → (s.gate.brakes.get m).state = .setting)

/-! ### Operator requests (R66, R69 to R73, 04) -/

/-- The hold timer runs exactly in FRESH; a last mark is present exactly outside NEVER; outside FRESH every operator
request is 0; in STALE, OPERATOR-STALE is present; requests lie in −1000..1000. -/
def FreshnessLaw (s : State) : Prop :=
  (s.ports.a.holdTimer = true ↔ s.ports.a.freshness = .fresh) ∧
  (s.ports.a.lastMark.isSome = true ↔ s.ports.a.freshness ≠ .never) ∧
  (s.ports.a.freshness ≠ .fresh → ∀ m, (s.shaper.motions.get m).request = 0) ∧
  (s.ports.a.freshness = .stale → s.ports.a.staleCondition = true) ∧
  (s.ports.a.freshness = .never → s.ports.a.staleCondition = false) ∧
  ∀ m, Between (-1000) 1000 (s.shaper.motions.get m).request

/-! ### Drive reports (R67, R159, R160) -/

/-- The shaper and the Alarm Unit hold the same last report; a group's DRIVE-FAULT condition is present exactly while
that report is FAULT and, for HG and DG, no order is PENDING. -/
def DriveLaw (s : State) : Prop :=
  s.shaper.readiness = s.alarms.driveReport ∧
  ∀ g, s.alarms.driveFault.get g = true ↔
    s.alarms.driveReport.get g = .fault ∧ (g = .sg ∨ s.sequencer.record.order ≠ .pending)

/-! ### Terms of the statements about one command -/

/-- The ports the request catalogue gives a request (10): a request of a kind it knows, on a port of its row. -/
def mayCarry : Port → Request → Bool
  | .a, .readStatus => true
  | .a, .motionRequest _ _ => true
  | .a, .modeRequest _ => true
  | .a, .stopAll => true
  | .a, .ackAlarm _ _ => true
  | .a, .readAlarms _ _ => true
  | .a, .clearOverrun => true
  | .a, .readMeasurements => true
  | .b, .readStatus => true
  | .b, .readReferences => true
  | .b, .transferReport _ _ => true
  | .b, .driveState _ => true
  | .c, .motionRequest _ _ => false
  | .c, .ackAlarm _ _ => false
  | .c, .transferReport _ _ => false
  | .c, .driveState _ => false
  | .c, _ => true
  | _, _ => false

/-- The payload of a request, as the formats chapter lays it out (R188, R189). -/
def payloadOf : Request → List Byte
  | .unknownKind _ => []
  | .badLength _ p => p
  | .readStatus => []
  | .motionRequest mark r => mark :: be16 r.hoist ++ be16 r.drag ++ be16 r.swing ++ be16 r.walk
  | .modeRequest mode => [mode]
  | .stopAll => []
  | .ackAlarm code source => [code, source]
  | .readAlarms start count => [start, count]
  | .clearOverrun => []
  | .readMeasurements => []
  | .readReferences => []
  | .transferReport mark result => [mark, result]
  | .driveState v => [v.hg, v.dg, v.sg]
  | .readSetting group which => [group, which]
  | .writeProfile profile presence f =>
    0 :: profile :: presence :: be16 f.accel ++ be16 f.decel ++ be16 f.ceiling ++ be16 f.creep ++ be16 f.dwell ++
      be16 f.releaseDelay ++ be16 f.idleSet
  | .writeAssociation n => [1, n.hoist, n.drag, n.swing, n.walk]
  | .writeCalibration channel (.encoder offset scale maxStep) =>
    2 :: channel :: be32 offset ++ be32 scale ++ be16 maxStep
  | .writeCalibration channel (.analog offset gain low high) =>
    2 :: channel :: be16 offset ++ be16 gain ++ be16 low ++ be16 high
  | .writeSupplyBands t1 t2 t3 => 3 :: be16 t1 ++ be16 t2 ++ be16 t3
  | .writeBoomBands g h o heavyCap => 4 :: be16 g ++ be16 h ++ be16 o ++ be16 heavyCap
  | .writeCurrentTrip l c =>
    5 :: be16 l.hg ++ [c.hg] ++ be16 l.dg ++ [c.dg] ++ be16 l.sg ++ [c.sg]
  | .writeSharing b =>
    6 :: be16 b.normal ++ be16 b.low ++ be16 b.sag ++ be16 b.weights.hoist ++ be16 b.weights.drag ++
      be16 b.weights.swing ++ be16 b.weights.walk ++ [b.shedLength, b.shed0, b.shed1, b.shed2, b.shed3]
  | .writeWalk restFrom restTo gain trip => 7 :: be16 restFrom ++ be16 restTo ++ [gain, trip]
  | .writeGate confirm => [8, confirm]
  | .writeSequencer timeout => [9, timeout]
  | .zeroChannel channel value => channel :: be32 value
  | .clearMarks => []
  | .readZone table position => [table, position]
  | .editBegin => []
  | .editZone position .unused => [position, 0]
  | .editZone position (.keepOut b m) =>
    position :: 1 :: be16 b.sectorFrom ++ be16 b.sectorTo ++ be16 b.hoistLo ++ be16 b.hoistHi ++ be16 b.dragLo ++
      be16 b.dragHi ++ be16 m.swingMargin ++ be16 m.swingBand ++ be16 m.ropeMargin ++ be16 m.ropeBand
  | .editZone position (.slow b presence c) =>
    position :: 2 :: be16 b.sectorFrom ++ be16 b.sectorTo ++ be16 b.hoistLo ++ be16 b.hoistHi ++ be16 b.dragLo ++
      be16 b.dragHi ++ [presence] ++ be16 c.hoist ++ be16 c.drag ++ be16 c.swing
  | .editZone position (.warnOnly b) =>
    position :: 3 :: be16 b.sectorFrom ++ be16 b.sectorTo ++ be16 b.hoistLo ++ be16 b.hoistHi ++ be16 b.dragLo ++
      be16 b.dragHi
  | .editZone position (.misfit bytes) => position :: bytes
  | .editCommit => []
  | .editDiscard => []
  | .restart => []

/-- The scaled value of an encoder channel before it is clamped (R5, R6, R7). -/
def EncoderScales (e : EncoderId) (cal : EncoderCal) (count : Word) (v : Int) : Prop :=
  let d := (count - cal.offset).toInt
  match e with
  | .hoistPayout => v = Int.tdiv (d * cal.scale) 1000
  | .dragPayout => v = Int.tdiv (d * cal.scale) 1000
  | .swingAngle => v * cal.scale ≤ d % cal.scale * 3600 ∧ d % cal.scale * 3600 < (v + 1) * cal.scale
  | .camLeft => v * cal.scale ≤ d * 360 ∧ d * 360 < (v + 1) * cal.scale
  | .camRight => v * cal.scale ≤ d * 360 ∧ d * 360 < (v + 1) * cal.scale

/-- An encoder channel record before and after a scan completion (R4, R8, R12), with the scaled value `v` before
clamping. -/
def EncoderScanned (e : EncoderId) (v : Int) (before after : EncoderRecord) : Prop :=
  after.count = before.count ∧ after.prev = before.count ∧ after.cal = before.cal ∧
  after.state =
    (if before.cal.maxStep < (before.count - before.prev).toInt.natAbs then .fault else before.state) ∧
  after.scaled = (if v < encoderLow e then encoderLow e else if encoderHigh e < v then encoderHigh e else v) ∧
  after.lastGood = (if after.state = .valid then after.scaled else before.lastGood) ∧
  (after.marks.below = true ↔ before.marks.below = true ∨ after.state = .valid ∧ v < encoderLow e) ∧
  (after.marks.above = true ↔ before.marks.above = true ∨ after.state = .valid ∧ encoderHigh e < v) ∧
  (after.marks.faultSeen = true ↔ before.marks.faultSeen = true ∨ after.state = .fault)

/-- The limit of an analog channel that a converter value fails (R10). -/
def FailsLimit (cal : AnalogCal) (raw : Sample) : AnalogState → Prop
  | .valid => False
  | .faultLow => cal.low ≠ 0 ∧ raw.toNat ≤ cal.low
  | .faultHigh => cal.high ≠ 4095 ∧ cal.high ≤ raw.toNat ∧ ¬(cal.low ≠ 0 ∧ raw.toNat ≤ cal.low)

/-- Whether a converter value passes the plausibility check (R10). -/
def PassesLimits (cal : AnalogCal) (raw : Sample) : Prop :=
  (cal.low = 0 ∨ cal.low < raw.toNat) ∧ (cal.high = 4095 ∨ raw.toNat < cal.high)

/-- An analog channel record before and after a scan completion with conversion `raw` (R9 to R12), with the scaled value
`v` before clamping. -/
def AnalogScanned (a : AnalogId) (raw : Sample) (v : Int) (before after : AnalogRecord) : Prop :=
  after.raw = raw ∧ after.cal = before.cal ∧
  (before.state = .valid → PassesLimits before.cal raw → after.state = .valid ∧ after.goodRun = 0) ∧
  (before.state = .valid → ∀ d, FailsLimit before.cal raw d → after.state = d ∧ after.goodRun = 0) ∧
  (before.state ≠ .valid → ¬PassesLimits before.cal raw → after.state = before.state ∧ after.goodRun = 0) ∧
  (before.state ≠ .valid → PassesLimits before.cal raw → before.goodRun + 1 < 40 →
    after.state = before.state ∧ after.goodRun = before.goodRun + 1) ∧
  (before.state ≠ .valid → PassesLimits before.cal raw → 40 ≤ before.goodRun + 1 →
    after.state = .valid ∧ after.goodRun = 0) ∧
  after.scaled = (if v < analogLow a then analogLow a else if analogHigh a < v then analogHigh a else v) ∧
  after.lastGood = (if after.state = .valid then after.scaled else before.lastGood) ∧
  (after.marks.below = true ↔ before.marks.below = true ∨ after.state = .valid ∧ v < analogLow a) ∧
  (after.marks.above = true ↔ before.marks.above = true ∨ after.state = .valid ∧ analogHigh a < v) ∧
  (after.marks.faultSeen = true ↔ before.marks.faultSeen = true ∨ after.state ≠ .valid)

/-- One scan of a band record (R21 to R23): `seen` is the band its channel's value falls in, none while the channel
is in FAULT. -/
def Debounced {β : Type} [DecidableEq β] (rank : β → Nat) (worse better : Nat) (seen : Option β)
    (before after : BandRecord β) : Prop :=
  match seen with
  | none => after.band = before.band ∧ after.valid = false ∧ after.candidate = none ∧ after.run = 0
  | some c =>
    after.candidate = some c ∧
    (after.run = if before.candidate = some c then min 255 (before.run + 1) else 1) ∧
    (after.valid = true ↔ before.valid = true ∨ worse ≤ after.run) ∧
    (after.band =
      if before.valid = true then
        if (rank before.band < rank c ∧ worse ≤ after.run) ∨ (rank c < rank before.band ∧ better ≤ after.run) then c
        else before.band
      else if worse ≤ after.run then c
      else before.band)

/-- The cap of a caps record for a motion in a direction. -/
def capOf (caps : PerDig DirCaps) (m : DigMotion) : Direction → Nat
  | .positive => (caps.get m).pos
  | .negative => (caps.get m).neg

/-- The cap that a zone gives a motion in a direction: a KEEP-OUT zone that restrains the motion, by its distance, its
margin and its band (R41, R42); a SLOW zone that contains the point, the motion's field where it is present (R43); a
WARN-ONLY zone gives none (R44). -/
def CapGiven (creep : PerDig Nat) (p : Point) (m : DigMotion) (d : Direction) (z : Zone) (cap : Nat) : Prop :=
  match z with
  | .keepOut box x => ∃ δ, approach box p m d = some δ ∧
    cap = (match m with
      | .hoist => approachCap creep.hoist x.ropeMargin x.ropeBand δ
      | .drag => approachCap creep.drag x.ropeMargin x.ropeBand δ
      | .swing => approachCap creep.swing x.swingMargin x.swingBand δ)
  | .slow box caps => inBox box p = true ∧ caps.get m = some cap
  | .warnOnly _ => False

/-- The least of the caps that zones give, 1000 where none gives one (R45). -/
def IsLeastCap (zones : List Zone) (creep : PerDig Nat) (p : Point) (m : DigMotion) (d : Direction) (cap : Nat) :
    Prop :=
  cap ≤ 1000 ∧ (∀ z ∈ zones, ∀ k, CapGiven creep p m d z k → cap ≤ k) ∧
  (cap = 1000 ∨ ∃ z ∈ zones, CapGiven creep p m d z cap)

/-- Whether the zone at a position is of a kind and contains a point (R40). -/
def ContainsAt (kind : Zone → Bool) (t : List TableSlot) (p : Point) (i : Nat) : Prop :=
  ∃ slot z, t[i]? = some slot ∧ slot.entry = some z ∧ kind z = true ∧ inBox (zoneBox z) p = true

/-- A membership: the lowest-numbered position of a kind that contains the point (03). -/
def IsLowest (kind : Zone → Bool) (t : List TableSlot) (p : Point) (member : Option Nat) : Prop :=
  match member with
  | some i => ContainsAt kind t p i ∧ ∀ j < i, ¬ContainsAt kind t p j
  | none => ∀ i, ¬ContainsAt kind t p i

/-- The band a supply sample falls in (R19); none while its channel is in FAULT (R23). -/
def SupplySeen (x : SupplyThresholds) (v : AnalogSample) : Option SupplyBand → Prop
  | none => v.state ≠ .valid
  | some .normal => v.state = .valid ∧ (x.t1 : Int) ≤ v.value
  | some .low => v.state = .valid ∧ v.value < x.t1 ∧ (x.t2 : Int) ≤ v.value
  | some .sag => v.state = .valid ∧ v.value < x.t1 ∧ v.value < x.t2 ∧ (x.t3 : Int) ≤ v.value
  | some .lost => v.state = .valid ∧ v.value < x.t1 ∧ v.value < x.t2 ∧ v.value < x.t3

/-- The band a boom load sample falls in (R20); none while its channel is in FAULT (R23). -/
def BoomSeen (x : BoomSettings) (v : AnalogSample) : Option BoomBand → Prop
  | none => v.state ≠ .valid
  | some .empty => v.state = .valid ∧ v.value ≤ x.g
  | some .normal => v.state = .valid ∧ (x.g : Int) < v.value ∧ v.value < x.h
  | some .heavy => v.state = .valid ∧ (x.g : Int) < v.value ∧ (x.h : Int) ≤ v.value ∧ v.value < x.o
  | some .overload => v.state = .valid ∧ (x.g : Int) < v.value ∧ (x.h : Int) ≤ v.value ∧ (x.o : Int) ≤ v.value

/-- A point moved a distance along a motion's axis in a direction: HOIST and DRAG positive lower their payouts, SWING
positive turns clockwise round the circle (R41). -/
def movedBy (p : Point) (m : DigMotion) (d : Direction) (δ : Int) : Point :=
  match m with
  | .hoist => { p with h := p.h - d.sign * δ }
  | .drag => { p with g := p.g - d.sign * δ }
  | .swing => { p with θ := (p.θ + d.sign * δ) % 3600 }

/-- Whether the position channels are VALID in the snapshot last taken; not before one has been taken (R37). -/
abbrev PositionsKnown (snap : Option Snapshot) : Prop :=
  snap.any (fun x => decide (x.encoders.hoistPayout.state = .valid ∧ x.encoders.dragPayout.state = .valid ∧
    x.encoders.swingAngle.state = .valid)) = true

/-- What the Envelope Unit forms from the snapshot last taken (R37, R38, R45). -/
def EnvelopeFormed (table : List TableSlot) (edit : EditState) (failed : Bool) (creep : PerDig Nat)
    (snap : Option Snapshot) (after : Envelope) : Prop :=
  let known := PositionsKnown snap
  let p : Point := snap.elim ⟨0, 0, 0⟩ fun x =>
    ⟨x.encoders.swingAngle.value, x.encoders.hoistPayout.value, x.encoders.dragPayout.value⟩
  (edit = .committing → after.condition = .committing) ∧
  (edit ≠ .committing → failed = true → after.condition = .invalid) ∧
  (edit ≠ .committing → failed = false → ¬known → after.condition = .blind) ∧
  (edit ≠ .committing → failed = false → known → after.condition = .valid) ∧
  (after.condition = .valid → ∀ m d, IsLeastCap (table.filterMap TableSlot.entry) creep p m d (capOf after.caps m d)) ∧
  (after.condition = .invalid ∨ after.condition = .blind → ∀ m d, capOf after.caps m d = 1000) ∧
  (after.condition = .committing → ∀ m d, capOf after.caps m d = 0) ∧
  (failed = false → known → IsLowest isKeepOut table p after.keepOutMember ∧ IsLowest isWarnOnly table p after.warnMember) ∧
  (failed = true ∨ ¬known → after.keepOutMember = none ∧ after.warnMember = none)

/-- An accepted write (R175, R182): ADJUSTED where a value asked was clamped, and the write of the record begun. -/
def writeBegun (r : Request) (asked written : RecordWrite) (s : State) : Host.Outcome State Fault Refusal :=
  .next (settle (holdAnswer .c r 0x8D (if asked = written then .accepted else .adjusted) []
    { s with store := .writing written }))

/-- The low end of the scale or of the counts per revolution of an encoder channel (R15). -/
def scaleLow : EncoderId → Nat
  | .hoistPayout => 1
  | .dragPayout => 1
  | .swingAngle => 3600
  | .camLeft => 360
  | .camRight => 360

/-- The high end of the scale or of the counts per revolution of an encoder channel (R15). -/
def scaleHigh : EncoderId → Nat
  | .hoistPayout => 5000
  | .dragPayout => 5000
  | .swingAngle => 1000000
  | .camLeft => 100000
  | .camRight => 100000

/-- The record a PROFILE write of a name asks for: none for a COMMON with a field absent (R61). -/
def profileRecord (n : ProfileName) (x : PartialProfile) : Option RecordWrite :=
  match n with
  | .common =>
    match x.accel, x.decel, x.ceiling, x.creep, x.dwell, x.releaseDelay, x.idleSet with
    | some accel, some decel, some ceiling, some creep, some dwell, some releaseDelay, some idleSet =>
      some (.profileCommon ⟨accel, decel, ceiling, creep, dwell, releaseDelay, idleSet⟩)
    | _, _, _, _, _, _, _ => none
  | .a => some (.profileA x)
  | .b => some (.profileB x)

/-- A profile record with every field it holds clamped to its range (R60, R61). -/
def clampRecord : RecordWrite → RecordWrite
  | .profileCommon p =>
    .profileCommon ⟨clampNat 1 200 p.accel, clampNat 1 200 p.decel, clampNat 100 1000 p.ceiling, clampNat 10 200 p.creep,
      min 40 p.dwell, min 80 p.releaseDelay, clampNat 1 2400 p.idleSet⟩
  | .profileA p => .profileA (clampPartial p)
  | .profileB p => .profileB (clampPartial p)
  | w => w
where
  /-- Each field present clamped to its range. -/
  clampPartial (p : PartialProfile) : PartialProfile :=
    ⟨p.accel.map (clampNat 1 200), p.decel.map (clampNat 1 200), p.ceiling.map (clampNat 100 1000),
      p.creep.map (clampNat 10 200), p.dwell.map (min 40), p.releaseDelay.map (min 80), p.idleSet.map (clampNat 1 2400)⟩

/-- The profiles with a profile record's contents in place of the working one. -/
def withRecord (p : Profiles) : RecordWrite → Profiles
  | .profileCommon x => { p with common := x }
  | .profileA x => { p with a := x }
  | .profileB x => { p with b := x }
  | _ => p

/-- The requests whose first check past the port's is that the store be IDLE (R182). -/
def asksForStore : Request → Bool
  | .writeAssociation _ => true
  | .writeSupplyBands _ _ _ => true
  | .writeBoomBands _ _ _ _ => true
  | .writeCurrentTrip _ _ => true
  | .writeSharing _ => true
  | .writeWalk _ _ _ _ => true
  | .writeGate _ => true
  | .writeSequencer _ => true
  | _ => false

/-- The requests that ask first for PARKED and then for an IDLE store: a CALIBRATION write of the channel's shape, a
ZERO-CHANNEL of an encoder channel, the commit of an open edit, and RESTART (R14, R15, R53, R176). -/
def asksForStoreParked (s : State) : Request → Bool
  | .writeCalibration channel (.encoder _ _ _) => decide (channel.toNat ≤ 4)
  | .writeCalibration channel (.analog _ _ _ _) => decide (5 ≤ channel.toNat ∧ channel.toNat ≤ 9)
  | .zeroChannel channel _ => decide (channel.toNat ≤ 4)
  | .editCommit => s.envelope.edit == .open
  | .restart => true
  | _ => false

/-- The effective values under an association (R60): COMMON's, or each field of A or B itself where it is present and
COMMON's where it is absent. -/
def EffectiveValues (p : Profiles) (n : ProfileName) (v : Profile) : Prop :=
  let field (own : Option Nat) (common effective : Nat) : Prop :=
    (∀ k, own = some k → effective = k) ∧ (own = none → effective = common)
  let overCommon (x : PartialProfile) : Prop :=
    field x.accel p.common.accel v.accel ∧ field x.decel p.common.decel v.decel ∧
    field x.ceiling p.common.ceiling v.ceiling ∧ field x.creep p.common.creep v.creep ∧
    field x.dwell p.common.dwell v.dwell ∧ field x.releaseDelay p.common.releaseDelay v.releaseDelay ∧
    field x.idleSet p.common.idleSet v.idleSet
  match n with
  | .common => v = p.common
  | .a => overCommon p.a
  | .b => overCommon p.b

/-- The effective ceiling under an association (R60). -/
def ceilingUnder (p : Profiles) : ProfileName → Nat
  | .common => p.common.ceiling
  | .a => p.a.ceiling.getD p.common.ceiling
  | .b => p.b.ceiling.getD p.common.ceiling

/-- A ceiling is lowered where the working profiles are replaced (R62): of some motion, under its association in force
or its pending one, the effective ceiling would fall. -/
def LowersCeiling (x : Shaper) (new : Profiles) : Prop :=
  ∃ m n, ((x.motions.get m).association = n ∨ (x.motions.get m).pendingAssociation = some n) ∧
    ceilingUnder new n < ceilingUnder x.profiles n

/-- The effective request of a motion (R82, R83): outside STOPPING its operator request where it may run and the station
is FRESH; in STOPPING from WALK toward DIG, for a WALK that may run with a cam out of rest, its creep in its last nonzero
direction; 0 otherwise. A motion may run in service, with its permit set and its hold flag clear. -/
def RequestFormed (s : State) (m : Motion) (r : Int) : Prop :=
  let q := s.shaper.motions.get m
  let mayRun := MayServe s m ∧ q.permit = true ∧ s.alarms.hold.get m = false
  let fresh := s.ports.a.freshness = .fresh
  ((∀ source d, s.sequencer.mode ≠ .stopping source d) →
    (mayRun → fresh → r = q.request) ∧ (¬(mayRun ∧ fresh) → r = 0)) ∧
  ∀ source d, s.sequencer.mode = .stopping source d →
    let finishing := source = .walk ∧ d = .dig ∧ m = .walk ∧ mayRun ∧ s.walk.bothInRest = false
    (∀ x, finishing → q.lastDirection = some x → r = x.sign * (motionProfile s.shaper .walk).creep) ∧
    (¬finishing ∨ q.lastDirection = none → r = 0)

/-- What stages 3 to 5 form of the previous output `o`, the target `t` of stage 2, reversal-pending and the dwell count
(R86 to R89). R86's table gives the target and reversal-pending. The ramp of R88 runs from `o` toward that target; where
it brings the motion to 0 with a reversal pending, the dwell is loaded and the reversal ends (R87), whatever the brake.
The output is the ramp's with the brake RELEASED and 0 otherwise (R89). -/
def StagesFormed (p : Profile) (o t : Int) (pending : Bool) (dwell : Nat) (brake : BrakeState) (f : Formed) : Prop :=
  let ramp : Int :=
    if f.target = 0 ∨ o.sign = f.target.sign ∧ f.target.natAbs < o.natAbs then
      o.sign * (max f.target.natAbs (o.natAbs - p.decel) : Nat)
    else f.target.sign * (min f.target.natAbs (o.natAbs + p.accel) : Nat)
  let turns : Prop := f.target = 0 ∧ (ramp ≠ 0 → f.reversalPending = true ∧ f.dwell = dwell) ∧
    (ramp = 0 → f.reversalPending = false ∧ f.dwell = p.dwell)
  (o ≠ 0 → t ≠ 0 → o.sign ≠ t.sign → turns) ∧
  (o ≠ 0 → t ≠ 0 → o.sign = t.sign → f.target = t ∧ f.reversalPending = false ∧ f.dwell = dwell) ∧
  (o ≠ 0 → t = 0 → pending = true → turns) ∧
  (o ≠ 0 → t = 0 → pending = false → f.target = 0 ∧ f.reversalPending = false ∧ f.dwell = dwell) ∧
  (o = 0 → 0 < dwell → f.target = 0 ∧ f.reversalPending = pending ∧ f.dwell + 1 = dwell) ∧
  (o = 0 → dwell = 0 → f.target = t ∧ f.reversalPending = false ∧ f.dwell = 0) ∧
  f.output = if brake = .released then ramp else 0

/-- A target that the rules of stages 1 and 2 allow a motion in the state its period finds (R82 to R85): 0, or one of a
motion in service with its permit set and its hold flag clear, within its effective ceiling, its envelope cap, its boom
cap and, limited, its creep; outside STOPPING toward the operator's fresh request and no further, in STOPPING only the
walk finished toward DIG, at creep in its last direction with a cam out of rest. -/
def TargetAllowed (s : State) (m : Motion) (t : Int) : Prop :=
  t = 0 ∨
  (MayServe s m ∧ (s.shaper.motions.get m).permit = true ∧ s.alarms.hold.get m = false ∧
    t.natAbs ≤ (motionProfile s.shaper m).ceiling ∧
    (s.alarms.limit.get m = true → t.natAbs ≤ (motionProfile s.shaper m).creep) ∧
    (∀ x d, DigMotion.motion x = m → directionOf t = some d → t.natAbs ≤ capOf s.envelope.caps x d) ∧
    (m = .hoist ∨ m = .drag → 0 < t →
      (effectiveBoom s.bands = .heavy → t.natAbs ≤ s.bands.boomSettings.heavyCap) ∧
      effectiveBoom s.bands ≠ .overload) ∧
    ((s.sequencer.mode = .dig ∨ s.sequencer.mode = .walk) ∧ s.ports.a.freshness = .fresh ∧
        t.sign = (s.shaper.motions.get m).request.sign ∧ t.natAbs ≤ (s.shaper.motions.get m).request.natAbs ∨
      s.sequencer.mode = .stopping .walk .dig ∧ m = .walk ∧ s.walk.bothInRest = false ∧
        t.natAbs ≤ (motionProfile s.shaper m).creep ∧ directionOf t = (s.shaper.motions.get m).lastDirection))

/-- A term of a motion's cap for an effective request `r` (R84): its ceiling; for a dig motion and a request not 0, the
envelope cap of its direction; for HOIST and DRAG asked in the positive direction, the boom cap; under a LIMIT flag, its
creep. -/
def CapTerm (s : State) (m : Motion) (r : Int) (k : Nat) : Prop :=
  k = (motionProfile s.shaper m).ceiling ∨
  (∃ x d, DigMotion.motion x = m ∧ directionOf r = some d ∧ k = capOf s.envelope.caps x d) ∨
  ((m = .hoist ∨ m = .drag) ∧ 0 < r ∧
    k = (match effectiveBoom s.bands with
      | .overload => 0
      | .heavy => s.bands.boomSettings.heavyCap
      | .normal => 1000
      | .empty => 1000)) ∨
  (s.alarms.limit.get m = true ∧ k = (motionProfile s.shaper m).creep)

/-- The cap of a motion: the least of its terms (R84). -/
def IsMotionCap (s : State) (m : Motion) (r : Int) (c : Nat) : Prop :=
  CapTerm s m r c ∧ ∀ k, CapTerm s m r k → c ≤ k

/-- The weighted demand of four outputs: the sum of floor(W × |o| / 1000), each term floored on its own (R90). -/
def demandOf (w : PerMotion Nat) (o : PerMotion Int) : Nat :=
  ((Motion.all.map fun m => w.get m * (o.get m).natAbs / 1000)).sum

/-- The shedding of R92 from outputs and marks along a shed order: each motion in its turn, taken where its weight is
above 0 and the demand as last formed above the budget, is cut by the ceiling of excess × 1000 / weight, though not
below its floor, and marked. -/
def Sheds (w : PerMotion Nat) (b : Nat) (decel : PerMotion Nat) (prev : PerMotion Int) :
    List Motion → PerMotion Int → PerMotion Bool → Shared → Prop
  | [], o, marks, r => r = ⟨o, marks⟩
  | m :: rest, o, marks, r =>
    if 0 < w.get m ∧ b < demandOf w o then
      let excess := demandOf w o - b
      let floor := min (o.get m).natAbs ((prev.get m).natAbs - decel.get m)
      ∃ n, excess * 1000 ≤ w.get m * n ∧ w.get m * n < excess * 1000 + w.get m ∧
        Sheds w b decel prev rest
          (o.set m ((o.get m).sign * (max floor ((o.get m).natAbs - n) : Nat))) (marks.set m true) r
    else Sheds w b decel prev rest o marks r

/-- The overdraw count and condition after a period that is or is not an overdraw period (R94). -/
def OverdrawCounted (exceeds before : Bool) (countBefore : Nat) (after : Bool) (countAfter : Nat) : Prop :=
  (exceeds = before → after = before ∧ countAfter = 0) ∧
  (exceeds ≠ before → countBefore + 1 < 40 → after = before ∧ countAfter = countBefore + 1) ∧
  (exceeds ≠ before → 40 ≤ countBefore + 1 → after = exceeds ∧ countAfter = 0)

/-- A brake before and after a period end notification (R102 to R106, R109): `target`, `output` and `release` are what
the notification carries, `named` whether the stop-and-set order names the motion, and `failed` whether a failure is
found. -/
structure BrakeNotified (target output : Int) (release named : Bool) (delay idleSet confirm : Nat)
    (before after : BrakeRecord) (failed : Bool) : Prop where
  feedback : after.feedback = before.feedback ∧ after.filtering = before.filtering
  /-- The fail condition: set by a failure, cleared where the brake is found SET with its feedback not released. -/
  fail : after.fail = true ↔ (before.fail = true ∨ failed = true) ∧
    (before.state = .releasing ∨ before.state = .released ∨ before.feedback = true ∨
      before.state = .setting ∧ (before.remembered = true ∨ release = true) ∧ target ≠ 0)
  failedWhen : failed = true ↔ before.fail = false ∧
    (before.state = .releasing ∧ delay + confirm ≤ min 65535 (before.count + 1) ∧ before.feedback = false ∨
      before.state = .setting ∧ confirm ≤ min 65535 (before.count + 1) ∧ before.feedback = true)
  set : before.state = .set → after.state = (if release = true then .releasing else .set) ∧
    (release = true → after.count = 0 ∧ after.remembered = false)
  releasing : before.state = .releasing →
    let n := min 65535 (before.count + 1)
    (delay ≤ n → before.feedback = true → after.state = .released ∧ after.idle = 0) ∧
    (delay + confirm ≤ n → before.feedback = false → after.state = .setting ∧ after.count = 0) ∧
    (¬(delay ≤ n ∧ before.feedback = true) → ¬(delay + confirm ≤ n ∧ before.feedback = false) →
      if named = true ∧ target = 0 ∧ output = 0 then after.state = .setting ∧ after.count = 0
      else after.state = .releasing ∧ after.count = n)
  released : before.state = .released →
    let i := if target = 0 ∧ output = 0 then min 2400 (before.idle + 1) else 0
    if idleSet ≤ i ∨ named = true ∧ target = 0 ∧ output = 0 then after.state = .setting ∧ after.count = 0
    else after.state = .released ∧ after.idle = i
  setting : before.state = .setting →
    (before.feedback = true → after.state = .setting ∧ after.count = min 65535 (before.count + 1) ∧
      (after.remembered = true ↔ before.remembered = true ∨ release = true)) ∧
    (before.feedback = false → after.remembered = false ∧
      if (before.remembered = true ∨ release = true) ∧ target ≠ 0 then after.state = .releasing ∧ after.count = 0
      else after.state = .set)

/-- The side references of a WALK output under a skew and a trim gain (R140). -/
def SidesFormed (skew : Int) (gain : Nat) (ow left right : Int) : Prop :=
  let lead := skew * ow.sign
  let trimmed := ow.sign * (ow.natAbs - min ow.natAbs (lead.natAbs * gain) : Nat)
  (ow = 0 → left = 0 ∧ right = 0) ∧ (0 < lead → left = trimmed ∧ right = ow) ∧
  (lead < 0 → left = ow ∧ right = trimmed) ∧ (lead = 0 → left = ow ∧ right = ow)

/-- The arrangement record after an order of a kind is issued (R125). -/
def issuedRecord (s : State) (kind : Working) : ArrangementRecord :=
  { s.sequencer.record with
    kind := some kind, mark := !s.sequencer.record.mark, order := .pending, endedBy := none,
    issueTime := s.alarms.seconds, timer := some s.sequencer.timeout }

/-- A transfer order ended FAILED (R128, R129): UNCERTAIN, the timer stopped, the transfer-failed mark set, PARKED with
the queue empty, TRANSFER-FAIL active and, where it was not active before, every motion tripped; Port B's attention line
off. -/
def OrderFailedBy (ended : EndedBy) (s t : State) : Prop :=
  t.sequencer = { s.sequencer with
    mode := .parked, queue := [], walkPermit := false
    record := { s.sequencer.record with
      arrangement := .uncertain, order := .failed, endedBy := some ended, failedMark := true, timer := none } } ∧
  (∃ e ∈ t.alarms.list, e.code = .transferFail ∧ e.source = .sequencer ∧ e.state ≠ .clearedUnack) ∧
  ((∀ e ∈ s.alarms.list, e.code = .transferFail → e.state = .clearedUnack) →
    ∀ m, (t.shaper.motions.get m).permit = false ∧ (t.shaper.motions.get m).output = 0 ∧
      ¬Lifted (t.gate.brakes.get m)) ∧
  t.lines.attention.b = false

/-- Whether a cam angle is in the rest sector, clockwise from from to to, both ends included (R138). -/
def InRest (w : WalkSettings) (angle : Nat) : Prop :=
  ((angle : Int) - w.restFrom) % 360 ≤ ((w.restTo : Int) - w.restFrom) % 360

/-- A motion stopped at once (R74, R96): permit clear, output, target and dwell 0, reversal-pending clear; the rest
of its record as it was. -/
def StoppedAtOnce (before after : MotionRecord) : Prop :=
  after.permit = false ∧ after.output = 0 ∧ after.target = 0 ∧ after.dwell = 0 ∧ after.reversalPending = false ∧
  after.request = before.request ∧ after.association = before.association ∧
  after.pendingAssociation = before.pendingAssociation ∧ after.prevOutput = before.prevOutput ∧
  after.lastDirection = before.lastDirection ∧ after.shed = before.shed

/-- A brake after a drop order (R108). -/
def Dropped (before after : BrakeRecord) : Prop :=
  match before.state with
  | .set => after = before
  | .releasing => after = { before with state := .setting, count := 0 }
  | .released => after = { before with state := .setting, count := 0 }
  | .setting => after = { before with remembered := false }

/-- The mode an all-motion trip leaves (R130). -/
def TrippedTo (before after : Mode) : Prop :=
  match before with
  | .parked => after = .parked
  | .dig => after = .stopping .dig .parked
  | .walk => after = .stopping .walk .parked
  | .stopping source _ => after = .stopping source .parked
  | .transferring _ => after = .transferring .parked

/-! ### Reports to the Alarm Unit -/

/-- A report to the Alarm Unit: a held condition raised, a momentary one raised, or a condition gone (R149 to R151). -/
inductive Report where
  | raise (c : AlarmCode) (src : Source) (d : Option Detail)
  | momentary (c : AlarmCode) (src : Source) (d : Option Detail)
  | gone (c : AlarmCode) (src : Source)
  deriving DecidableEq, Repr

/-- The state once the Alarm Unit has taken a report. -/
def Report.take : Report → State → State
  | .raise c src d => reportRaise c src d
  | .momentary c src d => reportMomentary c src d
  | .gone c src => reportGone c src

/-- The state once the Alarm Unit has taken reports one after another. -/
def takeReports (reports : List Report) (s : State) : State := reports.foldl (fun t r => r.take t) s

/-- The Alarm Unit once it has taken reports one after another. -/
def alarmsAfter (reports : List Report) (s : State) : Alarms := (takeReports reports s).alarms

/-- Whether a report is of a TRIP entry that affects a motion under an arrangement (R155). -/
def Report.MayTrip (arr : Arrangement) (m : Motion) : Report → Prop
  | .raise c src _ => alarmClass c src = .trip ∧ (affectedMotions arr c src).get m = true
  | .momentary c src _ => alarmClass c src = .trip ∧ (affectedMotions arr c src).get m = true
  | .gone _ _ => False

/-- A condition without detail, as `changeReports` takes it. -/
def bare (present : Bool) : Option (Option Detail) := if present = true then some none else none

/-- The reports of a condition of which the outside was last told `before` and which is now `now`, each a detail where
the condition is present: a raise where it appears or its detail changes, a gone where it ends (R46 to R48, R139). -/
def changeReports (c : AlarmCode) (src : Source) (before now : Option (Option Detail)) : List Report :=
  match now with
  | some d => if before = some d then [] else [.raise c src d]
  | none => if before = none then [] else [.gone c src]

/-- The reports of a channel at a scan completion (R13): a raise where its fault condition has appeared or changed,
and of every fault condition at the first scan completion after a reset; a gone where it has ended. -/
def channelReports (first : Bool) (src : Source) (before now : Option Detail) : List Report :=
  match now with
  | some d => if first = true ∨ before ≠ some d then [.raise .channelFault src (some d)] else []
  | none => if before = none then [] else [.gone .channelFault src]

/-- The fault condition of an encoder channel, by its detail (R13). -/
def encoderCondition (x : Scanner) (e : EncoderId) : Option Detail :=
  match (x.encoders.get e).state with
  | .valid => none
  | .notReferenced => some .notReferenced
  | .fault => some .step

/-- The fault condition of an analog channel, by its detail (R13). -/
def analogCondition (x : Scanner) (a : AnalogId) : Option Detail :=
  match (x.analogs.get a).state with
  | .valid => none
  | .faultLow => some .lowLimit
  | .faultHigh => some .highLimit

/-- The reports of a band record's source (R26): the condition of the old effective band gone and that of the new one
raised, where they differ. -/
def bandReports (src : Source) (before now : Option AlarmCode) : List Report :=
  if before = now then []
  else (before.toList.map fun c => .gone c src) ++ now.toList.map fun c => .raise c src none

/-- The condition of the effective supply band (R26). -/
def supplyCondition (b : Bands) : Option AlarmCode :=
  match effectiveSupply b with
  | .normal => none
  | .low => some .supplyLow
  | .sag => some .supplySag
  | .lost => some .supplyLost

/-- The condition of the effective boom band (R26). -/
def boomCondition (b : Bands) : Option AlarmCode :=
  match effectiveBoom b with
  | .overload => some .boomOverload
  | .heavy => none
  | .normal => none
  | .empty => none

/-- Whether a group's current integrator trips at a scan completion with this snapshot (R29 to R31). -/
def IntegratorTrips (s : State) (snap : Snapshot) (g : Group) : Prop :=
  let x := snap.analogs.get (currentChannel g)
  x.state = .valid ∧ (g = .sg ∨ s.sequencer.record.order ≠ .pending) ∧
  s.bands.trip.counts.get g ≤
    if s.bands.trip.levels.get g < x.value.natAbs then s.bands.integrators.get g + 1 else s.bands.integrators.get g - 1

/-- The reports of the Envelope Unit's three conditions from those last told to those the snapshot last taken gives
(R46 to R48). -/
def envelopeReports (before after : Envelope) (snap : Option Snapshot) : List Report :=
  let detail (d : InvalidDetail) : Option Detail := some (invalidDetailOf d)
  let zone (n : Nat) : Option Detail := some (.zone n)
  let known := PositionsKnown snap
  changeReports .envelopeInvalid .envelope (before.reported.invalid.map detail)
      (if after.tableFailed = true then some (some .table) else if known then none else some (some .position)) ++
    changeReports .intrusion .envelope (before.reported.intrusion.map zone) (after.keepOutMember.map zone) ++
    changeReports .zoneWarn .envelope (before.reported.zoneWarn.map zone) (after.warnMember.map zone)

/-- What the Envelope Unit last told of its three conditions is what stands: ENVELOPE-INVALID by the table and the
snapshot, and the memberships (R46 to R48). That it is kept is the model's bookkeeping (log entry 14). -/
def EnvelopeTold (e : Envelope) (snap : Option Snapshot) : Prop :=
  e.reported =
    { invalid := if e.tableFailed = true then some .table else if PositionsKnown snap then none else some .position
      intrusion := e.keepOutMember, zoneWarn := e.warnMember }

/-- The reports of a scan completion that takes `s` to `t` with a snapshot and the trips of the integrators, each of a
condition as `t` has it against what was last told (R13, R26, R30, R46 to R48, R139). The order is log entry 9. -/
def scanReports (s t : State) (snap : Snapshot) (trips : Group → Bool) : List Report :=
  let first (due : Bool) (was : Option AlarmCode) : Option AlarmCode := if due = true then none else was
  let overcurrent (g : Group) : List Report := if trips g = true then [.momentary .overcurrent (.group g) none] else []
  (EncoderId.all.flatMap fun e => channelReports s.scanner.reportDue (.encoder e) (encoderCondition s.scanner e)
      (encoderCondition t.scanner e)) ++
    (AnalogId.all.flatMap fun a => channelReports s.scanner.reportDue (.analog a) (analogCondition s.scanner a)
      (analogCondition t.scanner a)) ++
    envelopeReports s.envelope t.envelope (some snap) ++
    bandReports .supply (first s.bands.reportDue (supplyCondition s.bands)) (supplyCondition t.bands) ++
    bandReports .boom (first s.bands.reportDue (boomCondition s.bands)) (boomCondition t.bands) ++
    overcurrent .hg ++ overcurrent .dg ++ overcurrent .sg ++
    changeReports .skew (.motion .walk) (bare (s.walk.skewCondition && !s.walk.reportDue)) (bare t.walk.skewCondition)

/-- The reports of the DRIVE-FAULT conditions that have changed (R159, R160). The order is log entry 9. -/
def driveFaultReports (before after : PerGroup Bool) : List Report :=
  [Group.hg, .dg, .sg].flatMap fun g =>
    changeReports .driveFault (.group g) (bare (before.get g)) (bare (after.get g))

/-- Whether a motion leaves service with its output not 0 where the groups take a readiness (R68). -/
def LosesService (s : State) (r : PerGroup Readiness) (m : Motion) : Prop :=
  (s.shaper.motions.get m).output ≠ 0 ∧ MayServe s m ∧ ¬MayServe { s with shaper := { s.shaper with readiness := r } } m

/-- What a drive report forms before its reports (R67, R68, R108, R159): the readiness and the drive report taken;
each motion that leaves service with its output not 0 zeroed and its brake dropped, with the references published
again and, for WALK, the side references 0 (R96, R141; log entry 13); the DRIVE-FAULT conditions of the report; all
else as it was. -/
structure ReadinessFormed (s base : State) (r : PerGroup Readiness) : Prop where
  lost : ∀ m, LosesService s r m →
    base.shaper.motions.get m =
      { s.shaper.motions.get m with output := 0, target := 0, dwell := 0, reversalPending := false } ∧
    Dropped (s.gate.brakes.get m) (base.gate.brakes.get m)
  kept : ∀ m, ¬LosesService s r m →
    base.shaper.motions.get m = s.shaper.motions.get m ∧ base.gate.brakes.get m = s.gate.brakes.get m
  republished : ((∃ m, LosesService s r m) →
      ∀ m, base.shaper.references.outputs.get m = (base.shaper.motions.get m).output) ∧
    ((∀ m, ¬LosesService s r m) → base.shaper.references.outputs = s.shaper.references.outputs)
  sides : (LosesService s r .walk → base.walk.walkLeft = 0 ∧ base.walk.walkRight = 0) ∧
    (¬LosesService s r .walk → base.walk.walkLeft = s.walk.walkLeft ∧ base.walk.walkRight = s.walk.walkRight)
  fault : ∀ g, base.alarms.driveFault.get g = true ↔
    r.get g = .fault ∧ (g = .sg ∨ s.sequencer.record.order ≠ .pending)
  rest : base = { s with
    shaper := { s.shaper with
      readiness := r, motions := base.shaper.motions
      references := { s.shaper.references with outputs := base.shaper.references.outputs } }
    gate := { s.gate with brakes := base.gate.brakes }
    walk := { s.walk with walkLeft := base.walk.walkLeft, walkRight := base.walk.walkRight }
    alarms := { s.alarms with driveReport := r, driveFault := base.alarms.driveFault } }

/-- Whether a motion is tripped by the DRIVE-FAULT conditions that appear between two states (R149, R155, R159): of a
group that feeds it the condition appears, and its entry is appended or re-raised, none of it being active. -/
def DriveFaultTrips (s base : State) (m : Motion) : Prop :=
  ∃ g, base.alarms.driveFault.get g = true ∧ s.alarms.driveFault.get g = false ∧
    (fedBy g s.sequencer.record.arrangement).get m = true ∧
    ∀ e ∈ s.alarms.list, e.code = .driveFault → e.source = .group g → e.state = .clearedUnack

/-! ### A period expiry before the sequencer (R80, R95, R102) -/

/-- A brake after its period end notification (R102 to R107, R109): the target and output of the period, the release
request where the target is not 0 and the brake SET or SETTING, the times of the association in force at the expiry, and
the stop-and-set order; `failed` is whether a failure is found. -/
def BrakeNoticed (s : State) (m : Motion) (after : BrakeRecord) (failed : Bool) : Prop :=
  let target := (formMotion s m).target
  let before := s.gate.brakes.get m
  ∃ named : Bool,
    (named = true ↔
      ∃ d, s.sequencer.mode = .stopping .dig d ∧ m ≠ .walk ∨ s.sequencer.mode = .stopping .walk d ∧ m = .walk) ∧
    BrakeNotified target ((sharePeriod s (PerMotion.of (formMotion s))).outputs.get m)
      (decide (target ≠ 0 ∧ (before.state = .set ∨ before.state = .setting)))
      named (motionProfile s.shaper m).releaseDelay (motionProfile s.shaper m).idleSet s.gate.confirm before after failed

/-- Whether a brake's notification has BRAKE-FAIL reported raised (R107): a failure found, or a fail condition that
stands at the first notification after a reset or RESTART (R112, R113). -/
def BrakeFailRaised (s : State) (after : BrakeRecord) (failed : Bool) : Prop :=
  failed = true ∨ s.gate.reportDue ≠ .none ∧ after.fail = true

/-- Whether BRAKE-FAIL of a motion is raised and its entry thereby appended or re-raised (R149). -/
def BrakeFailEntered (s : State) (m : Motion) (after : BrakeRecord) (failed : Bool) : Prop :=
  BrakeFailRaised s after failed ∧
  ∀ e ∈ s.alarms.list, e.code = .brakeFail → e.source = .motion m → e.state = .clearedUnack

/-- What the shaper's stages, the tracker and the gate form at a period expiry, apart from the reports: each motion's
record (R65, R79, R95), each brake, the overdraw count (R94), the side references (R140) and the references record; all
else as it was. -/
structure PeriodFormed (s base : State) (failed : Motion → Bool) : Prop where
  motion : ∀ m, base.shaper.motions.get m =
    let r := s.shaper.motions.get m
    let f := formMotion s m
    let shared := sharePeriod s (PerMotion.of (formMotion s))
    let out := shared.outputs.get m
    { r with
      output := out, prevOutput := r.output, target := f.target, reversalPending := f.reversalPending, dwell := f.dwell
      lastDirection := if out = 0 then r.lastDirection else if 0 < out then some .positive else some .negative
      shed := shared.marks.get m
      association := if out = 0 then r.pendingAssociation.getD r.association else r.association
      pendingAssociation := if out = 0 then none else r.pendingAssociation }
  brake : ∀ m, BrakeNoticed s m (base.gate.brakes.get m) (failed m)
  overdraw : OverdrawCounted
    (decide (budget s.bands < demandOf s.shaper.weights (sharePeriod s (PerMotion.of (formMotion s))).outputs))
    s.shaper.overdraw s.shaper.overdrawCount base.shaper.overdraw base.shaper.overdrawCount
  sides : SidesFormed s.walk.skew s.walk.settings.gain (sharePeriod s (PerMotion.of (formMotion s))).outputs.walk
    base.walk.walkLeft base.walk.walkRight
  rest : base = { s with
    shaper := { s.shaper with
      motions := base.shaper.motions, period := s.shaper.period + 1
      overdraw := base.shaper.overdraw, overdrawCount := base.shaper.overdrawCount
      references := ⟨s.shaper.period + 1, (sharePeriod s (PerMotion.of (formMotion s))).outputs,
        (sharePeriod s (PerMotion.of (formMotion s))).marks⟩ }
    walk := { s.walk with walkLeft := base.walk.walkLeft, walkRight := base.walk.walkRight }
    gate := { s.gate with brakes := base.gate.brakes, reportDue := .none } }

/-- The reports of a period expiry (R94, R107, R112, R113): OVERDRAW where its condition has changed, then of each motion
BRAKE-FAIL raised and gone. The order of the motions is log entry 9. -/
def periodReports (s base : State) (failed : Motion → Bool) : List Report :=
  changeReports .overdraw .supply (bare s.shaper.overdraw) (bare base.shaper.overdraw) ++
    Motion.all.flatMap fun m =>
      (if failed m = true ∨ s.gate.reportDue ≠ .none ∧ (base.gate.brakes.get m).fail = true then
        [.raise .brakeFail (.motion m) none] else []) ++
      (if (s.gate.brakes.get m).fail = true ∧ (base.gate.brakes.get m).fail = false then
        [.gone .brakeFail (.motion m)] else [])

/-! ### Transfer orders in the alarm list (R156, R160) -/

/-- An entry once the arrangement has become another (R156): an active CHANNEL-FAULT of HG-CURRENT or DG-CURRENT affects
the motions its group now feeds, with changed-at set where they differ; every other entry stands. -/
def refed (arr : Arrangement) (seconds : Nat) (e : AlarmEntry) : AlarmEntry :=
  let fed (g : Group) : AlarmEntry :=
    if e.code = .channelFault ∧ e.state ≠ .clearedUnack ∧ e.affected ≠ fedBy g arr then
      { e with affected := fedBy g arr, changedAt := seconds }
    else e
  match e.source with
  | .analog .hgCurrent => fed .hg
  | .analog .dgCurrent => fed .dg
  | _ => e

/-- An order's end before its reports: the sequencer's new record, mode and queue, the entries of the list formed again
under the new arrangement (R156), and the DRIVE-FAULT conditions those of the last reports, no longer blanked (R160). -/
def orderEnded (record : ArrangementRecord) (mode : Mode) (queue : List QueueEntry) (s : State) : State :=
  let l := s.alarms.list.map (refed record.arrangement s.alarms.seconds)
  { s with
    sequencer := { s.sequencer with record := record, mode := mode, queue := queue }
    alarms := { s.alarms.withList l with driveFault := s.alarms.driveReport.map fun _ x => decide (x = .fault) }
    ports := { s.ports with
      a := { s.ports.a with listChanged := s.ports.a.listChanged || decide (l ≠ s.alarms.list) }
      c := { s.ports.c with listChanged := s.ports.c.listChanged || decide (l ≠ s.alarms.list) } } }

/-- An order ended DONE, before the queue is served (R127): the arrangement its kind asks for, the mode its destination,
TRANSFER-FAIL reported gone where the mark was set, and DRIVE-FAULT as R160 forms it. -/
def OrderDone (kind : Working) (d : Settled) (s t : State) : Prop :=
  let ended := orderEnded
    { s.sequencer.record with
      arrangement := kind.arrangement, order := .done, endedBy := some .report, failedMark := false, timer := none }
    d.mode s.sequencer.queue s
  t = takeReports
    ((if s.sequencer.record.failedMark = true then [.gone .transferFail .sequencer] else []) ++
      driveFaultReports s.alarms.driveFault ended.alarms.driveFault) ended

/-- An order ended FAILED, by a report or its timeout (R128, R129): UNCERTAIN, PARKED with the queue empty, TRANSFER-FAIL
reported raised, and DRIVE-FAULT as R160 forms it. -/
def OrderFailed (by' : EndedBy) (s t : State) : Prop :=
  let ended := orderEnded
    { s.sequencer.record with
      arrangement := .uncertain, order := .failed, endedBy := some by', failedMark := true, timer := none } .parked [] s
  t = takeReports
    (.raise .transferFail .sequencer none :: driveFaultReports s.alarms.driveFault ended.alarms.driveFault) ended

/-! ### The queue of mode requests (R119, R121) -/

/-- A transfer order of a kind issued toward its mode (R125), with the integrators of HG and DG at 0 (R31) and their
DRIVE-FAULT ended and reported gone from it where it was present (R160). -/
def OrderIssued (kind : Working) (s t : State) : Prop :=
  let blanked : PerGroup Bool := ⟨false, false, decide (s.alarms.driveReport.sg = .fault)⟩
  t.sequencer = { s.sequencer with mode := .transferring kind.settled, record := issuedRecord s kind } ∧
  t = takeReports (driveFaultReports s.alarms.driveFault blanked)
    { s with
      sequencer := t.sequencer, alarms := { s.alarms with driveFault := blanked }
      bands := { s.bands with integrators := ⟨0, 0, s.bands.integrators.sg⟩ } }

/-- The Band Monitor where all that happens to it is the issue of an order (R31, R125): it stands with the arrangement
record, or an order is PENDING and the integrators of HG and DG are 0. -/
def OrderBlanks (s t : State) : Prop :=
  (t.sequencer.record = s.sequencer.record ∧ t.bands = s.bands) ∨
  (t.sequencer.record.order = .pending ∧
    t.bands = { s.bands with integrators := ⟨0, 0, s.bands.integrators.sg⟩ })

/-- What the sequencer makes of a completed stop, by its destination (R124): PARKED; or the order toward it issued, or
the mode it came from with SEQUENCE-REFUSED. A destination equal to the source ends alike (log entry 16). -/
def StopEnded (destination : Settled) (s t : State) : Prop :=
  let moved (mode : Mode) : State := { s with sequencer := { s.sequencer with mode := mode } }
  let refused (back : Mode) (d : Detail) : Prop := t = reportMomentary .sequenceRefused .sequencer (some d) (moved back)
  match destination with
  | .parked => t = moved .parked
  | .walk => (MayWalk s → OrderIssued .walk s t) ∧ (¬MayWalk s → refused .dig .walk)
  | .dig =>
    (s.walk.bothInRest = true → OrderIssued .dig s t) ∧ (s.walk.bothInRest = false → refused .walk .notAtRest)

/-- What the sequencer makes of an entry it takes, in the mode it stands in (R121): the mode alone changed, an order
issued (R125), SEQUENCE-REFUSED reported, or nothing. DIG taken in WALK stops the walk whatever the arrangement, and
an entry the table gives no row is discarded (log entry 16). -/
def EntryTaken (request : Settled) (s t : State) : Prop :=
  let arrangement := s.sequencer.record.arrangement
  let moved (mode : Mode) : Prop := t = { s with sequencer := { s.sequencer with mode := mode } }
  let refused (d : Detail) : Prop := t = reportMomentary .sequenceRefused .sequencer (some d) s
  match request, s.sequencer.mode with
  | .dig, .parked =>
    (arrangement = .dig → moved .dig) ∧ (arrangement = .uncertain → OrderIssued .dig s t) ∧
    (arrangement = .walk → s.walk.bothInRest = true → OrderIssued .dig s t) ∧
    (arrangement = .walk → s.walk.bothInRest = false → refused .notAtRest)
  | .dig, .walk => moved (.stopping .walk .dig)
  | .walk, .parked =>
    (MayWalk s → arrangement = .walk → moved .walk) ∧ (MayWalk s → arrangement ≠ .walk → OrderIssued .walk s t) ∧
    (¬MayWalk s → refused .walk)
  | .walk, .dig => (MayWalk s → moved (.stopping .dig .walk)) ∧ (¬MayWalk s → refused .walk)
  | .parked, .dig => moved (.stopping .dig .parked)
  | .parked, .walk => moved (.stopping .walk .parked)
  | _, _ => t = s

/-- The waiting entries taken one after another, each removed as it is taken, as long as the mode is settled and the edit
state is not COMMITTING (R119). -/
def QueueTaken : List QueueEntry → State → State → Prop
  | [], s, t => t = s
  | e :: rest, s, t =>
    if isSettled s.sequencer.mode = true ∧ s.envelope.edit ≠ .committing then
      ∃ u, EntryTaken e.request { s with sequencer := { s.sequencer with queue := rest } } u ∧ QueueTaken rest u t
    else t = s

/-! ### Value codes (R188) -/

/-- The alarm codes in the order of the value-code table. -/
def AlarmCode.listed : List AlarmCode :=
  [.overcurrent, .driveFault, .brakeFail, .supplyLost, .stopAll, .transferFail, .operatorStale, .channelFault, .skew,
    .envelopeInvalid, .intrusion, .zoneWarn, .supplyLow, .supplySag, .boomOverload, .overdraw, .sequenceRefused,
    .settingsCheck]

/-- The alarm sources in the order of the value-code table: the motions, the groups, channels 0 to 9, and the blocks. -/
def Source.listed : List Source :=
  [.motion .hoist, .motion .drag, .motion .swing, .motion .walk, .group .hg, .group .dg, .group .sg,
    .encoder .hoistPayout, .encoder .dragPayout, .encoder .swingAngle, .encoder .camLeft, .encoder .camRight,
    .analog .hgCurrent, .analog .dgCurrent, .analog .sgCurrent, .analog .boomLoad, .analog .supplyVoltage, .supply,
    .boom, .envelope, .sequencer, .store, .portA, .portC]

/-- The codes of an enumerated field are the places of its values in a list that holds them all, counted from 0. -/
def Lists {α : Type} (values : List α) (code : α → Nat) : Prop :=
  (∀ v, v ∈ values) ∧ ∀ (i : Nat) (v : α), values[i]? = some v → code v = i

/-- A byte read as an enumerated field names the value at its place in the list, and nothing past the list's end. -/
def Reads {α : Type} (values : List α) (read : Byte → Option α) : Prop := ∀ b : Byte, read b = values[b.toNat]?

/-- The value-code table, the codes of an alarm detail and the result codes (R188, R172). -/
structure ValueCodes : Prop where
  mode : modeCode .parked = 0 ∧ modeCode .dig = 1 ∧ modeCode .walk = 2 ∧ (∀ w d, modeCode (.stopping w d) = 3) ∧
    ∀ d, modeCode (.transferring d) = 4
  settled : Lists [.parked, .dig, .walk] (fun x => (settledCode x).toNat) ∧ Reads [.parked, .dig, .walk] settledOfCode
  destination : ∀ m, destinationCode m = match m with
    | .stopping _ d => settledCode d
    | .transferring d => settledCode d
    | .parked => 0xFF
    | .dig => 0xFF
    | .walk => 0xFF
  arrangement : Lists [.dig, .walk, .uncertain] fun x => (arrangementCode x).toNat
  orderKind : Lists [.dig, .walk] (fun x => (orderKindCode (some x)).toNat) ∧ orderKindCode none = 0xFF
  orderState : Lists [.none, .pending, .done, .failed] fun x => (orderStateCode x).toNat
  /-- Walk permit: NG, OK; and the marks and flags (log entry 22). -/
  flag : Lists [false, true] fun x => (bool8 x).toNat
  supply : Lists [.normal, .low, .sag, .lost] fun x => (supplyCode x).toNat
  boom : Lists [.empty, .normal, .heavy, .overload] fun x => (boomCode x).toNat
  condition : Lists [.valid, .invalid, .blind, .committing] fun x => (conditionCode x).toNat
  edit : Lists [.closed, .open, .committing] fun x => (editCode x).toNat
  brake : Lists [.set, .releasing, .released, .setting] fun x => (brakeCode x).toNat
  freshness : Lists [.never, .fresh, .stale] fun x => (freshnessCode x).toNat
  readiness : Reads [.ready, .notReady, .fault] readinessOfCode
  /-- Report result: DONE, FAILED. -/
  result : Reads [true, false] doneOfCode
  mark : Reads [false, true] markOfCode
  profile : Lists [.common, .a, .b] (fun x => (profileCode x).toNat) ∧ Reads [.common, .a, .b] profileOfCode
  port : Lists [.a, .b, .c] fun x => (portCode x).toNat
  motion : Lists [.hoist, .drag, .swing, .walk] (fun x => (motionCode x).toNat) ∧
    Reads [.hoist, .drag, .swing, .walk] motionOfCode
  /-- Channel state: VALID, NOT-REFERENCED, FAULT with STEP, with LOW-LIMIT and with HIGH-LIMIT. -/
  encoderState : Lists [.valid, .notReferenced, .fault] fun x => (encoderStateCode x).toNat
  analogState : analogStateCode .valid = 0 ∧ analogStateCode .faultLow = 3 ∧ analogStateCode .faultHigh = 4
  alarmState : Lists [.activeUnack, .activeAck, .clearedUnack] alarmStateCode
  alarmClass : Lists [.trip, .hold, .limit, .warn] alarmClassCode
  alarmCode : Lists AlarmCode.listed (fun x => (alarmCodeCode x).toNat) ∧ Reads AlarmCode.listed alarmCodeOfCode
  source : Lists Source.listed (fun x => (sourceCode x).toNat) ∧ Reads Source.listed sourceOfCode
  zoneKind : byteAt (zoneBytes none) 0 = 0 ∧ (∀ b m, byteAt (zoneBytes (some (.keepOut b m))) 0 = 1) ∧
    (∀ b c, byteAt (zoneBytes (some (.slow b c))) 0 = 2) ∧ ∀ b, byteAt (zoneBytes (some (.warnOnly b))) 0 = 3
  group : Reads [.profile, .association, .calibration, .supplyBands, .boomBands, .currentTrip, .sharing, .walk, .gate,
    .sequencer] groupOfCode
  detail : (∀ n ≤ 23, (detailCode (some (.zone n))).toNat = n) ∧ detailCode (some .notReferenced) = 0x20 ∧
    detailCode (some .step) = 0x21 ∧ detailCode (some .lowLimit) = 0x22 ∧ detailCode (some .highLimit) = 0x23 ∧
    detailCode (some .table) = 0x30 ∧ detailCode (some .position) = 0x31 ∧ detailCode (some .walk) = 0x40 ∧
    detailCode (some .notAtRest) = 0x41 ∧ detailCode none = 0xFF ∧
    (∀ r, r ∈ SettingsRecord.all) ∧
    (∀ i r, SettingsRecord.all[i]? = some r → (detailCode (some (.record r))).toNat = 0x50 + i) ∧
    detailCode (some (.record .profileCommon)) = 0x50 ∧ detailCode (some (.record .sequencer)) = 0x64
  resultCodes : Lists [.accepted, .adjusted, .repeated, .notPermitted, .wrongMode, .busy, .badArgument, .queueFull,
    .notFound, .mismatch, .late, .unknownKind] fun x => (resultCode x).toNat

/-- A code that a station reads in a response and sends back in a request names the value it was formed from (R188). -/
def CodesReadBack : Prop :=
  (∀ c, alarmCodeOfCode (alarmCodeCode c) = some c) ∧ (∀ x, sourceOfCode (sourceCode x) = some x) ∧
  (∀ x, settledOfCode (settledCode x) = some x) ∧ (∀ x, profileOfCode (profileCode x) = some x) ∧
  (∀ m, motionOfCode (motionCode m) = some m) ∧ ∀ k, markOfCode (bool8 k) = some k

/-- The kinds of the request catalogue that it gives a port (10). -/
def kindsOf : Port → List Byte
  | .a => [0x01, 0x02, 0x03, 0x04, 0x05, 0x06, 0x07, 0x08]
  | .b => [0x01, 0x09, 0x0A, 0x0B]
  | .c => [0x01, 0x03, 0x04, 0x06, 0x07, 0x08, 0x09, 0x0C, 0x0D, 0x0E, 0x0F, 0x10, 0x11, 0x12, 0x13, 0x14, 0x15]

/-! ### A safe state -/

/-- A state that keeps every law above. -/
def Safe (s : State) : Prop :=
  Coherent s ∧ AlarmListLaw s ∧ PermitLaw s ∧ ProfileLaw s ∧ OutputLaw s ∧ PublishedLaw s ∧ QueueLaw s ∧ OrderLaw s ∧
  TableLaw s ∧ MeasuredLaw s ∧ BrakeLaw s ∧ FreshnessLaw s ∧ DriveLaw s

end Sys2Proof.Machine
end

