-- ==== Sys2Proof/Certificates/Slice0/Obligations.lean ====
section
/-! DEFINITION. The statements for the provers: what the numbered rules say a command does, each with what it leaves as
it was, and the laws every step keeps. -/

open Sys2Proof Sys2Proof.Machine

/-! ### The machine -/

/-- A step takes the command at the front of the queue and is its meaning on the state with the queue's rest. The
model's choice (log entry 2): with no command waiting a step changes nothing. -/
def Obligations.StepTakesTheFrontCommand : Prop :=
  (∀ (c : Instr) (rest : List Instr) (s : State), step { s with pending := c :: rest } = exec c { s with pending := rest }) ∧
  (∀ s : State, s.pending = [] → step s = .next s)

/-- Every command in every state answers a next state, and leaves the queue of commands as it was: no command stops
the part (00: a refused request is answered, a discarded frame is discarded). -/
def Obligations.EveryCommandAnswersNext : Prop :=
  ∀ (c : Instr) (s : State), ∃ t, exec c s = .next t ∧ t.pending = s.pending

/-- What every event of the running part ends with (R67, R110, R120, R158, R177 to R179): in-service, the walk permit
and the lines become those the rest of the state gives, and nothing else changes. -/
def Obligations.SettlingFormsWhatFollows : Prop :=
  ∀ s : State, Coherent (settle s) ∧
    settle s = { s with
      shaper := { s.shaper with motions := s.shaper.motions.map fun m r =>
        { r with inService := ((settle s).shaper.motions.get m).inService } }
      sequencer := { s.sequencer with walkPermit := (settle s).sequencer.walkPermit }
      lines := (settle s).lines }

/-! ### Supply, reset and the memory (11) -/

/-- POWER_ON, POWER_LOSS and EXTERNAL_RESET leave every block held in its reset values with every line off; the memory
loses only the record a write was cut off in (R183, R184). That a block held in reset shows the values it has on a
factory memory is the model's choice (log entry 3); that POWER_ON on a part with supply starts the load again, cutting
a write off, and that EXTERNAL_RESET on a part without supply has no effect are the model's reading (log entry 7). A
write cut off by a loss of supply or an external reset leaves its record failing its check, and every other record as
it was (R183). -/
def Obligations.SupplyAndResetHoldThePart : Prop :=
  (∀ s : State,
    exec .powerOn s = .next (resetHeld .loading s) ∧
    exec .powerLoss s = .next (resetHeld .off s) ∧
    (s.power ≠ .off → exec .externalReset s = .next (resetHeld .loading s)) ∧
    (s.power = .off → exec .externalReset s = .next s)) ∧
  (∀ (s : State) (w : RecordWrite) (rest : List RecordWrite),
    s.power = .running → (s.store = .writing w ∨ s.store = .committing w rest) →
    ∀ c, (c = .powerLoss ∨ c = .externalReset ∨ c = .powerOn) →
      ∃ t, exec c s = .next t ∧ t.store = .idle ∧ t.memory.recordAt w.name = none ∧
        ∀ n, n ≠ w.name → t.memory.recordAt n = s.memory.recordAt n)

/-- A record written passes its check with the contents it was written with, and every other record is as it was: a
single write at STORE_WRITE_COMPLETION, after which the store is IDLE, and a record of a commit at
COMMIT_RECORD_WRITE_COMPLETION, after which the next of the commit list is in flight (R182, R183). A record read at the
position of a write passes its check exactly where its check word is that of the position's name and the fields read; so
the bytes of one of the 46 records at another's position fail (R181). The bytes of a name and of the fields are the
model's choice (log entry 8). -/
def Obligations.CompletedRecordIsWritten : Prop :=
  (∀ (s : State) (w : RecordWrite), s.power = .running → s.memory.zones.length = 24 →
    (∀ i entry, w = .zone i entry → i < 24) →
    (s.store = .writing w → ∃ t, exec .storeWriteCompletion s = .next t ∧ t.store = .idle ∧
      t.memory.recordAt w.name = some w.written ∧
      ∀ n, n ≠ w.name → t.memory.recordAt n = s.memory.recordAt n) ∧
    ∀ next rest, s.store = .committing w (next :: rest) →
      ∃ t, exec .commitRecordWriteCompletion s = .next t ∧ t.store = .committing next rest ∧
        t.memory.recordAt w.name = some w.written ∧
        (∀ n, n ≠ w.name → t.memory.recordAt n = s.memory.recordAt n) ∧
        t = settle { s with store := t.store, memory := t.memory }) ∧
  (∀ (α : Type) (form : α → RecordWrite) (r : Stored α) (x : α),
    readRecord form (some r) = some x ↔
      r.fields = x ∧ r.check = crc16 ((form x).name.bytes ++ (form x).fieldBytes)) ∧
  ∀ w v : RecordWrite, w.name.number < 46 → v.name.number < 46 → w.name.number ≠ v.name.number →
    w.fieldBytes = v.fieldBytes → w.check ≠ v.check

/-- At the completion of a single write the owner takes the written values as its working copy, and nothing else of it
changes; a CAL write that ZERO-CHANNEL began changes nothing (R183, R15, R32, R63, R97, R25, R111, R131, R143). The
completion of an ASSOCIATION write at each motion (R64): the name in force withdraws a pending one; another name comes
into force at output 0 and waits as pending otherwise. The completion of a CALIBRATION write of an encoder channel
takes the new fields; a VALID channel becomes NOT-REFERENCED and its fault condition is raised with that detail (R15).
-/
def Obligations.WrittenSettingsTakeEffect : Prop :=
  (∀ s : State, s.power = .running →
    (∀ p, s.store = .writing (.profileCommon p) → exec .storeWriteCompletion s = .next (settle { afterWrite s with
      shaper := { s.shaper with profiles := { s.shaper.profiles with common := p } } })) ∧
    (∀ p, s.store = .writing (.profileA p) → exec .storeWriteCompletion s = .next (settle { afterWrite s with
      shaper := { s.shaper with profiles := { s.shaper.profiles with a := p } } })) ∧
    (∀ p, s.store = .writing (.profileB p) → exec .storeWriteCompletion s = .next (settle { afterWrite s with
      shaper := { s.shaper with profiles := { s.shaper.profiles with b := p } } })) ∧
    (∀ e cal, s.store = .writing (.calEncoder e cal true) →
      exec .storeWriteCompletion s = .next (settle (afterWrite s))) ∧
    (∀ a cal, s.store = .writing (.calAnalog a cal) → exec .storeWriteCompletion s = .next (settle { afterWrite s with
      scanner := { s.scanner with
        analogs := s.scanner.analogs.set a { s.scanner.analogs.get a with cal := cal } } })) ∧
    (∀ trip, s.store = .writing (.currentTrip trip) → exec .storeWriteCompletion s = .next (settle { afterWrite s with
      bands := { s.bands with trip := trip } })) ∧
    (∀ h, s.store = .writing (.sharing h) → exec .storeWriteCompletion s = .next (settle { afterWrite s with
      bands := { s.bands with budgets := h.budgets }
      shaper := { s.shaper with weights := h.weights, shedOrder := h.shedOrder } })) ∧
    (∀ w, s.store = .writing (.walk w) → exec .storeWriteCompletion s = .next (settle { afterWrite s with
      walk := { s.walk with settings := w } })) ∧
    (∀ n, s.store = .writing (.gate n) → exec .storeWriteCompletion s = .next (settle { afterWrite s with
      gate := { s.gate with confirm := n } })) ∧
    (∀ n, s.store = .writing (.sequencer n) → exec .storeWriteCompletion s = .next (settle { afterWrite s with
      sequencer := { s.sequencer with timeout := n } }))) ∧
  (∀ (s : State) (names : PerMotion ProfileName), s.power = .running → s.store = .writing (.association names) →
    ∃ t, exec .storeWriteCompletion s = .next (settle t) ∧
      t = { afterWrite s with shaper := { s.shaper with motions := t.shaper.motions } } ∧
      ∀ m, let r := s.shaper.motions.get m
        (names.get m = r.association → t.shaper.motions.get m = { r with pendingAssociation := none }) ∧
        (names.get m ≠ r.association → r.output = 0 →
          t.shaper.motions.get m = { r with association := names.get m, pendingAssociation := none }) ∧
        (names.get m ≠ r.association → r.output ≠ 0 →
          t.shaper.motions.get m = { r with pendingAssociation := some (names.get m) })) ∧
  (∀ (s : State) (e : EncoderId) (cal : EncoderCal), s.power = .running → s.store = .writing (.calEncoder e cal false) →
    let r := s.scanner.encoders.get e
    (r.state = .valid → exec .storeWriteCompletion s = .next (settle
      (reportRaise .channelFault (.encoder e) (some .notReferenced) { afterWrite s with
        scanner := { s.scanner with
          encoders := s.scanner.encoders.set e { r with cal := cal, state := .notReferenced } } }))) ∧
    (r.state ≠ .valid → exec .storeWriteCompletion s = .next (settle { afterWrite s with
      scanner := { s.scanner with encoders := s.scanner.encoders.set e { r with cal := cal } } })))

/-- At the end of the load every block takes its working copy from its record, and the factory contents where the
record fails (R181, R184, R33, R76, R98, R112, R132, R144); each feedback is the level at its input (R101, R112); the
memory is as it was, the store IDLE. Whatever the store loads, the part leaves a load in the state R187 gives: PARKED,
UNCERTAIN, every permit clear, NEVER, every group NOT-READY, every encoder NOT-REFERENCED, every brake SET; with it
every output 0, no snapshot, and the scan, period and seconds numbers 0 (R1, R79, R163). Block by block that is: the
channels (R16; scaled and raw values: log entry 5); LOW and HEAVY, neither valid nor debounced, and the integrators 0
(R33); each motion record (R76), OVERDRAW and the references record (R98); each brake (R112); the arrangement record
(R132); the Walk Tracker (R144); the Alarm Unit but for its list, no condition being present without an entry (R164;
log entry 21); every port HUNTING with nothing held or sent, and its marks clear (R180); the lines off (R184); the
first reports owed (log entry 14). Where a settings record fails, its SETTINGS-CHECK at the release sets the
list-changed marks of Ports A and C and asserts their attention lines (R162, R177, R179, R184; after R180's clearing:
log entry 9). -/
def Obligations.ReleaseTakesWorkingCopies : Prop :=
  (∀ s : State, s.power = .loading → ∃ t, exec .settingsLoadEnd s = .next t ∧
    t.power = .running ∧ t.memory = s.memory ∧ t.store = .idle ∧ t.feedbackInputs = s.feedbackInputs ∧
    t.shaper.profiles.common = s.memory.load.profileCommon.getD Config.factoryCommon ∧
    t.shaper.profiles.a = s.memory.load.profileA.getD Config.factoryPartial ∧
    t.shaper.profiles.b = s.memory.load.profileB.getD Config.factoryPartial ∧
    (∀ m, (t.shaper.motions.get m).association = (s.memory.load.association.getD Config.factoryAssociation).get m) ∧
    (∀ e, (t.scanner.encoders.get e).cal = (s.memory.load.encoderCal.get e).getD (Config.factoryEncoderCal.get e)) ∧
    (∀ a, (t.scanner.analogs.get a).cal = (s.memory.load.analogCal.get a).getD (Config.factoryAnalogCal.get a)) ∧
    t.bands.thresholds = s.memory.load.supplyBands.getD Config.factorySupply ∧
    t.bands.boomSettings = s.memory.load.boomBands.getD Config.factoryBoom ∧
    t.bands.trip = s.memory.load.currentTrip.getD Config.factoryTrip ∧
    t.bands.budgets = (s.memory.load.sharing.getD Config.factorySharing).budgets ∧
    t.shaper.weights = (s.memory.load.sharing.getD Config.factorySharing).weights ∧
    t.shaper.shedOrder = (s.memory.load.sharing.getD Config.factorySharing).shedOrder ∧
    t.walk.settings = s.memory.load.walk.getD Config.factoryWalk ∧
    t.gate.confirm = s.memory.load.gate.getD Config.factoryConfirm ∧
    t.sequencer.timeout = s.memory.load.sequencer.getD Config.factoryTimeout ∧
    (∀ m, (t.gate.brakes.get m).feedback = s.feedbackInputs.get m ∧
      (t.gate.brakes.get m).fail = s.feedbackInputs.get m)) ∧
  (∀ s : State, s.power = .loading → ∃ t, exec .settingsLoadEnd s = .next t ∧
    t.sequencer.mode = .parked ∧ t.sequencer.record.arrangement = .uncertain ∧ t.sequencer.queue = [] ∧
    t.ports.a.freshness = .never ∧ t.shaper.readiness = ⟨.notReady, .notReady, .notReady⟩ ∧
    (∀ m, t.shaper.motions.get m =
      { request := 0, inService := false, permit := false, association := (t.shaper.motions.get m).association,
        pendingAssociation := none, target := 0, output := 0, prevOutput := 0, reversalPending := false, dwell := 0,
        lastDirection := none, shed := false }) ∧
    (∀ m, t.gate.brakes.get m =
      { state := .set, count := 0, idle := 0, remembered := false, feedback := s.feedbackInputs.get m,
        fail := s.feedbackInputs.get m, filtering := false }) ∧
    (∀ e, t.scanner.encoders.get e =
      { count := 0, prev := 0, cal := (t.scanner.encoders.get e).cal, scaled := 0, state := .notReferenced,
        lastGood := 0, marks := ⟨false, false, false⟩ }) ∧
    (∀ a, t.scanner.analogs.get a =
      { raw := 0, cal := (t.scanner.analogs.get a).cal, scaled := 0, state := .valid, lastGood := 0,
        marks := ⟨false, false, false⟩, goodRun := 0 }) ∧
    t.scanner.snapshot = none ∧ t.scanner.scanNumber = 0 ∧ t.shaper.period = 0 ∧ t.alarms.seconds = 0 ∧
    t.bands.supply = ⟨.low, false, none, 0⟩ ∧ t.bands.boom = ⟨.heavy, false, none, 0⟩ ∧ t.bands.integrators = ⟨0, 0, 0⟩ ∧
    budget t.bands = t.bands.budgets.low ∧
    t.shaper.overdrawCount = 0 ∧ t.shaper.overdraw = false ∧
    t.shaper.references = ⟨0, ⟨0, 0, 0, 0⟩, ⟨false, false, false, false⟩⟩ ∧
    t.sequencer.walkPermit = false ∧
    t.sequencer.record =
      { arrangement := .uncertain, kind := none, mark := false, order := .none, endedBy := none, issueTime := 0,
        failedMark := false, timer := none } ∧
    t.walk =
      { leftPosition := 0, rightPosition := 0, leftAngle := 0, rightAngle := 0, skew := 0, walkPosition := 0, steps := 0,
        leftInRest := false, rightInRest := false, bothInRest := false, walkLeft := 0, walkRight := 0,
        skewCondition := false, settings := t.walk.settings, reportDue := true } ∧
    t.alarms =
      { list := t.alarms.list, overrun := false, lost := [], hold := ⟨false, false, false, false⟩,
        limit := ⟨false, false, false, false⟩, horn := false, seconds := 0,
        driveReport := ⟨.notReady, .notReady, .notReady⟩, driveFault := ⟨false, false, false⟩ } ∧
    (∀ p, t.ports.links.get p = ⟨none, none, []⟩) ∧
    (let told := decide (failingSettings s.memory ≠ []);
      t.ports.a = { freshness := .never, lastMark := none, holdTimer := false, staleCondition := false,
                    listChanged := told } ∧
      t.ports.c = { listChanged := told, commitEnded := false } ∧
      t.lines = { brake := ⟨false, false, false, false⟩, runEnable := ⟨false, false, false, false⟩,
                  attention := ⟨told, false, told⟩, horn := false }) ∧
    t.scanner.reportDue = true ∧ t.bands.reportDue = true ∧ t.envelope.reported = ⟨none, none, none⟩ ∧
    t.gate.reportDue = .reset ∧ t.pending = s.pending)

/-- What the load makes of the envelope records (R185, R57): a ZONE record that passes gives its position its contents
with the failed mark clear, one that fails leaves it unused with the mark set; the table state is FAILED when any ZONE
record fails, the header fails, or its marker is set; the generation is the header's, or 0 where it fails; the edit is
CLOSED, the caps 1000, the membership empty, and the condition INVALID on a FAILED table and BLIND otherwise.
SETTINGS-CHECK at the release (R184, R151): one entry in CLEARED-UNACK, its occurrence count the number of settings
records that fail and its detail the last of them in the order of R181; an empty list where all pass. -/
def Obligations.ReleaseFindsFailedRecords : Prop :=
  (∀ s : State, s.power = .loading → ∃ t, exec .settingsLoadEnd s = .next t ∧
    t.envelope.table.length = s.memory.load.zones.length ∧
    (∀ (i : Nat) (entry : Option Zone), s.memory.load.zones[i]? = some (some entry) →
      t.envelope.table[i]? = some (⟨entry, false⟩ : TableSlot)) ∧
    (∀ i : Nat, s.memory.load.zones[i]? = some none → t.envelope.table[i]? = some (⟨none, true⟩ : TableSlot)) ∧
    (t.envelope.tableFailed = true ↔
      none ∈ s.memory.load.zones ∨ s.memory.load.header = none ∨ ∃ g, s.memory.load.header = some ⟨g, true⟩) ∧
    (∀ h, s.memory.load.header = some h → t.envelope.generation = h.generation) ∧
    (s.memory.load.header = none → t.envelope.generation = 0) ∧
    t.envelope.condition = (if t.envelope.tableFailed = true then .invalid else .blind) ∧
    t.envelope.edit = .closed ∧ t.envelope.buffer = List.replicate 24 ⟨none, false⟩ ∧
    (∀ m d, capOf t.envelope.caps m d = 1000) ∧ t.envelope.keepOutMember = none ∧ t.envelope.warnMember = none) ∧
  (∀ s : State, s.power = .loading → ∃ t, exec .settingsLoadEnd s = .next t ∧
    ((failingSettings s.memory).getLast? = none → t.alarms.list = []) ∧
    ∀ r, (failingSettings s.memory).getLast? = some r →
      t.alarms.list =
        [{ code := .settingsCheck, source := .store, detail := some (.record r), cls := .warn,
           affected := ⟨false, false, false, false⟩, state := .clearedUnack, raisedAt := 0, changedAt := 0,
           occurrences := (failingSettings s.memory).length }])

/-- The state after reset keeps every law (the value of what no rule gives is the model's: log entries 3 to 5). -/
def Obligations.ResetIsSafe : Prop :=
  Safe State.reset

/-! ### Measurement channels (01) -/

/-- ENCODER_EDGE: a forward edge adds one to the channel's count and a reverse edge takes one, wrapping at 32 bits,
and nothing else changes (R3). SECONDS_TICK adds one to the seconds count, which stops at 4294967295, and changes
nothing else (R163). CLEAR-MARKS from Port C clears the three marks of the ten channels, and CLEAR-OVERRUN from Port A
or C the overrun mark, each in every mode and every state of the store, and nothing else but the list-changed marks,
which a change of the overrun mark sets (R12, R152, R162). -/
def Obligations.EdgesSecondsAndMarks : Prop :=
  (∀ (s : State) (e : EncoderId), s.power = .running →
    exec (.encoderEdge e true) s = .next (settle { s with scanner := { s.scanner with
      encoders := s.scanner.encoders.set e
        { s.scanner.encoders.get e with count := (s.scanner.encoders.get e).count + 1 } } }) ∧
    exec (.encoderEdge e false) s = .next (settle { s with scanner := { s.scanner with
      encoders := s.scanner.encoders.set e
        { s.scanner.encoders.get e with count := (s.scanner.encoders.get e).count - 1 } } })) ∧
  (∀ s : State, s.power = .running → s.alarms.seconds ≤ 4294967295 →
    exec .secondsTick s = .next (settle { s with alarms := { s.alarms with
      seconds := if s.alarms.seconds = 4294967295 then 4294967295 else s.alarms.seconds + 1 } })) ∧
  ∀ s : State,
    (PortFree .c s → exec (.clearMarks .c) s = .next (settle (holdAnswer .c .clearMarks 0x8F .accepted []
      { s with scanner := { s.scanner with
        encoders := s.scanner.encoders.map fun _ r => { r with marks := ⟨false, false, false⟩ }
        analogs := s.scanner.analogs.map fun _ r => { r with marks := ⟨false, false, false⟩ } } }))) ∧
    ∀ p, p ≠ .b → PortFree p s →
      exec (.clearOverrun p) s = .next (settle (holdAnswer p .clearOverrun 0x87 .accepted []
        { s with
          alarms := { s.alarms with overrun := false }
          ports := { s.ports with
            a := { s.ports.a with listChanged := s.ports.a.listChanged || s.alarms.overrun }
            c := { s.ports.c with listChanged := s.ports.c.listChanged || s.alarms.overrun } } }))

/-- SCAN_COMPLETION at the encoder channels (R3 to R8, R12): the count and the calibration stand and the count becomes
the previous count; a step beyond the maximum makes the state FAULT and any other keeps it; the scaled value is the
formula's, clamped to the channel's range; the last good value follows a scan left VALID; the marks are set as R12
says. SCAN_COMPLETION at the analog channels (R9 to R12): FAULT with the detail of the limit failed, its end at the
40th consecutive passing scan, the scaled value clamped to the channel's range, the last good value and the marks. -/
def Obligations.ScanUpdatesChannels : Prop :=
  (∀ (s : State) (conversions : PerAnalog Sample), s.power = .running →
    (∀ e, 0 < (s.scanner.encoders.get e).cal.scale) →
    ∃ t, exec (.scanCompletion conversions) s = .next t ∧
      ∀ e, ∃ v : Int, EncoderScales e (s.scanner.encoders.get e).cal (s.scanner.encoders.get e).count v ∧
        EncoderScanned e v (s.scanner.encoders.get e) (t.scanner.encoders.get e)) ∧
  (∀ (s : State) (conversions : PerAnalog Sample), s.power = .running →
    ∃ t, exec (.scanCompletion conversions) s = .next t ∧
      ∀ a, AnalogScanned a (conversions.get a)
        (Int.tdiv ((((conversions.get a).toNat : Int) - (s.scanner.analogs.get a).cal.offset) *
          (s.scanner.analogs.get a).cal.gain) 4096)
        (s.scanner.analogs.get a) (t.scanner.analogs.get a))

/-- SCAN_COMPLETION publishes a snapshot of the records as it leaves them, under the next scan number (R1, R2): of
each channel its state, its marks, its raw input and its published value, which is the last good value in FAULT and
the scaled value otherwise (R8, R11); of each cam also its angle, the scaled position modulo 360 in every state (R7).
What a scan completion leaves as it was (R1, R18, R38, R135): the calibration and the counts, every setting, the zone
table, the buffer, the generation and the edit state, the requests, associations and readiness, the period and its
shed marks, the feedbacks, the fail conditions and the confirm time, the arrangement record, the seconds, the store,
the memory and the ports but for their list-changed marks; an output changes only to 0 with its permit cleared, a
brake only to SETTING from RELEASING or RELEASED, and the mode only as an all-motion trip changes it (R155). The whole
state it leaves is what exactly the reports of ScanMakesReports make of the scanned blocks; so a motion that no TRIP
report of the scan affects keeps its permit, its whole record and its brake, the side references stand where none
affects WALK, and mode and queue where none affects all four (R74, R108, R130, R155; order of the reports: log entry
9). The scanner, the bands and the tracker have no first report left to make, the gate's stands, and what the Envelope
Unit last told is what stands (the model's bookkeeping, log entry 14). -/
def Obligations.ScanPublishesAndKeeps : Prop :=
  (∀ (s : State) (conversions : PerAnalog Sample), s.power = .running →
    ∃ t snap, exec (.scanCompletion conversions) s = .next t ∧ t.scanner.snapshot = some snap ∧
      snap.number = s.scanner.scanNumber + 1 ∧ t.scanner.scanNumber = s.scanner.scanNumber + 1 ∧
      (∀ e, let r := t.scanner.encoders.get e
        snap.encoders.get e =
          { state := r.state, value := if r.state = .fault then r.lastGood else r.scaled, marks := r.marks,
            raw := r.count }) ∧
      (∀ a, let r := t.scanner.analogs.get a
        snap.analogs.get a =
          { state := r.state, value := if r.state = .valid then r.scaled else r.lastGood, marks := r.marks,
            raw := conversions.get a }) ∧
      (snap.camLeftAngle : Int) = t.scanner.encoders.camLeft.scaled % 360 ∧
      (snap.camRightAngle : Int) = t.scanner.encoders.camRight.scaled % 360) ∧
  (∀ (s : State) (conversions : PerAnalog Sample), s.power = .running →
    ∃ t, exec (.scanCompletion conversions) s = .next t ∧
      t.scanner.reportDue = false ∧ t.bands.reportDue = false ∧ t.walk.reportDue = false ∧
      EnvelopeTold t.envelope t.scanner.snapshot ∧ t.gate.reportDue = s.gate.reportDue ∧
      t.power = s.power ∧ t.store = s.store ∧ t.memory = s.memory ∧ t.feedbackInputs = s.feedbackInputs ∧
      t.pending = s.pending ∧ t.ports.links = s.ports.links ∧
      t.ports.a = { s.ports.a with listChanged := t.ports.a.listChanged } ∧
      t.ports.c = { s.ports.c with listChanged := t.ports.c.listChanged } ∧
      (∀ e, (t.scanner.encoders.get e).cal = (s.scanner.encoders.get e).cal ∧
        (t.scanner.encoders.get e).count = (s.scanner.encoders.get e).count) ∧
      (∀ a, (t.scanner.analogs.get a).cal = (s.scanner.analogs.get a).cal) ∧
      t.envelope.table = s.envelope.table ∧ t.envelope.tableFailed = s.envelope.tableFailed ∧
      t.envelope.generation = s.envelope.generation ∧ t.envelope.buffer = s.envelope.buffer ∧
      t.envelope.edit = s.envelope.edit ∧
      t.bands.thresholds = s.bands.thresholds ∧ t.bands.boomSettings = s.bands.boomSettings ∧
      t.bands.trip = s.bands.trip ∧ t.bands.budgets = s.bands.budgets ∧
      t.shaper.profiles = s.shaper.profiles ∧ t.shaper.readiness = s.shaper.readiness ∧
      t.shaper.period = s.shaper.period ∧ t.shaper.weights = s.shaper.weights ∧
      t.shaper.shedOrder = s.shaper.shedOrder ∧ t.shaper.overdraw = s.shaper.overdraw ∧
      t.shaper.overdrawCount = s.shaper.overdrawCount ∧ t.shaper.references.shed = s.shaper.references.shed ∧
      t.shaper.references.period = s.shaper.references.period ∧
      t.gate.confirm = s.gate.confirm ∧ t.sequencer.record = s.sequencer.record ∧
      t.sequencer.timeout = s.sequencer.timeout ∧ t.walk.settings = s.walk.settings ∧
      t.alarms.seconds = s.alarms.seconds ∧ t.alarms.driveReport = s.alarms.driveReport ∧
      t.alarms.driveFault = s.alarms.driveFault ∧
      (t.sequencer.mode = s.sequencer.mode ∨ TrippedTo s.sequencer.mode t.sequencer.mode) ∧
      ∀ m, ((t.shaper.motions.get m).request = (s.shaper.motions.get m).request ∧
        (t.shaper.motions.get m).association = (s.shaper.motions.get m).association ∧
        (t.shaper.motions.get m).pendingAssociation = (s.shaper.motions.get m).pendingAssociation) ∧
        ((t.shaper.motions.get m).output = (s.shaper.motions.get m).output ∨ (t.shaper.motions.get m).output = 0 ∧
          (t.shaper.motions.get m).permit = false) ∧
        (t.gate.brakes.get m).feedback = (s.gate.brakes.get m).feedback ∧
        (t.gate.brakes.get m).fail = (s.gate.brakes.get m).fail ∧
        ((t.gate.brakes.get m).state = (s.gate.brakes.get m).state ∨
          (t.gate.brakes.get m).state = .setting ∧ Lifted (s.gate.brakes.get m))) ∧
  ∀ (s : State) (conversions : PerAnalog Sample), s.power = .running →
    ∃ t snap, ∃ trips : Group → Bool, exec (.scanCompletion conversions) s = .next t ∧ t.scanner.snapshot = some snap ∧
      (∀ g, trips g = true ↔ IntegratorTrips s snap g) ∧
      let reports := scanReports s t snap trips
      let spares (m : Motion) : Prop := ∀ r ∈ reports, ¬r.MayTrip s.sequencer.record.arrangement m
      t = settle (takeReports reports { s with
        scanner := t.scanner, envelope := t.envelope, bands := t.bands
        walk := { t.walk with walkLeft := s.walk.walkLeft, walkRight := s.walk.walkRight } }) ∧
      (∀ m, spares m →
        t.shaper.motions.get m =
          { s.shaper.motions.get m with inService := (t.shaper.motions.get m).inService } ∧
        t.gate.brakes.get m = s.gate.brakes.get m) ∧
      (spares .walk → t.walk.walkLeft = s.walk.walkLeft ∧ t.walk.walkRight = s.walk.walkRight) ∧
      ((∀ r ∈ reports, ∃ m, ¬r.MayTrip s.sequencer.record.arrangement m) →
        t.sequencer = { s.sequencer with walkPermit := t.sequencer.walkPermit })

/-- SCAN_COMPLETION at the Alarm Unit (R13, R26, R30, R46 to R48, R139, R164): the list and all the unit holds become
what exactly these reports make of them: CHANNEL-FAULT of each channel whose fault condition has appeared, changed or
ended; ENVELOPE-INVALID, INTRUSION and ZONE-WARN where they differ from what was last told; the alarms of the
effective supply and boom bands; OVERCURRENT of each group whose integrator trips; SKEW. At the first scan completion
after a reset every condition present is raised. The order among them, and among the channels and groups, is the
model's choice (log entry 9). After it no block has a first report left to make, and what the Envelope Unit last told is
what stands; what was last told, and what is first, is the model's bookkeeping (log entry 14). -/
def Obligations.ScanMakesReports : Prop :=
  ∀ (s : State) (conversions : PerAnalog Sample), s.power = .running →
    ∃ t snap, ∃ trips : Group → Bool, exec (.scanCompletion conversions) s = .next t ∧ t.scanner.snapshot = some snap ∧
      (∀ g, trips g = true ↔ IntegratorTrips s snap g) ∧
      t.alarms = alarmsAfter (scanReports s t snap trips) s ∧
      t.scanner.reportDue = false ∧ t.bands.reportDue = false ∧ t.walk.reportDue = false ∧
      EnvelopeTold t.envelope (some snap)

/-- The swing's scaled value lies in 0..3599 for every count, so a scan never clamps it and never sets its BELOW and
ABOVE marks (R6). -/
def Obligations.SwingIsNeverClamped : Prop :=
  (∀ (cal : EncoderCal) (count : Word) (v : Int), 0 < cal.scale → EncoderScales .swingAngle cal count v →
    0 ≤ v ∧ v ≤ 3599) ∧
  ∀ (s : State) (conversions : PerAnalog Sample), s.power = .running → 0 < s.scanner.encoders.swingAngle.cal.scale →
    ∃ t, exec (.scanCompletion conversions) s = .next t ∧
      EncoderScales .swingAngle s.scanner.encoders.swingAngle.cal s.scanner.encoders.swingAngle.count
        t.scanner.encoders.swingAngle.scaled ∧
      t.scanner.encoders.swingAngle.marks.below = s.scanner.encoders.swingAngle.marks.below ∧
      t.scanner.encoders.swingAngle.marks.above = s.scanner.encoders.swingAngle.marks.above

/-- ZERO-CHANNEL in PARKED with the store idle, past its checks (R14). The value is clamped to the channel's range,
with ADJUSTED where it was clamped. The channel takes a new offset and is VALID, its fault condition is reported gone
if it was not, and the write of its CAL record begins. At the same count a swing or cam channel then scales to exactly
the value, and a payout to truncate(truncate(value × 1000 / scale) × scale / 1000), which is not above the value and
short of it by at most ceiling(scale / 1000). -/
def Obligations.ZeroChannelReferences : Prop :=
  ∀ (s : State) (channel : Byte) (value : Word) (e : EncoderId), PortFree .c s → s.sequencer.mode = .parked →
    s.store = .idle → encoderOfNumber channel.toNat = some e →
    clampEncoderCal e (s.scanner.encoders.get e).cal = (s.scanner.encoders.get e).cal →
    ∃ (offset : Word) (v : Int), ∃ t : State,
      v = (if value.toInt < encoderLow e then encoderLow e
        else if encoderHigh e < value.toInt then encoderHigh e else value.toInt) ∧
      t = { s with scanner := { s.scanner with
        encoders := s.scanner.encoders.set e { s.scanner.encoders.get e with
          state := .valid, cal := { (s.scanner.encoders.get e).cal with offset := offset } } } } ∧
      exec (.zeroChannel .c channel value) s = .next (settle (holdAnswer .c (.zeroChannel channel value) 0x8E
        (if v = value.toInt then .accepted else .adjusted) []
        { (if (s.scanner.encoders.get e).state = .valid then t else reportGone .channelFault (.encoder e) t) with
          store := .writing (.calEncoder e { (s.scanner.encoders.get e).cal with offset := offset } true) })) ∧
      ∀ w, EncoderScales e { (s.scanner.encoders.get e).cal with offset := offset }
          (s.scanner.encoders.get e).count w →
        if e = .hoistPayout ∨ e = .dragPayout then
          w = Int.tdiv (Int.tdiv (v * 1000) (s.scanner.encoders.get e).cal.scale *
            (s.scanner.encoders.get e).cal.scale) 1000 ∧
          w ≤ v ∧ 1000 * (v - w) < 1000 + (s.scanner.encoders.get e).cal.scale
        else w = v

/-! ### Supply and boom load bands (02) -/

/-- SCAN_COMPLETION at the two band records (R19 to R23): each takes the band its channel's published value falls in,
or none while the channel is in FAULT, and is debounced with 4 and 100 scans (supply) or 10 and 40 (boom). The
effective band is the debounced one where it is valid, and LOW (supply) or HEAVY (boom) where it is not (R24); the
budget is the entry of the effective supply band, 0 for LOST (R25). -/
def Obligations.ScanDebouncesBands : Prop :=
  (∀ (s : State) (conversions : PerAnalog Sample), s.power = .running →
    ∃ t snap, exec (.scanCompletion conversions) s = .next t ∧ t.scanner.snapshot = some snap ∧
      (∃ seen, SupplySeen s.bands.thresholds snap.analogs.supplyVoltage seen ∧
        Debounced supplyRank 4 100 seen s.bands.supply t.bands.supply) ∧
      ∃ seen, BoomSeen s.bands.boomSettings snap.analogs.boomLoad seen ∧
        Debounced boomRank 10 40 seen s.bands.boom t.bands.boom) ∧
  ∀ b : Bands,
    (b.supply.valid = true → effectiveSupply b = b.supply.band) ∧ (b.supply.valid = false → effectiveSupply b = .low) ∧
    (b.boom.valid = true → effectiveBoom b = b.boom.band) ∧ (b.boom.valid = false → effectiveBoom b = .heavy) ∧
    (effectiveSupply b = .normal → budget b = b.budgets.normal) ∧ (effectiveSupply b = .low → budget b = b.budgets.low) ∧
    (effectiveSupply b = .sag → budget b = b.budgets.sag) ∧ (effectiveSupply b = .lost → budget b = 0)

/-- SCAN_COMPLETION at the current integrators (R29 to R31): held at 0 while an order is PENDING (HG and DG) or the
current channel is not VALID; otherwise one up above the trip level and one down at or below it; and 0 with
OVERCURRENT of the group in the list, affecting the motions the group feeds, where the step reached the trip count.
Whatever the command, the integrators of HG and DG are at 0 after it where an order was PENDING before it or is after it,
so that the first scan completion after the order leaves PENDING steps them from 0 (from the issue on: log entry 20). -/
def Obligations.ScanStepsIntegrators : Prop :=
  (∀ (s : State) (conversions : PerAnalog Sample), s.power = .running → AlarmListLaw s →
    ∃ t snap, exec (.scanCompletion conversions) s = .next t ∧ t.scanner.snapshot = some snap ∧
      ∀ g, let x := snap.analogs.get (currentChannel g)
        let n := s.bands.integrators.get g
        let next := if s.bands.trip.levels.get g < x.value.natAbs then n + 1 else n - 1
        let held := x.state ≠ .valid ∨ s.sequencer.record.order = .pending ∧ g ≠ .sg
        (held → t.bands.integrators.get g = 0) ∧
        (¬held → next < s.bands.trip.counts.get g → t.bands.integrators.get g = next) ∧
        (¬held → s.bands.trip.counts.get g ≤ next → t.bands.integrators.get g = 0 ∧
          ∃ a ∈ t.alarms.list, a.code = .overcurrent ∧ a.source = .group g ∧ a.state = .clearedUnack ∧ a.cls = .trip ∧
            a.affected = fedBy g s.sequencer.record.arrangement)) ∧
  ∀ (c : Instr) (s t : State), OrderLaw s → exec c s = .next t →
    s.sequencer.record.order = .pending ∨ t.sequencer.record.order = .pending → IntegratorsBlanked t

/-- The completion of a SUPPLY-BANDS or BOOM-BANDS write (R28): the new values replace the working ones and the
record's debounce restarts, its band kept, so that the effective band becomes LOW or HEAVY; the alarm of the band that
ends is reported gone and SUPPLY-LOW raised where it was absent (R24, R26). Where the completion is the monitor's first
event after a reset or RESTART, the condition then present of either band is raised and nothing is reported gone (R26;
that it is the first is the model's bookkeeping, log entry 14; that the supply band is then reported before the boom
band is the model's choice, log entry 9). Nothing else changes. -/
def Obligations.BandWriteRestartsDebounce : Prop :=
  ∀ s : State, s.power = .running →
    (∀ x, s.store = .writing (.supplyBands x) →
      let base : State := { afterWrite s with bands := { s.bands with
        thresholds := x, supply := ⟨s.bands.supply.band, false, none, 0⟩, reportDue := false } }
      (s.bands.reportDue = false → exec .storeWriteCompletion s = .next (settle
        (match effectiveSupply s.bands with
        | .normal => reportRaise .supplyLow .supply none base
        | .low => base
        | .sag => reportRaise .supplyLow .supply none (reportGone .supplySag .supply base)
        | .lost => reportRaise .supplyLow .supply none (reportGone .supplyLost .supply base)))) ∧
      (s.bands.reportDue = true → exec .storeWriteCompletion s = .next (settle
        (match effectiveBoom s.bands with
        | .overload => reportRaise .boomOverload .boom none (reportRaise .supplyLow .supply none base)
        | .heavy => reportRaise .supplyLow .supply none base
        | .normal => reportRaise .supplyLow .supply none base
        | .empty => reportRaise .supplyLow .supply none base)))) ∧
    ∀ x, s.store = .writing (.boomBands x) →
      let base : State := { afterWrite s with bands := { s.bands with
        boomSettings := x, boom := ⟨s.bands.boom.band, false, none, 0⟩, reportDue := false } }
      (s.bands.reportDue = false → exec .storeWriteCompletion s = .next (settle
        (match effectiveBoom s.bands with
        | .overload => reportGone .boomOverload .boom base
        | .heavy => base
        | .normal => base
        | .empty => base))) ∧
      (s.bands.reportDue = true → exec .storeWriteCompletion s = .next (settle
        (match effectiveSupply s.bands with
        | .normal => base
        | .low => reportRaise .supplyLow .supply none base
        | .sag => reportRaise .supplySag .supply none base
        | .lost => reportRaise .supplyLost .supply none base)))

/-! ### The working envelope (03) -/

/-- R39: θ is inside a sector whose from equals its to, and otherwise where it lies on the way clockwise from from to
to, both ends included, through 0 where to is below from. -/
def Obligations.SectorRunsClockwise : Prop :=
  ∀ (box : ZoneBox Nat) (θ : Int), box.sectorFrom ≤ 3599 → box.sectorTo ≤ 3599 → 0 ≤ θ → θ ≤ 3599 →
    (inSector box θ = true ↔
      box.sectorFrom = box.sectorTo ∨
      box.sectorFrom < box.sectorTo ∧ (box.sectorFrom : Int) ≤ θ ∧ θ ≤ box.sectorTo ∨
      box.sectorTo < box.sectorFrom ∧ ((box.sectorFrom : Int) ≤ θ ∨ θ ≤ box.sectorTo))

/-- The approach to a KEEP-OUT zone (R41): it restrains a motion in a direction only from outside the zone and with
the other two coordinates inside, at a distance of at least 1; moved that distance in that direction, the point is
inside, and at no shorter distance. Conversely a point outside that some distance in a direction of at least 1, and
below 3600 for SWING, takes inside is restrained, at the least such distance. The cap of a KEEP-OUT zone (R42): 0
within the margin, 1000 from the far edge of the band on, and between them the larger of the creep and the floor of
the straight line; so it rises with the distance. -/
def Obligations.ApproachIsCapped : Prop :=
  (∀ (box : ZoneBox Nat) (p : Point) (m : DigMotion) (d : Direction) (δ : Int), BoxInRange box →
    0 ≤ p.θ → p.θ ≤ 3599 → approach box p m d = some δ →
    1 ≤ δ ∧ inBox box p = false ∧ inBox box (movedBy p m d δ) = true ∧
      ∀ ε, 0 ≤ ε → ε < δ → inBox box (movedBy p m d ε) = false) ∧
  (∀ (box : ZoneBox Nat) (p : Point) (m : DigMotion) (d : Direction) (ε : Int), BoxInRange box →
    0 ≤ p.θ → p.θ ≤ 3599 → inBox box p = false → 1 ≤ ε → (m = .swing → ε < 3600) →
    inBox box (movedBy p m d ε) = true → ∃ δ, approach box p m d = some δ ∧ δ ≤ ε) ∧
  (∀ (creep margin band : Nat) (δ : Int), 1 ≤ band → creep ≤ 1000 →
    (δ ≤ margin → approachCap creep margin band δ = 0) ∧
    (margin < δ → δ < margin + band → creep ≤ approachCap creep margin band δ ∧
      (∀ line : Int, line * band ≤ (δ - margin) * 1000 → (δ - margin) * 1000 < (line + 1) * band →
        (approachCap creep margin band δ : Int) = max (creep : Int) line)) ∧
    (margin + band ≤ δ → approachCap creep margin band δ = 1000) ∧
    ∀ ε, δ ≤ ε → approachCap creep margin band δ ≤ approachCap creep margin band ε)

/-- SCAN_COMPLETION at the Envelope Unit (R35, R37, R38, R40, R43 to R45): the condition from the edit state, the
table state and the position channels of the new snapshot; in VALID each cap the least that the zones of the table
give (a KEEP-OUT zone by its approach, a SLOW zone that contains the point its fields present, a WARN-ONLY zone none), in
INVALID and BLIND 1000, in COMMITTING 0; the membership the lowest-numbered KEEP-OUT and WARN-ONLY zones that
contain the point, empty unless the table is USABLE and the positions known. -/
def Obligations.ScanFormsEnvelope : Prop :=
  ∀ (s : State) (conversions : PerAnalog Sample), s.power = .running →
    ∃ t snap, exec (.scanCompletion conversions) s = .next t ∧ t.scanner.snapshot = some snap ∧
      EnvelopeFormed s.envelope.table s.envelope.edit s.envelope.tableFailed (digCreep s.shaper) (some snap) t.envelope

/-- EDIT-BEGIN, EDIT-ZONE and EDIT-DISCARD past their checks (R50, R51, R52): the active table copied with each failed
position marked edited; one position given the unused entry, or the zone of the request clamped, and marked edited,
with ADJUSTED where a field was clamped; the buffer emptied. Nothing else changes. EDIT-COMMIT in OPEN and PARKED with
the store idle (R53, R54): the edit state and the condition COMMITTING, every cap 0, and the store sequence: the
header with the marker set and the generation as it stands, the edited positions in ascending order with the buffer's
contents, and the header with the marker clear and the generation advanced by one, modulo 65536. The table, its failed
marks, the table state and the generation stand. What each is refused with (R50 to R53, R170): BUSY or WRONG-MODE by
the edit state, and BAD-ARGUMENT for an entry of a wrong length, a position above 23 or a SLOW presence byte with bits
past its three (R188), which is judged after the position (log entry 12). -/
def Obligations.EditRequestsAndCommitBegin : Prop :=
  (∀ s : State, PortFree .c s →
    (s.envelope.edit = .closed → exec (.editBegin .c) s = .next (settle (holdAnswer .c .editBegin 0x91 .accepted []
      { s with envelope := { s.envelope with
        edit := .open, buffer := s.envelope.table.map fun slot => ⟨slot.entry, slot.failed⟩ } }))) ∧
    (s.envelope.edit = .open → exec (.editDiscard .c) s = .next (settle (holdAnswer .c .editDiscard 0x94 .accepted []
      { s with envelope := { s.envelope with
        edit := .closed, buffer := List.replicate 24 ⟨none, false⟩ } }))) ∧
    ∀ (position : Byte) (entry : ZoneBody), s.envelope.edit = .open → position.toNat ≤ 23 →
      (rawEntry entry = some none →
        exec (.editZone .c position entry) s = .next (settle (holdAnswer .c (.editZone position entry) 0x92 .accepted []
          { s with envelope := { s.envelope with buffer := s.envelope.buffer.set position.toNat ⟨none, true⟩ } }))) ∧
      (∀ z, rawEntry entry = some (some z) → boxOrdered (zoneBox (clampZone z)) = true →
        exec (.editZone .c position entry) s = .next (settle (holdAnswer .c (.editZone position entry) 0x92
          (if clampZone z = z then .accepted else .adjusted) []
          { s with envelope := { s.envelope with
            buffer := s.envelope.buffer.set position.toNat ⟨some (clampZone z), true⟩ } }))) ∧
      (∀ z, rawEntry entry = some (some z) → boxOrdered (zoneBox (clampZone z)) = false →
        exec (.editZone .c position entry) s = .next (settle (holdAnswer .c (.editZone position entry) 0x92
          .badArgument [] s)))) ∧
  (∀ s : State, PortFree .c s → s.envelope.edit = .open → s.sequencer.mode = .parked → s.store = .idle →
    s.envelope.buffer.length = 24 →
    exec (.editCommit .c) s = .next (settle (holdAnswer .c .editCommit 0x93 .accepted []
      { s with
        envelope := { s.envelope with
          edit := .committing, condition := .committing, caps := ⟨⟨0, 0⟩, ⟨0, 0⟩, ⟨0, 0⟩⟩ }
        store := .committing (.zoneHeader ⟨s.envelope.generation, true⟩)
          ((List.range 24).filterMap (fun i => match s.envelope.buffer[i]? with
            | some slot => if slot.edited = true then some (RecordWrite.zone i slot.entry) else none
            | none => none) ++ [.zoneHeader ⟨s.envelope.generation + 1, false⟩]) }))) ∧
  (∀ s : State, PortFree .c s →
    let refused (c : Instr) (r : Request) (kind : Byte) (result : ResultCode) : Prop :=
      exec c s = .next (settle (holdAnswer .c r kind result [] s))
    (s.envelope.edit ≠ .closed → refused (.editBegin .c) .editBegin 0x91 .busy) ∧
    (s.envelope.edit = .closed →
      refused (.editDiscard .c) .editDiscard 0x94 .wrongMode ∧ refused (.editCommit .c) .editCommit 0x93 .wrongMode) ∧
    (s.envelope.edit = .committing →
      refused (.editDiscard .c) .editDiscard 0x94 .busy ∧ refused (.editCommit .c) .editCommit 0x93 .busy) ∧
    ∀ (position : Byte) (entry : ZoneBody),
      ((∃ bytes, entry = .misfit bytes) →
        refused (.editZone .c position entry) (.editZone position entry) 0x92 .badArgument) ∧
      ((∀ bytes, entry ≠ .misfit bytes) →
        (s.envelope.edit = .closed →
          refused (.editZone .c position entry) (.editZone position entry) 0x92 .wrongMode) ∧
        (s.envelope.edit = .committing →
          refused (.editZone .c position entry) (.editZone position entry) 0x92 .busy) ∧
        (s.envelope.edit = .open → 23 < position.toNat ∨ rawEntry entry = none →
          refused (.editZone .c position entry) (.editZone position entry) 0x92 .badArgument)))

/-- COMMIT_COMPLETION, the completion of the final header write (R55): the store IDLE with the header written; the
table takes the buffer's entries, with the failed mark of each written position cleared; USABLE, the generation
written, CLOSED with the buffer emptied; the condition, caps and membership formed from the snapshot last taken, or
BLIND, 1000 and empty where none has been taken (R37, R57); the commit-ended mark set. What waits in the queue is
taken at the same event (R119), from the state with the completed commit and, before it, its reports of
ENVELOPE-INVALID, INTRUSION and ZONE-WARN; that the reports come first is the model's choice (log entry 9). What the
unit last told is then what stands (the model's bookkeeping, log entry 14). -/
def Obligations.CommitCompletionReplacesTheTable : Prop :=
  ∀ (s : State) (h : ZoneHeader), s.power = .running → s.store = .committing (.zoneHeader h) [] →
    s.envelope.table.length = 24 → s.envelope.buffer.length = 24 →
    ∃ t, exec .commitCompletion s = .next t ∧ t.store = .idle ∧
      t.memory = s.memory.write (.zoneHeader h) ∧
      (∀ (i : Nat) (old : TableSlot) (new : BufferSlot), s.envelope.table[i]? = some old →
        s.envelope.buffer[i]? = some new →
        t.envelope.table[i]? = some (⟨new.entry, if new.edited = true then false else old.failed⟩ : TableSlot)) ∧
      t.envelope.table.length = 24 ∧ t.envelope.tableFailed = false ∧ t.envelope.generation = h.generation ∧
      t.envelope.edit = .closed ∧ t.envelope.buffer = List.replicate 24 ⟨none, false⟩ ∧
      EnvelopeFormed t.envelope.table .closed false (digCreep s.shaper) s.scanner.snapshot t.envelope ∧
      EnvelopeTold t.envelope s.scanner.snapshot ∧
      t.ports.c.commitEnded = true ∧
      ∃ u v, t = settle v ∧ QueueTaken s.sequencer.queue u v ∧
        u = { s with
          store := .idle, memory := s.memory.write (.zoneHeader h), envelope := t.envelope, alarms := u.alarms
          ports := { s.ports with
            a := { s.ports.a with listChanged := u.ports.a.listChanged }
            c := { commitEnded := true, listChanged := u.ports.c.listChanged } } } ∧
        u.alarms = alarmsAfter (envelopeReports s.envelope t.envelope s.scanner.snapshot) s

/-! ### Profiles, motion records and operator requests (04) -/

/-- A fresh MOTION-REQUEST (R69, R70, R73, R75): the four references are stored clamped to −1000..1000, with ADJUSTED
where one was clamped; the mark is stored, the hold timer runs and the state is FRESH; OPERATOR-STALE is reported gone
where it is present and all four are 0; and a motion whose reference is 0 has its permit set unless a TRIP entry
affects it. HOLD_TIMER_EXPIRY in FRESH (R72): STALE, every operator request 0, OPERATOR-STALE raised; the permits and
the outputs stand. -/
def Obligations.FreshnessFollowsRequestsAndTimer : Prop :=
  (∀ (s : State) (mark : Bool) (refs : PerMotion Half), PortFree .a s →
    (s.ports.a.freshness = .never ∨ s.ports.a.lastMark ≠ some mark) →
    let stored (m : Motion) : Int :=
      if (refs.get m).toInt < -1000 then -1000 else if 1000 < (refs.get m).toInt then 1000 else (refs.get m).toInt
    ∃ (centred : Bool) (u v t : State), (centred = true ↔ ∀ m, stored m = 0) ∧
      u = { s with ports := { s.ports with a := { s.ports.a with
        freshness := .fresh, lastMark := some mark, holdTimer := true,
        staleCondition := s.ports.a.staleCondition && !centred } } } ∧
      v = (if centred = true ∧ s.ports.a.staleCondition = true then reportGone .operatorStale .portA u else u) ∧
      (∀ m, ∃ permit : Bool, (permit = true ↔ (s.shaper.motions.get m).permit = true ∨ stored m = 0 ∧ ¬Tripped v m) ∧
        t.shaper.motions.get m = { s.shaper.motions.get m with request := stored m, permit := permit }) ∧
      t = { v with shaper := { s.shaper with motions := t.shaper.motions } } ∧
      exec (.motionRequest .a (bool8 mark) refs) s = .next (settle
        (holdAnswer .a (.motionRequest (bool8 mark) refs) 0x82
          (if PerMotion.of stored = refs.map (fun _ x => x.toInt) then .accepted else .adjusted)
          [1, motionByte (t.shaper.motions.map fun _ r => r.permit)] t))) ∧
  (∀ s : State, s.power = .running → s.ports.a.holdTimer = true →
    exec .holdTimerExpiry s = .next (settle (reportRaise .operatorStale .portA none
      { s with
        ports := { s.ports with
          a := { s.ports.a with freshness := .stale, holdTimer := false, staleCondition := true } }
        shaper := { s.shaper with motions := s.shaper.motions.map fun _ r => { r with request := 0 } } })))

/-- A repeated MOTION-REQUEST is answered REPEAT and changes nothing, whatever its references (R69, R71). -/
def Obligations.RepeatedMotionRequestChangesNothing : Prop :=
  ∀ (s : State) (mark : Bool) (refs : PerMotion Half), PortFree .a s → s.ports.a.freshness ≠ .never →
    s.ports.a.lastMark = some mark →
    exec (.motionRequest .a (bool8 mark) refs) s = .next (settle
      (holdAnswer .a (.motionRequest (bool8 mark) refs) 0x82 .repeated
        [if s.ports.a.freshness = .fresh then 1 else 2, motionByte (s.shaper.motions.map fun _ r => r.permit)] s))

/-! ### Settings writes and the requests of PARKED (R15, R27, R32, R61, R62, R64, R97, R111, R131, R142, R175, R182) -/

/-- An accepted write of each setting group: every value clamped to its range, with ADJUSTED where one was clamped,
and the store write of the record begun with the clamped values; nothing else changes, the working copy included. A
PROFILE write is accepted in PARKED, and in every mode where no effective ceiling would fall, of any motion under its
association in force or its pending one (R62). -/
def Obligations.SettingWritesBegin : Prop :=
  ∀ s : State, PortFree .c s → s.store = .idle →
    (∀ profile presence fields n w, profileOfCode profile = some n → presence.toNat < 128 →
      profileRecord n (rawProfile presence fields) = some w →
      (s.sequencer.mode = .parked ∨ ¬LowersCeiling s.shaper (withRecord s.shaper.profiles (clampRecord w))) →
      exec (.writeSettingProfile .c profile presence fields) s =
        writeBegun (.writeProfile profile presence fields) w (clampRecord w) s) ∧
    (∀ names n, associationOf names = some n →
      exec (.writeSettingAssociation .c names) s =
        writeBegun (.writeAssociation names) (.association n) (.association n) s) ∧
    (∀ channel offset scale maxStep e, s.sequencer.mode = .parked → encoderOfNumber channel.toNat = some e →
      exec (.writeSettingCalibration .c channel (.encoder offset scale maxStep)) s =
        writeBegun (.writeCalibration channel (.encoder offset scale maxStep))
          (.calEncoder e ⟨offset, scale.toNat, maxStep.toNat⟩ false)
          (.calEncoder e ⟨offset, clampNat (scaleLow e) (scaleHigh e) scale.toNat, clampNat 1 65535 maxStep.toNat⟩ false)
          s) ∧
    (∀ channel offset gain low high a, s.sequencer.mode = .parked → analogOfNumber channel.toNat = some a →
      min 4095 low.toNat < min 4095 high.toNat →
      exec (.writeSettingCalibration .c channel (.analog offset gain low high)) s =
        writeBegun (.writeCalibration channel (.analog offset gain low high))
          (.calAnalog a ⟨offset.toNat, gain.toNat, low.toNat, high.toNat⟩)
          (.calAnalog a ⟨min 4095 offset.toNat, gain.toNat, min 4095 low.toNat, min 4095 high.toNat⟩) s) ∧
    (∀ t1 t2 t3, min 1499 t2.toNat < min 1499 t1.toNat → min 1499 t3.toNat < min 1499 t2.toNat → 1 ≤ t3.toNat →
      exec (.writeSettingSupplyBands .c t1 t2 t3) s =
        writeBegun (.writeSupplyBands t1 t2 t3) (.supplyBands ⟨t1.toNat, t2.toNat, t3.toNat⟩)
          (.supplyBands ⟨min 1499 t1.toNat, min 1499 t2.toNat, min 1499 t3.toNat⟩) s) ∧
    (∀ g h o cap, min 1999 g.toNat < min 1999 h.toNat → min 1999 h.toNat < min 1999 o.toNat →
      exec (.writeSettingBoomBands .c g h o cap) s =
        writeBegun (.writeBoomBands g h o cap) (.boomBands ⟨g.toNat, h.toNat, o.toNat, cap.toNat⟩)
          (.boomBands ⟨min 1999 g.toNat, min 1999 h.toNat, min 1999 o.toNat, min 1000 cap.toNat⟩) s) ∧
    (∀ levels counts,
      exec (.writeSettingCurrentTrip .c levels counts) s =
        writeBegun (.writeCurrentTrip levels counts)
          (.currentTrip ⟨levels.map fun _ x => x.toNat, counts.map fun _ x => x.toNat⟩)
          (.currentTrip ⟨levels.map fun _ x => clampNat 100 2499 x.toNat, counts.map fun _ x => clampNat 1 255 x.toNat⟩)
          s) ∧
    (∀ body order, rawShedOrder body = some order →
      exec (.writeSettingSharing .c body) s =
        writeBegun (.writeSharing body)
          (.sharing ⟨⟨body.normal.toNat, body.low.toNat, body.sag.toNat⟩, body.weights.map fun _ x => x.toNat, order⟩)
          (.sharing ⟨⟨min 1000 body.normal.toNat, min 1000 body.low.toNat, min 1000 body.sag.toNat⟩,
            body.weights.map fun _ x => min 1000 x.toNat, order⟩) s) ∧
    (∀ restFrom restTo gain trip,
      exec (.writeSettingWalk .c restFrom restTo gain trip) s =
        writeBegun (.writeWalk restFrom restTo gain trip)
          (.walk ⟨restFrom.toNat, restTo.toNat, gain.toNat, trip.toNat⟩)
          (.walk ⟨min 359 restFrom.toNat, min 359 restTo.toNat, min 100 gain.toNat, clampNat 5 90 trip.toNat⟩) s) ∧
    (∀ confirm, exec (.writeSettingGate .c confirm) s =
      writeBegun (.writeGate confirm) (.gate confirm.toNat) (.gate (clampNat 4 80 confirm.toNat)) s) ∧
    ∀ timeout, exec (.writeSettingSequencer .c timeout) s =
      writeBegun (.writeSequencer timeout) (.sequencer timeout.toNat) (.sequencer (clampNat 2 20 timeout.toNat)) s

/-- While a store write or a zone commit is in flight, a request that would begin a write is answered BUSY and has no
effect; so is a RESTART (R27, R32, R64, R97, R111, R131, R142, R182, and in PARKED R14, R15, R53, R176). Outside
PARKED a CALIBRATION write, a ZERO-CHANNEL of an encoder channel, an EDIT-COMMIT of an open edit and a RESTART are
answered WRONG-MODE and have no effect (R14, R15, R53, R176); so is a PROFILE write, past its other checks, under
which the effective ceiling of some motion would fall, by its association in force or its pending one (R62). A PROFILE
write of a known name is answered BUSY before its fields are judged (R61). That BUSY comes before the fields of every
other settings write, and after a PROFILE presence byte with bit 7, is the model's reading (log entry 12). -/
def Obligations.WritesAreRefusedWithoutEffect : Prop :=
  (∀ (s : State) (c : Instr) (r : Request), PortFree .c s → s.store ≠ .idle → requestOf c = some (.c, r) →
    (asksForStore r = true ∨ s.sequencer.mode = .parked ∧ asksForStoreParked s r = true) →
    exec c s = .next (settle (holdAnswer .c r (kindOf r ||| 0x80) .busy [] s))) ∧
  (∀ (s : State) (c : Instr) (r : Request), PortFree .c s → s.sequencer.mode ≠ .parked → requestOf c = some (.c, r) →
    (asksForStoreParked s r = true →
      exec c s = .next (settle (holdAnswer .c r (kindOf r ||| 0x80) .wrongMode [] s))) ∧
    ∀ profile presence fields n w, r = .writeProfile profile presence fields → s.store = .idle →
      profileOfCode profile = some n → presence.toNat < 128 → profileRecord n (rawProfile presence fields) = some w →
      LowersCeiling s.shaper (withRecord s.shaper.profiles (clampRecord w)) →
      exec c s = .next (settle (holdAnswer .c r 0x8D .wrongMode [] s))) ∧
  (∀ (s : State) (profile presence : Byte) (fields : ProfileFields Half), PortFree .c s → s.store ≠ .idle →
    profile.toNat ≤ 2 → presence.toNat < 128 →
    exec (.writeSettingProfile .c profile presence fields) s =
      .next (settle (holdAnswer .c (.writeProfile profile presence fields) 0x8D .busy [] s)))

/-- What is answered BAD-ARGUMENT with no effect, past the checks that come before it: a PROFILE write of an unknown
name or with bit 7 of its presence byte, and one of COMMON with a field absent (R61, R188); an unknown association
(R64); thresholds out of order after clamping (R27); analog limits out of order after clamping (R15) and a CALIBRATION
body that is not of its channel's shape (R170); a shed order longer than four, with an entry that is no motion or a
motion twice (R97); a ZERO-CHANNEL of no encoder channel (R14); a READ-SETTING of no group, profile or channel, or
with a second byte not 00h where the group takes none (R188); a MOTION-REQUEST mark above 1, a MODE-REQUEST code above
2 and a DRIVE-STATE value above 2 (R116, R159, R188). Which check of a request comes first where no rule says is log
entry 12. -/
def Obligations.BadArgumentsAreRefused : Prop :=
  ∀ s : State,
    let refused (c : Instr) (p : Port) (r : Request) : Prop :=
      exec c s = .next (settle (holdAnswer p r (kindOf r ||| 0x80) .badArgument [] s))
    (PortFree .c s →
      (∀ profile presence fields,
        (2 < profile.toNat ∨ 128 ≤ presence.toNat ∨
          s.store = .idle ∧ profile = 0 ∧ ∃ bit < 7, presence.getLsbD bit = false) →
        refused (.writeSettingProfile .c profile presence fields) .c (.writeProfile profile presence fields)) ∧
      (∀ channel body,
        ((∃ offset scale maxStep, body = .encoder offset scale maxStep ∧ 4 < channel.toNat) ∨
          (∃ offset gain low high, body = .analog offset gain low high ∧
            (channel.toNat < 5 ∨ 9 < channel.toNat ∨
              s.sequencer.mode = .parked ∧ s.store = .idle ∧ min 4095 high.toNat ≤ min 4095 low.toNat))) →
        refused (.writeSettingCalibration .c channel body) .c (.writeCalibration channel body)) ∧
      (∀ channel value, 4 < channel.toNat → refused (.zeroChannel .c channel value) .c (.zeroChannel channel value)) ∧
      (∀ group which,
        (9 < group.toNat ∨ group = 0 ∧ 2 < which.toNat ∨ group = 2 ∧ 9 < which.toNat ∨
          group ≠ 0 ∧ group ≠ 2 ∧ which ≠ 0) →
        refused (.readSetting .c group which) .c (.readSetting group which)) ∧
      (s.store = .idle →
        (∀ names m, 2 < (names.get m).toNat →
          refused (.writeSettingAssociation .c names) .c (.writeAssociation names)) ∧
        (∀ t1 t2 t3,
          (min 1499 t1.toNat ≤ min 1499 t2.toNat ∨ min 1499 t2.toNat ≤ min 1499 t3.toNat ∨ t3.toNat = 0) →
          refused (.writeSettingSupplyBands .c t1 t2 t3) .c (.writeSupplyBands t1 t2 t3)) ∧
        (∀ g h o cap, (min 1999 h.toNat ≤ min 1999 g.toNat ∨ min 1999 o.toNat ≤ min 1999 h.toNat) →
          refused (.writeSettingBoomBands .c g h o cap) .c (.writeBoomBands g h o cap)) ∧
        ∀ body : SharingBody,
          let entries := [body.shed0, body.shed1, body.shed2, body.shed3].take body.shedLength.toNat
          (4 < body.shedLength.toNat ∨ (∃ x ∈ entries, 3 < x.toNat) ∨ ¬entries.Nodup) →
          refused (.writeSettingSharing .c body) .c (.writeSharing body))) ∧
    (∀ mark refs, PortFree .a s → 1 < mark.toNat →
      refused (.motionRequest .a mark refs) .a (.motionRequest mark refs)) ∧
    (∀ p mode, p ≠ .b → PortFree p s → 2 < mode.toNat → refused (.modeRequest p mode) p (.modeRequest mode)) ∧
    ∀ values g, PortFree .b s → 2 < (values.get g).toNat → refused (.driveState .b values) .b (.driveState values)

/-! ### Reference shaping and supply sharing (05) -/

/-- PERIOD_EXPIRY, the law of the outputs (R85, R88, R89): between consecutive periods a motion's output does not
change sign without being 0 in between, rises by at most its accel step, and falls by at most its decel step unless
its permit is cleared or its brake is not RELEASED, where it is 0 in the second case; and no output grows above its
ceiling. -/
def Obligations.PeriodRampsOutputs : Prop :=
  ∀ s : State, s.power = .running → ∃ t, exec .periodExpiry s = .next t ∧
    ∀ m, let o := (s.shaper.motions.get m).output
      let o' := (t.shaper.motions.get m).output
      let p := motionProfile s.shaper m
      (o = 0 ∨ o' = 0 ∨ o'.sign = o.sign) ∧ o'.natAbs ≤ o.natAbs + p.accel ∧
      ((s.gate.brakes.get m).state = .released → (t.shaper.motions.get m).permit = true →
        o.natAbs ≤ o'.natAbs + p.decel) ∧
      ((s.gate.brakes.get m).state ≠ .released → o' = 0) ∧ (o.natAbs ≤ p.ceiling → o'.natAbs ≤ p.ceiling)

/-- PERIOD_EXPIRY gives every motion a target that stages 1 and 2 allow it (R82 to R85), and only such a target, so
that a motion held, stale, tripped or out of service, and every motion in a STOPPING but a finished walk, has the
target 0. -/
def Obligations.PeriodTargetsAreAllowed : Prop :=
  ∀ s : State, s.power = .running → ∃ t, exec .periodExpiry s = .next t ∧
    ∀ m, TargetAllowed s m (t.shaper.motions.get m).target

/-- Stages 1 to 5 follow the effective request (R82 to R89): it is the operator's outside STOPPING, of a motion in
service with its permit, fresh and not held; creep in the last direction for a WALK, in service with its permit and not
held, that STOPPING toward DIG carries to its rest (R83); and 0 otherwise. In every state, whatever the brake, the
reversal and the dwell in hand, a motion forms from its previous output and from the target sign(r) × min(|r|, c), for
that request r and the least c of the terms of R84 that apply to it, exactly what StagesFormed gives: a motion asked the
other way, or centred with its reversal pending, keeps the target 0 until its output is 0 and loads its dwell count where
it gets there; while a dwell count stands at output 0 the target stays 0 and the count falls by one (R86, R87); at output
0 with no dwell count left the target is the one of stage 2; the output lies toward the target by the ramp (R88), and is
0 unless the brake is RELEASED (R89). The same of stages 3 and 4 alone, for any target. PERIOD_EXPIRY takes what is so
formed: the record keeps its target, reversal-pending and dwell count, or those of a motion tripped at the event. Each
profile field has its effective value: the associated profile's where present, COMMON's where not (R60). -/
def Obligations.StagesFollowTheRequest : Prop :=
  (∀ (s : State) (m : Motion) (r : Int), RequestFormed s m r → effectiveRequest s m = r) ∧
  (∀ (s : State) (m : Motion) (r : Int), RequestFormed s m r → ∃ c, IsMotionCap s m r c ∧
    let q := s.shaper.motions.get m
    StagesFormed (motionProfile s.shaper m) q.output (r.sign * (min r.natAbs c : Nat)) q.reversalPending q.dwell
      (s.gate.brakes.get m).state (formMotion s m)) ∧
  (∀ (p : Profile) (o t : Int) (pending : Bool) (dwell : Nat),
    StagesFormed p o t pending dwell .released (rampStage p o (reversalStage o t pending dwell))) ∧
  (∀ s : State, s.power = .running → ∃ t, exec .periodExpiry s = .next t ∧ ∀ m,
    let q := t.shaper.motions.get m
    let f := formMotion s m
    (q.target = f.target ∧ q.reversalPending = f.reversalPending ∧ q.dwell = f.dwell) ∨
      (q.permit = false ∧ q.output = 0 ∧ q.target = 0 ∧ q.reversalPending = false ∧ q.dwell = 0)) ∧
  ∀ (p : Profiles) (n : ProfileName), EffectiveValues p n (effectiveProfile p n) ∧
    ∀ (x : Shaper) (m : Motion), (x.motions.get m).association = n → x.profiles = p →
      motionProfile x m = effectiveProfile p n

/-- Supply sharing (R90 to R92): outputs within the budget stand, with no shed mark. Outputs above it first lose every
rise over the previous period; then motions of the shed order are cut, none of them by more than its decel step from
its previous output, until the demand is within the budget or every motion of the order with a weight has been taken.
Each is taken in its turn in the order and cut by exactly what R92 computes for it. -/
def Obligations.SharingHoldsThenSheds : Prop :=
  ∀ (w : PerMotion Nat) (order : List Motion) (b : Nat) (decel : PerMotion Nat) (prev o : PerMotion Int),
    let r := shareSupply w order b decel prev o
    (demandOf w o ≤ b → r.outputs = o ∧ ∀ m, r.marks.get m = false) ∧
    (b < demandOf w o →
      (∀ m, let held := if (prev.get m).natAbs < (o.get m).natAbs then prev.get m else o.get m
        (r.outputs.get m).natAbs ≤ (prev.get m).natAbs ∧ (r.outputs.get m).natAbs ≤ held.natAbs ∧
        ((r.outputs.get m) = 0 ∨ (r.outputs.get m).sign = held.sign) ∧
        (r.marks.get m = false → r.outputs.get m = held) ∧
        (r.marks.get m = true → m ∈ order ∧ 0 < w.get m ∧
          min held.natAbs ((prev.get m).natAbs - decel.get m) ≤ (r.outputs.get m).natAbs)) ∧
      (demandOf w r.outputs ≤ b ∨ ∀ m ∈ order, 0 < w.get m → r.marks.get m = true) ∧
      Sheds w b decel prev order
        (PerMotion.of fun m => if (prev.get m).natAbs < (o.get m).natAbs then prev.get m else o.get m)
        ⟨false, false, false, false⟩ r)

/-- PERIOD_EXPIRY publishes (R65, R79, R80, R94, R95, R140): the period number advanced; each motion's previous
output, and the output, target, reversal and dwell its stages formed, or those of a motion tripped at this event; its
last direction and shed mark; a pending association in force at output 0; the references record of these outputs; the
side references of the WALK output; the overdraw count. What it leaves: the channels, bands and zones, the integrators
but for those of HG and DG where the end of STOPPING issues an order, which takes them to 0 (R31), every setting,
the requests, the store, the memory, the reports, the seconds and the ports but for their list-changed marks. What the
blocks form is reported, and the Alarm Unit becomes what exactly those reports make of it: OVERDRAW where its condition
has changed (R94), and of each motion BRAKE-FAIL raised and gone (R107; order: log entry 9; first notification: log
entry 14). Outside STOPPING that is the whole of the state left. A motion is tripped exactly where its BRAKE-FAIL entry
is appended or re-raised; every other keeps the record and the brake formed. -/
def Obligations.PeriodPublishes : Prop :=
  (∀ s : State, s.power = .running → ∃ (t : State) (shared : Shared), exec .periodExpiry s = .next t ∧
    shared = shareSupply s.shaper.weights s.shaper.shedOrder (budget s.bands)
      (PerMotion.of fun m => (motionProfile s.shaper m).decel) (PerMotion.of fun m => (s.shaper.motions.get m).output)
      (PerMotion.of fun m => (formMotion s m).output) ∧
    t.shaper.period = s.shaper.period + 1 ∧ t.shaper.references.period = s.shaper.period + 1 ∧
    t.shaper.references.shed = shared.marks ∧
    (∀ m, t.shaper.references.outputs.get m = (t.shaper.motions.get m).output) ∧
    (∀ m, let r := s.shaper.motions.get m
      let q := t.shaper.motions.get m
      let f := formMotion s m
      let out := shared.outputs.get m
      q.request = r.request ∧ q.prevOutput = r.output ∧ q.shed = shared.marks.get m ∧
      q.lastDirection = (if out = 0 then r.lastDirection else if 0 < out then some .positive else some .negative) ∧
      (∀ n, r.pendingAssociation = some n → out = 0 → q.association = n ∧ q.pendingAssociation = none) ∧
      (r.pendingAssociation = none ∨ out ≠ 0 →
        q.association = r.association ∧ q.pendingAssociation = r.pendingAssociation) ∧
      ((q.permit = r.permit ∧ q.output = out ∧ q.target = f.target ∧ q.reversalPending = f.reversalPending ∧
          q.dwell = f.dwell) ∨
        (q.permit = false ∧ q.output = 0 ∧ q.target = 0 ∧ q.reversalPending = false ∧ q.dwell = 0))) ∧
    SidesFormed s.walk.skew s.walk.settings.gain t.shaper.motions.walk.output t.walk.walkLeft t.walk.walkRight ∧
    OverdrawCounted (decide (budget s.bands < demandOf s.shaper.weights shared.outputs)) s.shaper.overdraw
      s.shaper.overdrawCount t.shaper.overdraw t.shaper.overdrawCount ∧
    t.power = s.power ∧ t.scanner = s.scanner ∧ OrderBlanks s t ∧ t.envelope = s.envelope ∧
    t.shaper.profiles = s.shaper.profiles ∧ t.shaper.readiness = s.shaper.readiness ∧
    t.shaper.weights = s.shaper.weights ∧ t.shaper.shedOrder = s.shaper.shedOrder ∧
    t.walk = { s.walk with walkLeft := t.walk.walkLeft, walkRight := t.walk.walkRight } ∧
    t.gate.confirm = s.gate.confirm ∧ t.sequencer.timeout = s.sequencer.timeout ∧
    t.alarms.seconds = s.alarms.seconds ∧ t.alarms.driveReport = s.alarms.driveReport ∧
    t.ports.links = s.ports.links ∧ t.ports.a = { s.ports.a with listChanged := t.ports.a.listChanged } ∧
    t.ports.c = { s.ports.c with listChanged := t.ports.c.listChanged } ∧
    t.store = s.store ∧ t.memory = s.memory ∧ t.feedbackInputs = s.feedbackInputs ∧ t.pending = s.pending) ∧
  ∀ s : State, s.power = .running → BrakeLaw s →
    ∃ t base, ∃ failed : Motion → Bool, exec .periodExpiry s = .next t ∧ PeriodFormed s base failed ∧
      let reports := periodReports s base failed
      ((∀ source d, s.sequencer.mode ≠ .stopping source d) →
        t = settle (takeReports reports base) ∧ t.alarms = alarmsAfter reports s) ∧
      (AlarmListLaw s → DriveLaw s → ∀ m,
        (BrakeFailEntered s m (base.gate.brakes.get m) (failed m) →
          StoppedAtOnce (base.shaper.motions.get m) (t.shaper.motions.get m) ∧
          Dropped (base.gate.brakes.get m) (t.gate.brakes.get m)) ∧
        (¬BrakeFailEntered s m (base.gate.brakes.get m) (failed m) →
          t.shaper.motions.get m =
            { base.shaper.motions.get m with inService := (t.shaper.motions.get m).inService } ∧
          t.gate.brakes.get m = base.gate.brakes.get m))

/-! ### Brakes and run enables (06) -/

/-- PERIOD_EXPIRY hands the Brake Gate its notification (R102 to R107, R109): each brake becomes what the four steps
make of it with the target and output of the period, the release request (the target not 0 and the brake SET or
SETTING), the times under the association in force at the expiry and the stop-and-set order; a failure found has
BRAKE-FAIL of the motion active in the list, and so has every fail condition that stands at the first notification
after a reset or RESTART (R112, R113); a fail condition that ends leaves no active entry; where that entry is appended
or re-raised the motion is tripped and the brake dropped, and where it is not the brake is the one formed. That a
notification is the first one since is the model's bookkeeping (log entry 14). -/
def Obligations.PeriodNotifiesBrakes : Prop :=
  ∀ s : State, s.power = .running → BrakeLaw s → AlarmListLaw s → ∃ t, exec .periodExpiry s = .next t ∧
    ∀ m, ∃ (b : BrakeRecord) (failed : Bool), BrakeNoticed s m b failed ∧
      (t.gate.brakes.get m = b ∨ Dropped b (t.gate.brakes.get m) ∧ (t.shaper.motions.get m).permit = false) ∧
      (DriveLaw s →
        (BrakeFailEntered s m b failed →
          Dropped b (t.gate.brakes.get m) ∧ (t.shaper.motions.get m).permit = false) ∧
        (¬BrakeFailEntered s m b failed →
          t.gate.brakes.get m = b ∧ (t.shaper.motions.get m).permit = (s.shaper.motions.get m).permit)) ∧
      (BrakeFailRaised s b failed →
        ∃ e ∈ t.alarms.list, e.code = .brakeFail ∧ e.source = .motion m ∧ e.state ≠ .clearedUnack) ∧
      ((s.gate.brakes.get m).fail = true → b.fail = false →
        ∀ e ∈ t.alarms.list, e.code = .brakeFail → e.source = .motion m → e.state = .clearedUnack) ∧
      t.gate.reportDue = .none

/-- FEEDBACK_INPUT_EDGE (R101): the input takes its other level; on a running part the filter runs where that level is
not the record's feedback and has nothing to take where it is. Nothing else changes. FEEDBACK_CHANGE where a filter
runs (R101, R103 to R107): the record's feedback takes the level. Shown released in SET it sets the fail condition,
with BRAKE-FAIL raised where it was absent and the first notification after a power-on or external reset is past;
shown not released in RELEASED it drops the line, makes the brake SETTING, zeroes the motion and sets the fail
condition, with BRAKE-FAIL raised where it was absent; in every other state it changes no state. That an edge is a change
of level, that the filter runs only toward a level that is not the record's, and that a report waits after a power-on or
external reset only are the model's readings (log entry 15), as is an edge at a part that does not run (log entry 7). -/
def Obligations.FeedbackIsFilteredAndSupervised : Prop :=
  (∀ (s : State) (m : Motion),
    let level := !s.feedbackInputs.get m
    (s.power = .running → exec (.feedbackInputEdge m) s = .next (settle
      { s with
        feedbackInputs := s.feedbackInputs.set m level
        gate := { s.gate with
          brakes := s.gate.brakes.set m { s.gate.brakes.get m with
            filtering := decide (level ≠ (s.gate.brakes.get m).feedback) } } })) ∧
    (s.power ≠ .running →
      exec (.feedbackInputEdge m) s = .next { s with feedbackInputs := s.feedbackInputs.set m level })) ∧
  (∀ (s : State) (m : Motion), s.power = .running → (s.gate.brakes.get m).filtering = true →
    let level := s.feedbackInputs.get m
    let b := { s.gate.brakes.get m with feedback := level, filtering := false }
    let noted (b : BrakeRecord) : State := { s with gate := { s.gate with brakes := s.gate.brakes.set m b } }
    (b.state = .set → level = true →
      exec (.feedbackChange m) s = .next (settle
        (if b.fail = false ∧ s.gate.reportDue ≠ .reset then
          reportRaise .brakeFail (.motion m) none (noted { b with fail := true })
        else noted { b with fail := true }))) ∧
    (b.state = .released → level = false →
      let dropped := zeroMotions (onlyMotion m) (noted { b with state := .setting, count := 0, fail := true })
      exec (.feedbackChange m) s = .next (settle
        (if b.fail = false then reportRaise .brakeFail (.motion m) none dropped else dropped))) ∧
    ((b.state = .set → level = false) → (b.state = .released → level = true) →
      exec (.feedbackChange m) s = .next (settle (noted b))))

/-! ### Machine modes and generator transfer (07) -/

/-- A PARK request from Port A or C (R117 to R119, R121): in PARKED it is discarded, and waits alone in the queue
while a commit runs; in DIG and WALK it begins a stop toward PARKED; in STOPPING and TRANSFERRING it rewrites the
destination. The queue is empty after it but in the second case. The answer carries mode, destination and queue depth.
-/
def Obligations.ParkRequestStops : Prop :=
  ∀ (s : State) (p : Port), p ≠ .b → PortFree p s →
    let answered (data : List Byte) (q : Sequencer) : Host.Outcome State Fault Refusal :=
      .next (settle (holdAnswer p (.modeRequest 0) 0x83 .accepted data { s with sequencer := q }))
    (s.sequencer.mode = .parked → s.envelope.edit ≠ .committing →
      exec (.modeRequest p 0) s = answered [0, 0xFF, 0] { s.sequencer with queue := [] }) ∧
    (s.sequencer.mode = .parked → s.envelope.edit = .committing →
      exec (.modeRequest p 0) s = answered [0, 0xFF, 1] { s.sequencer with queue := [⟨.parked, p⟩] }) ∧
    (s.sequencer.mode = .dig → s.envelope.edit ≠ .committing →
      exec (.modeRequest p 0) s = answered [3, 0, 0] { s.sequencer with queue := [], mode := .stopping .dig .parked }) ∧
    (s.sequencer.mode = .walk → s.envelope.edit ≠ .committing →
      exec (.modeRequest p 0) s = answered [3, 0, 0] { s.sequencer with queue := [], mode := .stopping .walk .parked }) ∧
    (∀ source d, s.sequencer.mode = .stopping source d →
      exec (.modeRequest p 0) s = answered [3, 0, 0] { s.sequencer with queue := [], mode := .stopping source .parked }) ∧
    ∀ d, s.sequencer.mode = .transferring d →
      exec (.modeRequest p 0) s = answered [4, 0, 0] { s.sequencer with queue := [], mode := .transferring .parked }

/-- A DIG or WALK request from Port A that is not taken at once (R116): refused where the effective supply band is
LOST (DIG) or the walk permit is NG, formed without its mode condition in STOPPING and TRANSFERRING (WALK); collapsed
with an equal tail entry; QUEUE-FULL behind four entries; appended otherwise while the mode is unsettled or a commit
runs. From Port C either is refused, and from Port B every mode request. -/
def Obligations.ModeRequestsAreQueued : Prop :=
  ∀ (s : State) (request : Settled), request ≠ .parked →
    let code : Byte := settledCode request
    let allowed := (request = .dig → effectiveSupply s.bands ≠ .lost) ∧
      (request = .walk → MayWalk s ∧ (s.sequencer.mode ≠ .walk))
    let tail := s.sequencer.queue.getLast?.map QueueEntry.request
    (PortFree .a s → ¬allowed →
      exec (.modeRequest .a code) s = .next (settle (holdAnswer .a (.modeRequest code) 0x83 .notPermitted [] s))) ∧
    (PortFree .a s → allowed → tail = some request →
      exec (.modeRequest .a code) s = .next (settle (holdAnswer .a (.modeRequest code) 0x83 .accepted
        [modeCode s.sequencer.mode, destinationCode s.sequencer.mode, nat8 s.sequencer.queue.length] s))) ∧
    (PortFree .a s → allowed → tail ≠ some request → 4 ≤ s.sequencer.queue.length →
      exec (.modeRequest .a code) s = .next (settle (holdAnswer .a (.modeRequest code) 0x83 .queueFull [] s))) ∧
    (PortFree .a s → allowed → tail ≠ some request → s.sequencer.queue.length < 4 →
      (isSettled s.sequencer.mode = false ∨ s.envelope.edit = .committing) →
      exec (.modeRequest .a code) s = .next (settle (holdAnswer .a (.modeRequest code) 0x83 .accepted
        [modeCode s.sequencer.mode, destinationCode s.sequencer.mode, nat8 (s.sequencer.queue.length + 1)]
        { s with sequencer := { s.sequencer with queue := s.sequencer.queue ++ [⟨request, .a⟩] } }))) ∧
    (PortFree .c s →
      exec (.modeRequest .c code) s = .next (settle (holdAnswer .c (.modeRequest code) 0x83 .notPermitted [] s))) ∧
    (PortFree .b s →
      exec (.modeRequest .b code) s = .next (settle (holdAnswer .b (.modeRequest code) 0x83 .notPermitted [] s)))

/-- A DIG or WALK request from Port A taken at once, from an empty queue in a settled mode with no commit (R119, R121,
R125): the mode it leaves, and the transfer order issued where the arrangement is not the one asked for (kind, mark
toggled, PENDING, issue time, timer), with the DRIVE-FAULT conditions of HG and DG ended and reported gone (R160). A
DIG asked with the arrangement WALK and a cam out of rest leaves PARKED, with SEQUENCE-REFUSED of detail NOT-AT-REST
reported and entered. Nothing but what the entry's row of R121 gives changes, and the answer is ACCEPTED. That DIG in
WALK stops the walk whatever the arrangement is the model's choice (log entry 16): R121 has the row for the
arrangement WALK. -/
def Obligations.ModeRequestsAreTaken : Prop :=
  ∀ s : State, PortFree .a s → s.sequencer.queue = [] → s.envelope.edit ≠ .committing →
    let taken (request : Settled) (code : Byte) (t : State) : Prop := ∃ u, EntryTaken request s u ∧
      t = settle (holdAnswer .a (.modeRequest code) 0x83 .accepted
        [modeCode u.sequencer.mode, destinationCode u.sequencer.mode, 0] u)
    (effectiveSupply s.bands ≠ .lost → ∃ t, exec (.modeRequest .a 1) s = .next t ∧
      (s.sequencer.mode = .parked → s.sequencer.record.arrangement = .dig →
        t.sequencer.mode = .dig ∧ t.sequencer.record = s.sequencer.record) ∧
      (s.sequencer.mode = .parked → s.sequencer.record.arrangement = .walk → s.walk.bothInRest = false →
        t.sequencer.mode = .parked ∧ t.sequencer.record = s.sequencer.record ∧
        (AlarmListLaw s → s.alarms.list.length < 32 → ∃ e ∈ t.alarms.list, e.code = .sequenceRefused ∧
          e.source = .sequencer ∧ e.detail = some .notAtRest ∧ e.state = .clearedUnack)) ∧
      (s.sequencer.mode = .parked → (s.sequencer.record.arrangement = .uncertain ∨
          s.sequencer.record.arrangement = .walk ∧ s.walk.bothInRest = true) →
        t.sequencer.mode = .transferring .dig ∧ t.sequencer.record = issuedRecord s .dig) ∧
      (s.sequencer.mode = .dig → t.sequencer.mode = .dig ∧ t.sequencer.record = s.sequencer.record) ∧
      (s.sequencer.mode = .walk →
        t.sequencer.mode = .stopping .walk .dig ∧ t.sequencer.record = s.sequencer.record) ∧
      (isSettled s.sequencer.mode = true → t.sequencer.queue = [] ∧ taken .dig 1 t)) ∧
    (MayWalk s → s.sequencer.mode = .parked ∨ s.sequencer.mode = .dig → ∃ t, exec (.modeRequest .a 2) s = .next t ∧
      (s.sequencer.mode = .parked → s.sequencer.record.arrangement = .walk →
        t.sequencer.mode = .walk ∧ t.sequencer.record = s.sequencer.record) ∧
      (s.sequencer.mode = .parked → s.sequencer.record.arrangement ≠ .walk →
        t.sequencer.mode = .transferring .walk ∧ t.sequencer.record = issuedRecord s .walk) ∧
      (s.sequencer.mode = .dig →
        t.sequencer.mode = .stopping .dig .walk ∧ t.sequencer.record = s.sequencer.record) ∧
      t.sequencer.queue = [] ∧ taken .walk 2 t)

/-- STOPPING completes at a period end where every brake is SET and the targets and outputs of the source mode's
motions are 0 (R123, R124): toward PARKED in PARKED; toward WALK with an order TO-WALK where the permit without its
mode condition is OK, and back in DIG with SEQUENCE-REFUSED otherwise; toward DIG with an order TO-DIG where both cams
are in rest, and back in WALK with SEQUENCE-REFUSED otherwise. Of any PERIOD_EXPIRY in STOPPING: where a target or an
output of the period is not 0 for a motion of the source mode, or a brake is not SET, the mode stays, the queue and
the arrangement record with it (R123); otherwise the stop ends so, and the waiting entries are taken from the mode it
leaves (R119), from the state that the reports of the period leave (PeriodPublishes). An order issued so ends the
DRIVE-FAULT conditions of HG and DG, with their reports (R160). The order of the reports of the period and of the
DRIVE-FAULT conditions is the model's choice (log entry 9). That a source equal to its destination ends alike is
the model's choice (log entry 16): R124 has its rows for DIG from WALK and WALK from DIG. -/
def Obligations.StoppingCompletes : Prop :=
  (∀ (s : State) (source : Working) (d : Settled), s.power = .running → s.sequencer.mode = .stopping source d →
    s.sequencer.queue = [] → s.gate.reportDue = .none → AlarmListLaw s → s.alarms.list.length ≤ 30 →
    (∀ m, (s.gate.brakes.get m).state = .set ∧ (s.gate.brakes.get m).fail = false) →
    (∀ m, (s.shaper.motions.get m).output = 0 ∧ (formMotion s m).target = 0) →
    ∃ t, exec .periodExpiry s = .next t ∧ t.sequencer.queue = [] ∧
      (d = .parked → t.sequencer.mode = .parked ∧ t.sequencer.record = s.sequencer.record) ∧
      (d = .walk → MayWalk s →
        t.sequencer.mode = .transferring .walk ∧ t.sequencer.record = issuedRecord s .walk) ∧
      (d = .walk → ¬MayWalk s → t.sequencer.mode = .dig ∧ t.sequencer.record = s.sequencer.record ∧
        ∃ e ∈ t.alarms.list, e.code = .sequenceRefused ∧ e.source = .sequencer ∧ e.detail = some .walk) ∧
      (d = .dig → s.walk.bothInRest = true →
        t.sequencer.mode = .transferring .dig ∧ t.sequencer.record = issuedRecord s .dig) ∧
      (d = .dig → s.walk.bothInRest = false → t.sequencer.mode = .walk ∧ t.sequencer.record = s.sequencer.record ∧
        ∃ e ∈ t.alarms.list, e.code = .sequenceRefused ∧ e.source = .sequencer ∧ e.detail = some .notAtRest)) ∧
  ∀ (s : State) (source : Working) (d : Settled), s.power = .running → s.sequencer.mode = .stopping source d →
    ∃ t, exec .periodExpiry s = .next t ∧
      let stands := ∀ m, (source = .dig ↔ m ≠ .walk) → (formMotion s m).target = 0 ∧
        (sharePeriod s (PerMotion.of (formMotion s))).outputs.get m = 0 ∧ (t.gate.brakes.get m).state = .set
      (¬stands → t.sequencer = { s.sequencer with walkPermit := t.sequencer.walkPermit }) ∧
      (stands → ∃ n u v, t = settle v ∧ StopEnded d n u ∧ QueueTaken s.sequencer.queue u v ∧
        n.sequencer = s.sequencer ∧ n.bands = s.bands ∧ n.envelope = s.envelope ∧
        n.walk.bothInRest = s.walk.bothInRest ∧ n.alarms.seconds = s.alarms.seconds ∧
        (BrakeLaw s → ∃ base failed, PeriodFormed s base failed ∧
          n = takeReports (periodReports s base failed) base ∧ n.alarms = alarmsAfter (periodReports s base failed) s)) ∧
      (¬stands → BrakeLaw s → ∃ base failed, PeriodFormed s base failed ∧
        t = settle (takeReports (periodReports s base failed) base))

/-- An accepted TRANSFER-REPORT from Port B, on a PENDING order with its mark (R126 to R128). DONE, with no entry
waiting: the arrangement asked for, the order DONE by REPORT, the timer stopped, the transfer-failed mark clear, and
the mode at its destination; with entries waiting, they are taken from that state (R119). FAILED: UNCERTAIN, FAILED by
REPORT, the timer stopped, the mark set, PARKED with the queue empty, and TRANSFER-FAIL active in the list, with every
permit cleared and every output 0 where it was not active before. TRANSFER_TIMER_EXPIRY on a PENDING order ends it as
a report of FAILED does, but by TIMEOUT (R129). Each end forms again the affected motions of the active CHANNEL-FAULT
entries of HG-CURRENT and DG-CURRENT under the new arrangement (R156), and reports TRANSFER-FAIL and then the
DRIVE-FAULT conditions, no longer blanked, each with the motions that arrangement feeds (R160; the order: log entry
9); nothing else changes. A TRANSFER-REPORT that ends no order changes nothing (R126): MISMATCH for another mark on a
PENDING order, LATE for the mark of an order failed by its timeout, NOT-PERMITTED for every other report, and
BAD-ARGUMENT for a mark or a result outside its list. -/
def Obligations.TransferOrdersEnd : Prop :=
  ((∀ (s : State) (d : Settled) (kind : Working), PortFree .b s → s.sequencer.mode = .transferring d →
    s.sequencer.record.order = .pending → s.sequencer.record.kind = some kind → AlarmListLaw s →
    let mark := bool8 s.sequencer.record.mark
    (s.sequencer.queue = [] → ∃ t, exec (.transferReport .b mark 0) s = .next t ∧
      t.sequencer = { s.sequencer with
        mode := (match d with
          | .parked => .parked
          | .dig => .dig
          | .walk => .walk)
        walkPermit := t.sequencer.walkPermit
        record := { s.sequencer.record with
          arrangement := (match kind with
            | .dig => .dig
            | .walk => .walk)
          order := .done, endedBy := some .report, failedMark := false, timer := none } } ∧
      (s.sequencer.record.failedMark = true →
        ∀ e ∈ t.alarms.list, e.code = .transferFail → e.state = .clearedUnack) ∧
      (t.ports.links.b.held.map fun h => (h.response.result, h.response.data)) =
        some (.accepted, [2, mark, match kind with
          | .dig => 0
          | .walk => 1])) ∧
    (∃ u v, exec (.transferReport .b mark 0) s = .next (settle (holdAnswer .b (.transferReport mark 0) 0x8A .accepted
        [orderStateCode v.sequencer.record.order, bool8 v.sequencer.record.mark,
          arrangementCode v.sequencer.record.arrangement] v)) ∧
      QueueTaken s.sequencer.queue u v ∧
      u.sequencer = { s.sequencer with
        mode := (match d with
          | .parked => .parked
          | .dig => .dig
          | .walk => .walk)
        record := { s.sequencer.record with
          arrangement := (match kind with
            | .dig => .dig
            | .walk => .walk)
          order := .done, endedBy := some .report, failedMark := false, timer := none } } ∧
      u.walk.bothInRest = s.walk.bothInRest ∧ u.bands = s.bands ∧ u.envelope = s.envelope ∧ OrderDone kind d s u) ∧
    ∃ t u, exec (.transferReport .b mark 1) s = .next t ∧
      OrderFailedBy .report s t ∧ OrderFailed .report s u ∧
      t = settle (holdAnswer .b (.transferReport mark 1) 0x8A .accepted [3, mark, 2] u) ∧
      (t.ports.links.b.held.map fun h => (h.response.result, h.response.data)) = some (.accepted, [3, mark, 2])) ∧
  (∀ s : State, s.power = .running → s.sequencer.record.order = .pending → AlarmListLaw s →
    ∃ t u, exec .transferTimerExpiry s = .next t ∧ OrderFailedBy .timeout s t ∧
      OrderFailed .timeout s u ∧ t = settle u)) ∧
  (∀ (s : State) (mark : Bool) (markByte result : Byte), PortFree .b s →
    let refused (code : ResultCode) : Prop :=
      exec (.transferReport .b markByte result) s =
        .next (settle (holdAnswer .b (.transferReport markByte result) 0x8A code [] s))
    let r := s.sequencer.record
    ((1 < markByte.toNat ∨ 1 < result.toNat) → refused .badArgument) ∧
    (markByte = bool8 mark → result.toNat ≤ 1 →
      (r.order = .pending → mark ≠ r.mark → refused .mismatch) ∧
      (r.order = .failed → r.endedBy = some .timeout → mark = r.mark → refused .late) ∧
      (r.order = .failed → (r.endedBy ≠ some .timeout ∨ mark ≠ r.mark) → refused .notPermitted) ∧
      (r.order = .none ∨ r.order = .done → refused .notPermitted)))

/-! ### Walking (08) -/

/-- SCAN_COMPLETION at the Walk Tracker (R134 to R139): with both cams VALID the positions are those published, the
skew their difference clamped, the walk position half their sum floored, the steps that over 360 truncated; with a cam
not VALID all of them stand. A cam is in rest where it is VALID and its angle in the rest sector. SKEW is present from
the trip on and until the skew falls below half of it; the side references stand, or are 0 with a WALK output of 0. -/
def Obligations.ScanTracksTheWalk : Prop :=
  ∀ (s : State) (conversions : PerAnalog Sample), s.power = .running →
    ∃ t snap, exec (.scanCompletion conversions) s = .next t ∧ t.scanner.snapshot = some snap ∧
      let l := snap.encoders.camLeft
      let r := snap.encoders.camRight
      (l.state = .valid → r.state = .valid →
        t.walk.leftPosition = l.value ∧ t.walk.rightPosition = r.value ∧
        t.walk.skew = max (-9999) (min 9999 (l.value - r.value)) ∧
        2 * t.walk.walkPosition ≤ l.value + r.value ∧ l.value + r.value < 2 * t.walk.walkPosition + 2 ∧
        t.walk.steps = Int.tdiv t.walk.walkPosition 360) ∧
      (l.state ≠ .valid ∨ r.state ≠ .valid →
        t.walk.leftPosition = s.walk.leftPosition ∧ t.walk.rightPosition = s.walk.rightPosition ∧
        t.walk.skew = s.walk.skew ∧ t.walk.walkPosition = s.walk.walkPosition ∧ t.walk.steps = s.walk.steps) ∧
      t.walk.leftAngle = (if l.state = .valid then snap.camLeftAngle else s.walk.leftAngle) ∧
      t.walk.rightAngle = (if r.state = .valid then snap.camRightAngle else s.walk.rightAngle) ∧
      (t.walk.leftInRest = true ↔ l.state = .valid ∧ InRest s.walk.settings t.walk.leftAngle) ∧
      (t.walk.rightInRest = true ↔ r.state = .valid ∧ InRest s.walk.settings t.walk.rightAngle) ∧
      (t.walk.bothInRest = true ↔ t.walk.leftInRest = true ∧ t.walk.rightInRest = true) ∧
      (s.walk.skewCondition = false → (t.walk.skewCondition = true ↔ s.walk.settings.trip ≤ t.walk.skew.natAbs)) ∧
      (s.walk.skewCondition = true → (t.walk.skewCondition = true ↔ s.walk.settings.trip / 2 ≤ t.walk.skew.natAbs)) ∧
      (t.walk.walkLeft = s.walk.walkLeft ∧ t.walk.walkRight = s.walk.walkRight ∨
        t.walk.walkLeft = 0 ∧ t.walk.walkRight = 0 ∧ t.shaper.motions.walk.output = 0) ∧
      t.walk.settings = s.walk.settings

/-! ### The alarm list (09) -/

/-- What a TRIP entry appended or re-raised does (R74, R96, R108, R130, R155): each affected motion's permit cleared,
its output, target and dwell 0 and its reversal withdrawn; the references record published again with its number and
shed marks; the side references 0 if WALK is affected; each affected brake dropped; and, of all four, the queue
emptied and the mode sent toward PARKED. Nothing else changes; an empty set hands nothing on. A report hands its
effects on exactly there (R149 to R151): a raise of a TRIP code with no entry or one in CLEARED-UNACK and every
momentary raise of one, after the entry, to the motions it affects under the arrangement as it stands; a raise against
an active entry, a report of any other class and a condition gone change the unit and the list-changed marks alone.
Ports A and C are told exactly where the list or the overrun mark has changed or an entry has been re-raised (R162). -/
def Obligations.TripTakesEffectAtOnce : Prop :=
  (∀ (s : State) (ms : PerMotion Bool),
    let t := tripEffects ms s
    ((∀ m, ms.get m = false) → t = s) ∧
    ((∃ m, ms.get m = true) →
      (∀ m, (ms.get m = true → StoppedAtOnce (s.shaper.motions.get m) (t.shaper.motions.get m) ∧
          Dropped (s.gate.brakes.get m) (t.gate.brakes.get m)) ∧
        (ms.get m = false → t.shaper.motions.get m = s.shaper.motions.get m ∧
          t.gate.brakes.get m = s.gate.brakes.get m) ∧
        t.shaper.references.outputs.get m = (t.shaper.motions.get m).output) ∧
      (ms.walk = true → t.walk = { s.walk with walkLeft := 0, walkRight := 0 }) ∧
      (ms.walk = false → t.walk = s.walk) ∧
      ((∀ m, ms.get m = true) → TrippedTo s.sequencer.mode t.sequencer.mode ∧
        t.sequencer = { s.sequencer with queue := [], mode := t.sequencer.mode }) ∧
      ((∃ m, ms.get m = false) → t.sequencer = s.sequencer) ∧
      t = { s with
        shaper := { s.shaper with
          motions := t.shaper.motions
          references := { s.shaper.references with outputs := t.shaper.references.outputs } }
        gate := { s.gate with brakes := t.gate.brakes }
        walk := t.walk
        sequencer := t.sequencer })) ∧
  ∀ (s : State) (c : AlarmCode) (src : Source) (d : Option Detail),
    let arrangement := s.sequencer.record.arrangement
    let ms := affectedMotions arrangement c src
    let raised := (raiseHeld s.alarms arrangement c src d).unit
    let momentary := (raiseMomentary s.alarms arrangement c src d).unit
    let gone := (conditionGone s.alarms c src).unit
    let again (e : AlarmEntry) : Prop := findEntry s.alarms.list c src = some e
    let noted (u : Alarms) (reRaised : Prop) (effects : State → State) (t : State) : Prop := ∃ changed : Bool,
      (changed = true ↔ u.list ≠ s.alarms.list ∨ u.overrun ≠ s.alarms.overrun ∨ reRaised) ∧
      t = effects { s with
        alarms := u
        ports := { s.ports with
          a := { s.ports.a with listChanged := s.ports.a.listChanged || changed }
          c := { s.ports.c with listChanged := s.ports.c.listChanged || changed } } }
    (alarmClass c src = .trip →
      ((∀ e ∈ s.alarms.list, e.code = c → e.source = src → e.state = .clearedUnack) →
        noted raised (∃ e, again e) (tripEffects ms) (reportRaise c src d s)) ∧
      ((∃ e ∈ s.alarms.list, e.code = c ∧ e.source = src) →
        (∀ e ∈ s.alarms.list, e.code = c → e.source = src → e.state ≠ .clearedUnack) →
        noted raised False id (reportRaise c src d s)) ∧
      noted momentary (∃ e, again e) (tripEffects ms) (reportMomentary c src d s)) ∧
    (alarmClass c src ≠ .trip →
      noted raised (∃ e, again e ∧ e.state = .clearedUnack) id (reportRaise c src d s) ∧
        noted momentary (∃ e, again e) id (reportMomentary c src d s)) ∧
    noted gone False id (reportGone c src s)

/-- The Alarm Unit on a raise, a momentary raise and a condition gone, where the list has an entry of that code and
source, whatever the entries about it (R149 to R151): the table of each rule, every other entry and every place
standing. The Alarm Unit on a raise of a code and source with no entry (R149, R151, R152): a new entry behind the
others; in a list of 32 a WARN one is dropped, a restraining one takes the place of the oldest WARN entry, and either
sets the overrun mark. A condition gone with no entry changes nothing in the list (R150). A WARN condition that is
present without an entry, because its raise was dropped or its active entry evicted, has none until its block reports it
gone and then raises it again (R152): a raise meanwhile, as with another detail, changes nothing, and so for every
sequence of reports without one of it gone. Which those conditions are the unit keeps (log entry 21): one dropped or
evicted while present joins them, one reported gone or entered leaves them. -/
def Obligations.AlarmListFollowsReports : Prop :=
  (∀ (a : Alarms) (arr : Arrangement) (e : AlarmEntry) (l₁ l₂ : List AlarmEntry) (d : Option Detail),
    a.list = l₁ ++ e :: l₂ → (∀ x ∈ l₁ ++ l₂, x.code = e.code → x.source ≠ e.source) →
    let again (st : AlarmState) : AlarmEntry := { e with
      state := st, occurrences := min 255 (e.occurrences + 1), affected := affectedMotions arr e.code e.source
      detail := d, changedAt := a.seconds }
    let raised := (raiseHeld a arr e.code e.source d).unit.list
    let gone := (conditionGone a e.code e.source).unit.list
    (e.state = .clearedUnack → raised = l₁ ++ again .activeUnack :: l₂) ∧
    (e.state ≠ .clearedUnack → e.detail ≠ d → raised = l₁ ++ { e with detail := d, changedAt := a.seconds } :: l₂) ∧
    (e.state ≠ .clearedUnack → e.detail = d → raised = a.list) ∧
    (raiseMomentary a arr e.code e.source d).unit.list = l₁ ++ again .clearedUnack :: l₂ ∧
    (e.state = .activeUnack → gone = l₁ ++ { e with state := .clearedUnack, changedAt := a.seconds } :: l₂) ∧
    (e.state = .activeAck → gone = l₁ ++ l₂) ∧
    (e.state = .clearedUnack → gone = a.list) ∧
    (raiseHeld a arr e.code e.source d).unit.lost = a.lost ∧
    (raiseMomentary a arr e.code e.source d).unit.lost = a.lost ∧ (conditionGone a e.code e.source).unit.lost = a.lost) ∧
  (∀ (a : Alarms) (arr : Arrangement) (c : AlarmCode) (src : Source) (d : Option Detail),
    (∀ x ∈ a.list, x.code = c → x.source ≠ src) →
    let fresh (st : AlarmState) : AlarmEntry :=
      { code := c, source := src, detail := d, cls := alarmClass c src, affected := affectedMotions arr c src, state := st,
        raisedAt := a.seconds, changedAt := a.seconds, occurrences := 1 }
    let present : Prop := alarmClass c src = .warn ∧ (c, src) ∈ a.lost
    let gone := (conditionGone a c src).unit
    gone = { a with lost := gone.lost } ∧ (∀ p, p ∈ gone.lost ↔ p ∈ a.lost ∧ p ≠ (c, src)) ∧
    (present → (raiseHeld a arr c src d).unit = a) ∧
    ∀ (st : AlarmState) (u : Alarms),
      (st = .activeUnack ∧ ¬present ∧ u = (raiseHeld a arr c src d).unit ∨
        st = .clearedUnack ∧ u = (raiseMomentary a arr c src d).unit) →
      (a.list.length < 32 → u.list = a.list ++ [fresh st] ∧ u.overrun = a.overrun ∧
        ∀ p, p ∈ u.lost ↔ p ∈ a.lost ∧ p ≠ (c, src)) ∧
      (32 ≤ a.list.length → alarmClass c src = .warn → u = { a with overrun := true, lost := u.lost } ∧
        ∀ p, p ∈ u.lost ↔ p ∈ a.lost ∨ st = .activeUnack ∧ p = (c, src)) ∧
      ∀ l₁ w l₂, 32 ≤ a.list.length → alarmClass c src ≠ .warn → a.list = l₁ ++ w :: l₂ → w.cls = .warn →
        (∀ x ∈ l₁, x.cls ≠ .warn) → u.list = l₁ ++ l₂ ++ [fresh st] ∧ u.overrun = true ∧
          ∀ p, p ∈ u.lost ↔ p ∈ a.lost ∨ w.state ≠ .clearedUnack ∧ p = (w.code, w.source)) ∧
  ∀ (s : State) (c : AlarmCode) (src : Source) (reports : List Report),
    alarmClass c src = .warn → (c, src) ∈ s.alarms.lost → (∀ e ∈ s.alarms.list, e.code = c → e.source ≠ src) →
    (∀ r ∈ reports, r ≠ .gone c src ∧ ∀ d, r ≠ .momentary c src d) →
    let t := takeReports reports s
    (c, src) ∈ t.alarms.lost ∧ ∀ e ∈ t.alarms.list, e.code = c → e.source ≠ src

/-- A full list has room for every restraining condition (09, A full list): a raise of class TRIP, HOLD or LIMIT
always leaves an active entry of its code and source, or of a momentary one an entry in CLEARED-UNACK, in a list that
keeps the laws of the list. -/
def Obligations.RestrainingRaiseIsListed : Prop :=
  ∀ (s : State) (c : AlarmCode) (src : Source) (d : Option Detail), AlarmListLaw s → inCodeTable c src = true →
    alarmClass c src ≠ .warn →
    (AlarmListLaw (reportRaise c src d s) ∧
      ∃ e ∈ (reportRaise c src d s).alarms.list, e.code = c ∧ e.source = src ∧ e.state ≠ .clearedUnack) ∧
    (AlarmListLaw (reportMomentary c src d s) ∧
      ∃ e ∈ (reportMomentary c src d s).alarms.list, e.code = c ∧ e.source = src ∧ e.state = .clearedUnack)

/-- STOP-ALL from Port A or C (R151, R154, R155): an entry of its port in CLEARED-UNACK; every permit cleared, every
output 0, every brake dropped, the queue emptied and the mode sent toward PARKED, with the run-enable lines off; the
answer is ACCEPTED with no data. -/
def Obligations.StopAllStopsEverything : Prop :=
  ∀ (s : State) (p : Port) (src : Source), (p = .a ∧ src = .portA ∨ p = .c ∧ src = .portC) → PortFree p s →
    AlarmListLaw s → ∃ t, exec (.stopAll p) s = .next t ∧
      t = settle (holdAnswer p .stopAll 0x84 .accepted [] (reportMomentary .stopAll src none s)) ∧
      (∃ e ∈ t.alarms.list, e.code = .stopAll ∧ e.source = src ∧ e.state = .clearedUnack ∧ e.cls = .trip ∧
        e.affected = ⟨true, true, true, true⟩) ∧
      (∀ m, ∃ after, StoppedAtOnce (s.shaper.motions.get m) after ∧
        t.shaper.motions.get m = { after with inService := (t.shaper.motions.get m).inService } ∧
        Dropped (s.gate.brakes.get m) (t.gate.brakes.get m) ∧ t.shaper.references.outputs.get m = 0 ∧
        t.lines.brake.get m = false ∧ t.lines.runEnable.get m = false) ∧
      t.walk.walkLeft = 0 ∧ t.walk.walkRight = 0 ∧
      TrippedTo s.sequencer.mode t.sequencer.mode ∧ t.sequencer.queue = [] ∧
      t.sequencer.record = s.sequencer.record ∧ t.lines.horn = true

/-- ACK-ALARM from Port A (R153): of the entry named, or of every entry for ALL, an active one becomes ACTIVE-ACK and
one in CLEARED-UNACK leaves the list; every other entry and every place stands; no permit is set; where the list
changes Ports A and C have their list-changed marks set (R162). Where no entry is named the answer is NOT-FOUND, and
BAD-ARGUMENT for a code or source outside its list. -/
def Obligations.AcknowledgementFollowsTheTable : Prop :=
  ∀ (s : State) (code source : Byte), PortFree .a s →
    let after (e : AlarmEntry) : Option AlarmEntry :=
      match e.state with
      | .activeUnack => some { e with state := .activeAck, changedAt := s.alarms.seconds }
      | .activeAck => some e
      | .clearedUnack => none
    let taken (named : AlarmEntry → Bool) : Prop :=
      ∃ t, exec (.ackAlarm .a code source) s =
          .next (settle (holdAnswer .a (.ackAlarm code source) 0x85 .accepted [] t)) ∧
        t.alarms.list = s.alarms.list.filterMap (fun e => if named e = true then after e else some e) ∧
        t.alarms = { s.alarms with
          list := t.alarms.list, hold := t.alarms.hold, limit := t.alarms.limit, horn := t.alarms.horn } ∧
        t = { s with
          alarms := t.alarms
          ports := { s.ports with
            a := { s.ports.a with listChanged := t.ports.a.listChanged }
            c := { s.ports.c with listChanged := t.ports.c.listChanged } } } ∧
        (t.ports.a.listChanged = true ↔
          s.ports.a.listChanged = true ∨ ∃ e ∈ s.alarms.list, named e = true ∧ e.state ≠ .activeAck) ∧
        (t.ports.c.listChanged = true ↔
          s.ports.c.listChanged = true ∨ ∃ e ∈ s.alarms.list, named e = true ∧ e.state ≠ .activeAck)
    let refused (result : ResultCode) : Prop := exec (.ackAlarm .a code source) s =
      .next (settle (holdAnswer .a (.ackAlarm code source) 0x85 result [] s))
    (code = 0xFF → source = 0xFF → taken fun _ => true) ∧
    (∀ c src, alarmCodeOfCode code = some c → sourceOfCode source = some src →
      ((∃ e ∈ s.alarms.list, e.code = c ∧ e.source = src) →
        taken fun e => decide (e.code = c) && decide (e.source = src)) ∧
      ((∀ e ∈ s.alarms.list, e.code = c → e.source ≠ src) → refused .notFound)) ∧
    (¬(code = 0xFF ∧ source = 0xFF) → (alarmCodeOfCode code = none ∨ sourceOfCode source = none) → refused .badArgument)

/-- DRIVE-STATE from Port B (R67, R68, R159): the three values become the readiness of the groups; DRIVE-FAULT of a
group is present exactly where its value is FAULT and, for HG and DG, no order is PENDING, with an active entry where
it appears, affecting the motions the group feeds, and reported gone, with no active entry left, where it ends; the
Alarm Unit becomes what exactly those reports make of it (their order: log entry 9); a motion taken out of service
with its output not 0 is zeroed and its brake dropped, its permit standing unless a DRIVE-FAULT trips it. That its
target becomes 0 too and that the references are published again there is the model's reading (log entry 13). The
answer shows the motions in service. The whole state is what those reports make of the blocks so formed
(ReadinessFormed), so that the channels, bands, zones, settings, requests, store, memory, seconds and the ports but for
the answer and the list-changed marks stand. Motion by motion: tripped, with its permit cleared, its output 0 and its
brake dropped, exactly where a DRIVE-FAULT that affects it appears and its entry is appended or re-raised; every other
keeps the record and the brake formed, so its permit, and its output and brake too unless it leaves service. -/
def Obligations.DriveStateIsTaken : Prop :=
  ∀ (s : State) (values : PerGroup Byte) (r : PerGroup Readiness), PortFree .b s → DriveLaw s → AlarmListLaw s →
    readinessOfCode values.hg = some r.hg → readinessOfCode values.dg = some r.dg → readinessOfCode values.sg = some r.sg →
    ∃ t base, exec (.driveState .b values) s = .next t ∧ ReadinessFormed s base r ∧
      t = settle (holdAnswer .b (.driveState values) 0x8B .accepted
        [motionByte (t.shaper.motions.map fun _ x => x.inService)]
        (takeReports (driveFaultReports s.alarms.driveFault base.alarms.driveFault) base)) ∧
      t.shaper.readiness = r ∧ DriveLaw t ∧
      (∀ g, t.alarms.driveFault.get g = true → s.alarms.driveFault.get g = false →
        (∃ e ∈ t.alarms.list, e.code = .driveFault ∧ e.source = .group g ∧ e.state ≠ .clearedUnack) ∧
        ((∀ e ∈ s.alarms.list, e.code = .driveFault → e.source = .group g → e.state = .clearedUnack) →
          ∃ e ∈ t.alarms.list, e.code = .driveFault ∧ e.source = .group g ∧ e.state = .activeUnack ∧ e.cls = .trip ∧
            e.affected = fedBy g s.sequencer.record.arrangement)) ∧
      (∀ g, t.alarms.driveFault.get g = false → s.alarms.driveFault.get g = true →
        ∀ e ∈ t.alarms.list, e.code = .driveFault → e.source = .group g → e.state = .clearedUnack) ∧
      t.alarms = alarmsAfter (driveFaultReports s.alarms.driveFault t.alarms.driveFault)
        { s with alarms := { s.alarms with driveReport := r, driveFault := t.alarms.driveFault } } ∧
      (∀ m, (s.shaper.motions.get m).output ≠ 0 → MayServe s m → ¬MayServe t m →
        (t.shaper.motions.get m).output = 0 ∧ (t.shaper.motions.get m).target = 0 ∧
        (t.shaper.motions.get m).dwell = 0 ∧ (t.shaper.motions.get m).reversalPending = false ∧
        t.shaper.references.outputs.get m = 0 ∧ ¬Lifted (t.gate.brakes.get m)) ∧
      (∀ m,
        (DriveFaultTrips s base m →
          StoppedAtOnce (base.shaper.motions.get m) (t.shaper.motions.get m) ∧ ¬Lifted (t.gate.brakes.get m) ∧
          (BrakeLaw s → Dropped (base.gate.brakes.get m) (t.gate.brakes.get m))) ∧
        (¬DriveFaultTrips s base m →
          t.shaper.motions.get m =
            { base.shaper.motions.get m with inService := (t.shaper.motions.get m).inService } ∧
          t.gate.brakes.get m = base.gate.brakes.get m ∧
          (t.shaper.motions.get m).permit = (s.shaper.motions.get m).permit ∧
          (MayServe t m ∨ (s.shaper.motions.get m).output = 0 ∨ ¬MayServe s m →
            (t.shaper.motions.get m).output = (s.shaper.motions.get m).output ∧
            t.gate.brakes.get m = s.gate.brakes.get m))) ∧
      t.sequencer.record = s.sequencer.record ∧ t.sequencer.mode = s.sequencer.mode ∧
      t.sequencer.queue = s.sequencer.queue ∧
      (t.ports.links.b.held.map fun h => (h.response.result, h.response.data)) =
        some (.accepted, [motionByte (t.shaper.motions.map fun _ x => x.inService)])

/-! ### Station ports (10) and the line (12) -/

/-- What a port refuses before any owner (R169, R170, the request catalogue): a kind outside the catalogue is answered
UNKNOWN-KIND and a request the catalogue does not give the port NOT-PERMITTED, with no effect; a request that comes
while the port holds one is discarded without a response, and only a frame in progress there ends. -/
def Obligations.PortRefusesBeforeOwners : Prop :=
  ∀ (s : State) (p : Port),
    (∀ kind, PortFree p s → (kind.toNat = 0 ∨ 0x15 < kind.toNat) →
      exec (.unknownKindRequest p kind) s =
        .next (settle (holdAnswer p (.unknownKind kind) (kind ||| 0x80) .unknownKind [] s))) ∧
    ∀ (c : Instr) (r : Request), requestOf c = some (p, r) →
      (PortFree p s → (∀ kind, r ≠ .unknownKind kind) → mayCarry p r = false →
        exec c s = .next (settle (holdAnswer p r (kindOf r ||| 0x80) .notPermitted [] s))) ∧
      (s.power = .running → (s.ports.links.get p).held.isSome = true →
        exec c s = .next (settle { s with ports := { s.ports with
          links := s.ports.links.set p { s.ports.links.get p with frame := none } } }))

/-- The reading requests (R2, R49, R161, R173, R174, R177, R179), each on the ports of its row, answer from the state
as it stands and change nothing but the marks their reading clears: READ-STATUS of Port C the commit-ended mark it
shows, READ-ALARMS the reader's list-changed mark. READ-MEASUREMENTS before the first snapshot is BUSY; arguments
outside their ranges are BAD-ARGUMENT; READ-ZONE of a buffer with no edit is WRONG-MODE, judged
after its arguments (log entry 12), and the buffer's answer has no byte but the fields named (log entry 19). That a
flag's byte, the failed and the edited mark among them, is 1 for set and 0 for clear is the model's choice (log entry
22). -/
def Obligations.ReadsAnswerTheState : Prop :=
  ∀ s : State,
    (∀ p, p ≠ .c → PortFree p s → exec (.readStatus p) s =
      .next (settle (holdAnswer p .readStatus 0x81 .accepted (statusRecord s false) s))) ∧
    (PortFree .c s → exec (.readStatus .c) s = .next (settle (holdAnswer .c .readStatus 0x81 .accepted
      (statusRecord s s.ports.c.commitEnded)
      { s with ports := { s.ports with c := { s.ports.c with commitEnded := false } } }))) ∧
    (∀ p, p ≠ .b → PortFree p s →
      (∀ snap, s.scanner.snapshot = some snap → exec (.readMeasurements p) s =
        .next (settle (holdAnswer p .readMeasurements 0x88 .accepted (snapshotBytes snap) s))) ∧
      (s.scanner.snapshot = none → exec (.readMeasurements p) s =
        .next (settle (holdAnswer p .readMeasurements 0x88 .busy [] s)))) ∧
    (∀ p, p ≠ .a → PortFree p s → exec (.readReferences p) s =
      .next (settle (holdAnswer p .readReferences 0x89 .accepted (referencesRecord s) s))) ∧
    (∀ p start count, p ≠ .b → PortFree p s →
      (1 ≤ count.toNat → count.toNat ≤ 8 → start.toNat ≤ 31 →
        exec (.readAlarms p start count) s = .next (settle (holdAnswer p (.readAlarms start count) 0x86 .accepted
          (alarmsData s.alarms start.toNat count.toNat)
          { s with ports := { s.ports with
            a := { s.ports.a with listChanged := s.ports.a.listChanged && decide (p ≠ .a) }
            c := { s.ports.c with listChanged := s.ports.c.listChanged && decide (p ≠ .c) } } }))) ∧
      ((count.toNat = 0 ∨ 8 < count.toNat ∨ 31 < start.toNat) →
        exec (.readAlarms p start count) s =
          .next (settle (holdAnswer p (.readAlarms start count) 0x86 .badArgument [] s)))) ∧
    (∀ group which g, PortFree .c s → groupOfCode group = some g →
      exec (.readSetting .c group which) s = .next (settle (match settingBytes s g which with
        | some data => holdAnswer .c (.readSetting group which) 0x8C .accepted data s
        | none => holdAnswer .c (.readSetting group which) 0x8C .badArgument [] s))) ∧
    ∀ table position, PortFree .c s →
      (∀ slot : TableSlot, table.toNat = 0 → position.toNat ≤ 23 → s.envelope.table[position.toNat]? = some slot →
        exec (.readZone .c table position) s = .next (settle (holdAnswer .c (.readZone table position) 0x90 .accepted
          ([position, bool8 slot.failed] ++ be16 s.envelope.generation ++ zoneBytes slot.entry) s))) ∧
      (∀ slot : BufferSlot, table.toNat = 1 → position.toNat ≤ 23 → s.envelope.edit ≠ .closed →
        s.envelope.buffer[position.toNat]? = some slot →
        exec (.readZone .c table position) s = .next (settle (holdAnswer .c (.readZone table position) 0x90 .accepted
          ([position, bool8 slot.edited] ++ zoneBytes slot.entry) s))) ∧
      (table.toNat = 1 → position.toNat ≤ 23 → s.envelope.edit = .closed →
        exec (.readZone .c table position) s =
          .next (settle (holdAnswer .c (.readZone table position) 0x90 .wrongMode [] s))) ∧
      (1 < table.toNat ∨ 23 < position.toNat →
        exec (.readZone .c table position) s =
          .next (settle (holdAnswer .c (.readZone table position) 0x90 .badArgument [] s)))

/-- Every code is the one the value-code table gives, the codes that a station reads and sends back name what they
were formed from, and the details and the result codes are coded as their lists give them (R188, R172: ValueCodes,
CodesReadBack). The layouts of the status record, the references record, the snapshot and the alarm data (R188, R190):
their lengths, and every field of them read back from its offset. The data of READ-SETTING and of READ-ZONE are the
working values in the layout of the write that would carry them (R174, R189): an absent field's bytes 0, FFh past the
shed order's length, and the pending associations behind those in force. The second byte of a READ-SETTING names a
profile or a channel, and is 00h for the other groups. That a flag's byte of the status record (the two valid flags,
overrun, horn, store busy, commit-ended) is 1 for set and 0 for clear is the model's choice (log entry 22). -/
def Obligations.RecordsReadBack : Prop :=
  ValueCodes ∧ CodesReadBack ∧ ∀ (s : State) (ended : Bool),
    (∀ d, d = statusRecord s ended →
      d.length = 48 ∧ byteAt d 0 = modeCode s.sequencer.mode ∧ byteAt d 1 = destinationCode s.sequencer.mode ∧
      byteAt d 2 = arrangementCode s.sequencer.record.arrangement ∧ byteAt d 3 = orderStateCode s.sequencer.record.order ∧
      byteAt d 4 = bool8 (walkPermitOk s) ∧ byteAt d 5 = nat8 s.sequencer.queue.length ∧
      (∀ e, s.sequencer.queue.head? = some e → byteAt d 6 = settledCode e.request ∧ byteAt d 7 = portCode e.port) ∧
      (s.sequencer.queue = [] → byteAt d 6 = 0xFF ∧ byteAt d 7 = 0xFF) ∧
      byteAt d 8 = supplyCode s.bands.supply.band ∧ byteAt d 9 = bool8 s.bands.supply.valid ∧
      halfAt d 10 = BitVec.ofNat 16 (budget s.bands) ∧ byteAt d 12 = boomCode s.bands.boom.band ∧
      byteAt d 13 = bool8 s.bands.boom.valid ∧ byteAt d 14 = conditionCode s.envelope.condition ∧
      halfAt d 15 = s.envelope.generation ∧ byteAt d 17 = editCode s.envelope.edit ∧
      (∀ m, let i := 18 + 4 * (motionCode m).toNat
        halfAt d i = BitVec.ofInt 16 (s.shaper.references.outputs.get m) ∧
        byteAt d (i + 2) = brakeCode (s.gate.brakes.get m).state ∧
        (byteAt d (i + 3)).getLsbD 0 = (s.shaper.motions.get m).permit ∧ (byteAt d (i + 3)).getLsbD 1 = inService s m) ∧
      halfAt d 34 = BitVec.ofInt 16 s.walk.walkLeft ∧ halfAt d 36 = BitVec.ofInt 16 s.walk.walkRight ∧
      halfAt d 38 = BitVec.ofInt 16 s.walk.steps ∧ halfAt d 40 = BitVec.ofInt 16 s.walk.skew ∧
      byteAt d 42 = nat8 s.alarms.list.length ∧ byteAt d 43 = bool8 s.alarms.overrun ∧
      byteAt d 44 = bool8 s.alarms.horn ∧ byteAt d 45 = bool8 (decide (s.store ≠ .idle)) ∧
      byteAt d 46 = freshnessCode s.ports.a.freshness ∧ byteAt d 47 = bool8 ended) ∧
    (∀ d, d = referencesRecord s →
      d.length = 24 ∧ wordAt d 0 = s.shaper.references.period ∧
      (∀ m, halfAt d (4 + 2 * (motionCode m).toNat) = BitVec.ofInt 16 (s.shaper.references.outputs.get m) ∧
        (byteAt d 12).getLsbD (motionCode m).toNat = s.shaper.references.shed.get m) ∧
      halfAt d 13 = BitVec.ofInt 16 s.walk.walkLeft ∧ halfAt d 15 = BitVec.ofInt 16 s.walk.walkRight ∧
      byteAt d 17 = orderKindCode s.sequencer.record.kind ∧ byteAt d 18 = bool8 s.sequencer.record.mark ∧
      byteAt d 19 = orderStateCode s.sequencer.record.order ∧
      wordAt d 20 = BitVec.ofNat 32 s.sequencer.record.issueTime) ∧
    (∀ snap d, d = snapshotBytes snap →
      d.length = 88 ∧ wordAt d 0 = snap.number ∧
      (∀ e, let x := snap.encoders.get e
        let i := 4 + 10 * encoderNumber e
        byteAt d i = encoderStateCode x.state ∧
        (byteAt d (i + 1)).toNat = (if x.marks.below = true then 1 else 0) + (if x.marks.above = true then 2 else 0) +
          (if x.marks.faultSeen = true then 4 else 0) ∧
        wordAt d (i + 2) = BitVec.ofInt 32 x.value ∧ wordAt d (i + 6) = x.raw) ∧
      (∀ a, let x := snap.analogs.get a
        let i := 54 + 6 * (analogNumber a - 5)
        byteAt d i = analogStateCode x.state ∧
        (byteAt d (i + 1)).toNat = (if x.marks.below = true then 1 else 0) + (if x.marks.above = true then 2 else 0) +
          (if x.marks.faultSeen = true then 4 else 0) ∧
        halfAt d (i + 2) = BitVec.ofInt 16 x.value ∧ halfAt d (i + 4) = x.raw.setWidth 16) ∧
      halfAt d 84 = BitVec.ofNat 16 snap.camLeftAngle ∧ halfAt d 86 = BitVec.ofNat 16 snap.camRightAngle) ∧
    (∀ start count d, d = alarmsData s.alarms start count →
      d.length = 6 + 11 * min count (s.alarms.list.length - start) ∧
      byteAt d 0 = nat8 s.alarms.list.length ∧
      (byteAt d 1).toNat = (if s.alarms.overrun = true then 1 else 0) + (if s.alarms.horn = true then 2 else 0) ∧
      wordAt d 2 = BitVec.ofNat 32 s.alarms.seconds ∧
      ∀ i e, i < count → s.alarms.list[start + i]? = some e → (d.drop (6 + 11 * i)).take 11 = entryBytes e) ∧
    (∀ (e : AlarmEntry) (d : List Byte), d = entryBytes e →
      d.length = 11 ∧ byteAt d 0 = alarmCodeCode e.code ∧ byteAt d 1 = sourceCode e.source ∧
      byteAt d 2 = detailCode e.detail ∧ (∀ m, (byteAt d 3).getLsbD (motionCode m).toNat = e.affected.get m) ∧
      (byteAt d 3).toNat / 16 % 4 = alarmClassCode e.cls ∧ (byteAt d 3).toNat / 64 = alarmStateCode e.state ∧
      byteAt d 4 = nat8 e.occurrences ∧
      ((0 : Byte) ++ byteAt d 5 ++ halfAt d 6).toNat = min e.raisedAt 0xFFFFFF ∧
      ((0 : Byte) ++ byteAt d 8 ++ halfAt d 9).toNat = min e.changedAt 0xFFFFFF) ∧
    (let half (n : Nat) : Half := BitVec.ofNat 16 n
    let shown (g : SettingGroup) (which : Byte) (r : Request) : Prop :=
      settingBytes s g which = some ((payloadOf r).drop 1)
    let b := s.bands
    let shed (i : Nat) : Byte := (s.shaper.shedOrder[i]?.map motionCode).getD 0xFF
    ∀ which : Byte,
      (∀ n presence, profileOfCode which = some n → let p := shownProfile s.shaper.profiles n
        presence.getLsbD 0 = p.accel.isSome ∧ presence.getLsbD 1 = p.decel.isSome ∧
        presence.getLsbD 2 = p.ceiling.isSome ∧ presence.getLsbD 3 = p.creep.isSome ∧
        presence.getLsbD 4 = p.dwell.isSome ∧ presence.getLsbD 5 = p.releaseDelay.isSome ∧
        presence.getLsbD 6 = p.idleSet.isSome ∧ presence.getLsbD 7 = false →
        shown .profile which (.writeProfile which presence
          ⟨half (p.accel.getD 0), half (p.decel.getD 0), half (p.ceiling.getD 0), half (p.creep.getD 0),
            half (p.dwell.getD 0), half (p.releaseDelay.getD 0), half (p.idleSet.getD 0)⟩)) ∧
      (∀ e, encoderOfNumber which.toNat = some e → let c := (s.scanner.encoders.get e).cal
        shown .calibration which
          (.writeCalibration which (.encoder c.offset (BitVec.ofNat 32 c.scale) (half c.maxStep)))) ∧
      (∀ a, analogOfNumber which.toNat = some a → let c := (s.scanner.analogs.get a).cal
        shown .calibration which
          (.writeCalibration which (.analog (half c.offset) (half c.gain) (half c.low) (half c.high)))) ∧
      (∀ g, g ≠ .profile → g ≠ .calibration → which ≠ 0 → settingBytes s g which = none) ∧
      settingBytes s .association 0 = some
        ((payloadOf (.writeAssociation (s.shaper.motions.map fun _ r => profileCode r.association))).drop 1 ++
          (payloadOf (.writeAssociation (s.shaper.motions.map fun _ r =>
            (r.pendingAssociation.map profileCode).getD 0xFF))).drop 1) ∧
      shown .supplyBands 0
        (.writeSupplyBands (half b.thresholds.t1) (half b.thresholds.t2) (half b.thresholds.t3)) ∧
      shown .boomBands 0 (.writeBoomBands (half b.boomSettings.g) (half b.boomSettings.h) (half b.boomSettings.o)
        (half b.boomSettings.heavyCap)) ∧
      shown .currentTrip 0
        (.writeCurrentTrip (b.trip.levels.map fun _ n => half n) (b.trip.counts.map fun _ n => nat8 n)) ∧
      shown .sharing 0 (.writeSharing ⟨half b.budgets.normal, half b.budgets.low, half b.budgets.sag,
        s.shaper.weights.map fun _ n => half n, nat8 s.shaper.shedOrder.length, shed 0, shed 1, shed 2, shed 3⟩) ∧
      shown .walk 0 (.writeWalk (half s.walk.settings.restFrom) (half s.walk.settings.restTo)
        (nat8 s.walk.settings.gain) (nat8 s.walk.settings.trip)) ∧
      shown .gate 0 (.writeGate (nat8 s.gate.confirm)) ∧
      shown .sequencer 0 (.writeSequencer (nat8 s.sequencer.timeout)) ∧
      ∀ (entry : Option Zone) (body : ZoneBody), rawEntry body = some entry →
        (∀ box presence caps, body = .slow box presence caps → presence.toNat < 8 ∧
          (presence.getLsbD 0 = false → caps.hoist = 0) ∧ (presence.getLsbD 1 = false → caps.drag = 0) ∧
          (presence.getLsbD 2 = false → caps.swing = 0)) →
        zoneBytes entry = (payloadOf (.editZone which body)).drop 1)

/-- The steps of a port that carry no request (R166 to R169): a gap, a bad frame and, where a request is held, a
completed frame end the frame in progress; a response that starts makes the port ANSWERING with the response's frame
on its line, and one that ends leaves no request held and the line empty, the frame in progress standing. Nothing else
changes. CHARACTER_RECEIVED, one character at a time (R167): in HUNTING A5h begins a frame and any other is ignored;
in RECEIVING the kind, a length of 0 to 96, the payload bytes and the first check byte are stored, and a length above
96 discards the frame. -/
def Obligations.PortStepsChangeTheLinkAlone : Prop :=
  (∀ (s : State) (p : Port), s.power = .running →
    let link := s.ports.links.get p
    let relinked (l : PortLink) : Host.Outcome State Fault Refusal :=
      .next (settle { s with ports := { s.ports with links := s.ports.links.set p l } })
    exec (.gapTimerExpiry p) s = relinked { link with frame := none } ∧
    exec (.badFrameDiscard p) s = relinked { link with frame := none } ∧
    (link.held.isSome = true → exec (.frameWhileHeldDiscard p) s = relinked { link with frame := none }) ∧
    (∀ (r : Request) (x : Response), link.held = some ⟨r, x, false⟩ → exec (.responseStart p) s =
      relinked { link with
        held := some ⟨r, x, true⟩
        sending := frameCharacters x.kind (responsePayload x)
          (frameCheck x.kind (nat8 (responsePayload x).length) (responsePayload x)) }) ∧
    (∀ (r : Request) (x : Response), link.held = some ⟨r, x, true⟩ → exec (.responseComplete p) s =
      relinked { link with held := none, sending := [] })) ∧
  (∀ (s : State) (p : Port) (b : Byte), s.power = .running →
    let link := s.ports.links.get p
    let framed (f : Option Frame) : Prop := exec (.characterReceived p b) s =
      .next (settle { s with ports := { s.ports with links := s.ports.links.set p { link with frame := f } } })
    (link.frame = none → b = 0xA5 → framed (some ⟨none, none, [], none⟩)) ∧
    (link.frame = none → b ≠ 0xA5 → framed none) ∧
    (∀ f, link.frame = some f → f.kind = none → framed (some { f with kind := some b })) ∧
    (∀ f k, link.frame = some f → f.kind = some k → f.length = none →
      framed (if b.toNat ≤ 96 then some { f with length := some b } else none)) ∧
    ∀ f k n, link.frame = some f → f.kind = some k → f.length = some n →
      (f.payload.length < n.toNat → framed (some { f with payload := f.payload ++ [b] })) ∧
      (n.toNat ≤ f.payload.length → f.check = none → framed (some { f with check := some b })))

/-- The payloads of the requests and their reading are each other's inverse (R188, R189): a request laid out in its
kind and payload is read back with every field, and whatever kind and payload is read as a request of fitting length
is the one that request is laid out in, so that no bit of a payload is dropped. -/
def Obligations.PayloadsReadBack : Prop :=
  (∀ r : Request, lengthFits r = true → parseRequest (kindOf r) (payloadOf r) = r) ∧
  ∀ (kind : Byte) (payload : List Byte), lengthFits (parseRequest kind payload) = true →
    kindOf (parseRequest kind payload) = kind ∧ payloadOf (parseRequest kind payload) = payload

/-- A frame on the line is its request (R166 to R168): the characters of a frame whose check word is right, received
one after another with no frame in progress, do what the request's command does; with any other check word they change
nothing. A kind of the catalogue with a payload that no request of that kind has is answered BAD-ARGUMENT on the ports
of its row and NOT-PERMITTED on the others, with no effect (R170). That a request's command stands for its whole frame
is the model's choice (log entry 10). -/
def Obligations.FramesDeliverRequests : Prop :=
  ∀ (s : State) (p : Port), s.power = .running → Coherent s → (s.ports.links.get p).frame = none →
    (∀ (c : Instr) (r : Request), requestOf c = some (p, r) → lengthFits r = true →
      receiveAll p (frameCharacters (kindOf r) (payloadOf r)
        (frameCheck (kindOf r) (nat8 (payloadOf r).length) (payloadOf r))) s = exec c s) ∧
    (∀ (kind : Byte) (payload : List Byte), isRequestKind kind = false → payload.length ≤ 96 →
      receiveAll p (frameCharacters kind payload (frameCheck kind (nat8 payload.length) payload)) s =
        exec (.unknownKindRequest p kind) s) ∧
    (∀ (kind : Byte) (payload : List Byte), PortFree p s → isRequestKind kind = true → payload.length ≤ 96 →
      (∀ r, lengthFits r = true → kindOf r = kind → payloadOf r ≠ payload) →
      receiveAll p (frameCharacters kind payload (frameCheck kind (nat8 payload.length) payload)) s =
        .next (settle (holdAnswer p (.badLength kind payload) (kind ||| 0x80)
          (if kind ∈ kindsOf p then .badArgument else .notPermitted) [] s))) ∧
    ∀ (kind : Byte) (payload : List Byte) (check : Half), payload.length ≤ 96 →
      check ≠ frameCheck kind (nat8 payload.length) payload →
      receiveAll p (frameCharacters kind payload check) s = .next s

/-- RESTART accepted from Port C, in PARKED with the store idle (R17, R34, R58, R77, R99, R113, R133, R145, R165,
R176, R180, R186): what each block keeps and what it sets; the envelope condition as R37 forms it with the edit
closed; TRANSFER-FAIL stands alone in the list where the transfer-failed mark is set, and the list is empty where it
is not. That the list is emptied before TRANSFER-FAIL is raised, and which conditions stand and which become absent,
is the model's reading (log entry 18), and so is that no condition is left without an entry (log entry 21); the marks
of reports still owed are its bookkeeping (log entry 14), with a first notification that a power-on or external reset
owes still owed (log entry 15). -/
def Obligations.RestartKeepsAndClears : Prop :=
  ∀ s : State, PortFree .c s → s.sequencer.mode = .parked → s.store = .idle →
    ∃ t, exec (.restart .c) s = .next t ∧
      t.scanner = { s.scanner with
        encoders := s.scanner.encoders.map fun _ r => { r with marks := ⟨false, false, false⟩ }
        analogs := s.scanner.analogs.map fun _ r => { r with marks := ⟨false, false, false⟩, goodRun := 0 }
        reportDue := true } ∧
      t.bands = { s.bands with
        supply := ⟨s.bands.supply.band, false, none, 0⟩, boom := ⟨s.bands.boom.band, false, none, 0⟩
        integrators := ⟨0, 0, 0⟩, reportDue := true } ∧
      t.envelope = { s.envelope with
        edit := .closed, buffer := List.replicate 24 ⟨none, false⟩
        condition := if s.envelope.tableFailed = true then .invalid
          else if PositionsKnown s.scanner.snapshot then .valid else .blind
        reported := ⟨none, none, none⟩ } ∧
      t.shaper = { s.shaper with
        motions := s.shaper.motions.map fun _ r =>
          { MotionRecord.reset r.association with inService := false }
        readiness := ⟨.notReady, .notReady, .notReady⟩, overdrawCount := 0, overdraw := false
        references := ⟨s.shaper.references.period, ⟨0, 0, 0, 0⟩, ⟨false, false, false, false⟩⟩ } ∧
      t.gate = { s.gate with
        brakes := s.gate.brakes.map fun _ b =>
          { b with state := .set, count := 0, idle := 0, remembered := false, fail := b.feedback }
        reportDue := if s.gate.reportDue = .reset then .reset else .restart } ∧
      t.sequencer = { s.sequencer with
        queue := [], walkPermit := false, record := { s.sequencer.record with order := .none, endedBy := none } } ∧
      t.walk = { s.walk with walkLeft := 0, walkRight := 0, reportDue := true } ∧
      t.alarms.list = (if s.sequencer.record.failedMark = true then
        [⟨.transferFail, .sequencer, none, .trip, ⟨true, true, true, true⟩, .activeUnack, 0, 0, 1⟩] else []) ∧
      t.alarms.overrun = false ∧ t.alarms.lost = [] ∧ t.alarms.hold = ⟨false, false, false, false⟩ ∧
      t.alarms.limit = ⟨false, false, false, false⟩ ∧ t.alarms.horn = s.sequencer.record.failedMark ∧
      t.alarms.seconds = 0 ∧ t.alarms.driveReport = ⟨.notReady, .notReady, .notReady⟩ ∧
      t.alarms.driveFault = ⟨false, false, false⟩ ∧
      t.ports.a = ⟨.never, none, false, false, true⟩ ∧ t.ports.c = ⟨true, s.ports.c.commitEnded⟩ ∧
      t.ports.links.a = s.ports.links.a ∧ t.ports.links.b = s.ports.links.b ∧
      t.ports.links.c = { s.ports.links.c with
        frame := none, held := some ⟨.restart, ⟨0x95, .accepted, []⟩, false⟩ } ∧
      t.store = .idle ∧ t.memory = s.memory ∧ t.feedbackInputs = s.feedbackInputs ∧ t.pending = s.pending

/-! ### The laws every step keeps -/

/-- In-service, the walk permit and the lines are always those the rest of the state gives (R67, R100, R110, R120,
R158, R177 to R179, R184). -/
def Obligations.CoherenceIsKept : Prop :=
  ∀ s t : State, Coherent s → step s = .next t → Coherent t

/-- The alarm list keeps its laws and, with them, a run permit stays clear while a TRIP entry affecting its motion
stands in the list (R81, R147, R148, R155, R158). A condition present without an entry stays of class WARN and has none
in the list (R152; the record of them: log entry 21). -/
def Obligations.AlarmAndPermitLawsAreKept : Prop :=
  ∀ s t : State, AlarmListLaw s → PermitLaw s → step s = .next t → AlarmListLaw t ∧ PermitLaw t

/-- Every profile stays in range (R60, R61). The zone table, the buffer and the memory keep 24 positions of zones in
range, and a closed buffer is empty (R35, R36, R49, R51). Every measured value stays in the range of its channel, and
the walk quantities in theirs (R5 to R7, R9, R134, R136). -/
def Obligations.RangeLawsAreKept : Prop :=
  (∀ s t : State, ProfileLaw s → step s = .next t → ProfileLaw t) ∧
  (∀ s t : State, TableLaw s → step s = .next t → TableLaw t) ∧
  (∀ s t : State, MeasuredLaw s → step s = .next t → MeasuredLaw t)

/-- No motion has an output without service, permit and a RELEASED brake, whatever command comes (R68, R74, R89, R96,
R105). What is published is what is held, and the side references keep to the WALK output (R95, R96, R140, R141). -/
def Obligations.OutputAndPublishedLawsAreKept : Prop :=
  (∀ s t : State, Safe s → step s = .next t → OutputLaw t) ∧
  (∀ s t : State, PublishedLaw s → step s = .next t → PublishedLaw t)

/-- The mode request queue holds at most four requests, none ahead of a PARK, and the order and the commit keep to
their modes (R114, R115, R117, R53, R59), with the integrators of HG and DG at 0 while the order is PENDING (R31, R125;
from the issue on: log entry 20). -/
def Obligations.QueueAndOrderLawsAreKept : Prop :=
  ∀ s t : State, QueueLaw s → OrderLaw s → step s = .next t → QueueLaw t ∧ OrderLaw t

/-- Brake counts stay in their fields, with no remembered release outside SETTING; the freshness state keeps to its
timer, mark and requests; the drive reports agree and DRIVE-FAULT follows them (R69 to R73, R100, R159, R160). -/
def Obligations.BrakeFreshnessAndDriveLawsAreKept : Prop :=
  ∀ s t : State, step s = .next t →
    (BrakeLaw s → BrakeLaw t) ∧ (FreshnessLaw s → FreshnessLaw t) ∧ (DriveLaw s → DriveLaw t)
end

