-- ==== Sys2Proof/Laws/Selection.lean ====
section
/-! SUPPORT. Selection by motion, group, port and channel: reading what was set, mapped or made, and equality part by
part. -/

namespace Sys2Proof

variable {α β : Type}

/-! ### Motions -/

@[simp] theorem PerMotion.get_map (f : Motion → α → β) (x : PerMotion α) (m : Motion) :
    (x.map f).get m = f m (x.get m) := by cases m <;> rfl

@[simp] theorem PerMotion.get_of (f : Motion → α) (m : Motion) : (PerMotion.of f).get m = f m := by cases m <;> rfl

@[simp] theorem PerMotion.get_set_self (x : PerMotion α) (m : Motion) (v : α) : (x.set m v).get m = v := by
  cases m <;> rfl

theorem PerMotion.get_set_ne (x : PerMotion α) {m n : Motion} (v : α) (h : n ≠ m) : (x.set m v).get n = x.get n := by
  cases m <;> cases n <;> first | rfl | exact absurd rfl h

theorem PerMotion.get_set (x : PerMotion α) (m n : Motion) (v : α) :
    (x.set m v).get n = if n = m then v else x.get n := by
  cases m <;> cases n <;> rfl

theorem PerMotion.ext_get {x y : PerMotion α} (h : ∀ m, x.get m = y.get m) : x = y := by
  obtain ⟨a, b, c, d⟩ := x
  obtain ⟨a', b', c', d'⟩ := y
  have h1 := h .hoist
  have h2 := h .drag
  have h3 := h .swing
  have h4 := h .walk
  simp only [PerMotion.get] at h1 h2 h3 h4
  subst h1 h2 h3 h4
  rfl

@[simp] theorem PerMotion.set_get_self (x : PerMotion α) (m : Motion) : x.set m (x.get m) = x := by cases m <;> rfl

theorem PerMotion.any_iff (x : PerMotion Bool) : x.any = true ↔ ∃ m, x.get m = true := by
  constructor
  · intro h
    simp only [PerMotion.any, Bool.or_eq_true] at h
    rcases h with ((h | h) | h) | h
    · exact ⟨.hoist, h⟩
    · exact ⟨.drag, h⟩
    · exact ⟨.swing, h⟩
    · exact ⟨.walk, h⟩
  · rintro ⟨m, h⟩
    cases m <;> simp_all [PerMotion.any, PerMotion.get]

theorem PerMotion.every_iff (x : PerMotion Bool) : x.every = true ↔ ∀ m, x.get m = true := by
  constructor
  · intro h m
    simp only [PerMotion.every, Bool.and_eq_true] at h
    cases m
    · exact h.1.1.1
    · exact h.1.1.2
    · exact h.1.2
    · exact h.2
  · intro h
    have h1 := h .hoist
    have h2 := h .drag
    have h3 := h .swing
    have h4 := h .walk
    simp only [PerMotion.get] at h1 h2 h3 h4
    simp [PerMotion.every, h1, h2, h3, h4]

/-! ### Groups -/

@[simp] theorem PerGroup.get_map (f : Group → α → β) (x : PerGroup α) (g : Group) :
    (x.map f).get g = f g (x.get g) := by cases g <;> rfl

theorem PerGroup.get_set (x : PerGroup α) (g h : Group) (v : α) :
    (x.set g v).get h = if h = g then v else x.get h := by
  cases g <;> cases h <;> rfl

/-! ### Ports -/

@[simp] theorem PerPort.get_set_self (x : PerPort α) (p : Port) (v : α) : (x.set p v).get p = v := by cases p <;> rfl

theorem PerPort.get_set_ne (x : PerPort α) {p q : Port} (v : α) (h : q ≠ p) : (x.set p v).get q = x.get q := by
  cases p <;> cases q <;> first | rfl | exact absurd rfl h

@[simp] theorem PerPort.set_set (x : PerPort α) (p : Port) (v w : α) : (x.set p v).set p w = x.set p w := by
  cases p <;> rfl

@[simp] theorem PerPort.set_get_self (x : PerPort α) (p : Port) : x.set p (x.get p) = x := by cases p <;> rfl

/-! ### Channels -/

@[simp] theorem PerEncoder.get_map (f : EncoderId → α → β) (x : PerEncoder α) (e : EncoderId) :
    (x.map f).get e = f e (x.get e) := by cases e <;> rfl

theorem PerEncoder.get_set (x : PerEncoder α) (e f : EncoderId) (v : α) :
    (x.set e v).get f = if f = e then v else x.get f := by
  cases e <;> cases f <;> rfl

@[simp] theorem PerAnalog.get_map (f : AnalogId → α → β) (x : PerAnalog α) (a : AnalogId) :
    (x.map f).get a = f a (x.get a) := by cases a <;> rfl

theorem PerAnalog.get_set (x : PerAnalog α) (a b : AnalogId) (v : α) :
    (x.set a v).get b = if b = a then v else x.get b := by
  cases a <;> cases b <;> rfl

@[simp] theorem PerDig.get_of (f : DigMotion → α) (m : DigMotion) : (PerDig.of f).get m = f m := by cases m <;> rfl

end Sys2Proof
end

