-- ==== Sys2Proof/Laws/Lists.lean ====
section
/-! SUPPORT. The alarm list as a list (an entry found, changed in its place, removed, the oldest WARN entry evicted), and
the memory as records (a record passing its check, one record written, one record spoiled). -/

namespace Sys2Proof.Machine

/-! ### The alarm list (R148 to R153) -/

theorem AlarmEntry.isFor_iff (e : AlarmEntry) (c : AlarmCode) (src : Source) :
    e.isFor c src = true ↔ e.code = c ∧ e.source = src := by simp [AlarmEntry.isFor]

theorem findEntry_eq_none (l : List AlarmEntry) (c : AlarmCode) (src : Source) :
    findEntry l c src = none ↔ ∀ e ∈ l, e.code = c → e.source ≠ src := by
  simp [findEntry, AlarmEntry.isFor]

/-- The entry found is in the list, of that code and source. -/
theorem findEntry_mem {l : List AlarmEntry} {c : AlarmCode} {src : Source} {e : AlarmEntry}
    (h : findEntry l c src = some e) : e ∈ l ∧ e.code = c ∧ e.source = src :=
  ⟨List.mem_of_find?_eq_some h, (e.isFor_iff c src).1 (by
    have hp := @List.find?_some _ (fun x : AlarmEntry => x.isFor c src) e l h
    exact hp)⟩

/-- An entry of a code and source with no other of them before it is the one found. -/
theorem findEntry_append_cons {l₁ l₂ : List AlarmEntry} {e : AlarmEntry}
    (h : ∀ x ∈ l₁, x.code = e.code → x.source ≠ e.source) :
    findEntry (l₁ ++ e :: l₂) e.code e.source = some e := by
  have h₁ : findEntry l₁ e.code e.source = none := (findEntry_eq_none _ _ _).2 h
  simp only [findEntry] at h₁ ⊢
  rw [List.find?_append, h₁]
  simp [AlarmEntry.isFor]

/-- A list with no entry of a code and source stands under a change of it. -/
theorem changeEntry_of_absent {l : List AlarmEntry} {c : AlarmCode} {src : Source} (f : AlarmEntry → AlarmEntry)
    (h : ∀ x ∈ l, x.code = c → x.source ≠ src) : changeEntry l c src f = l := by
  unfold changeEntry
  refine (List.map_congr_left fun x hx => ?_).trans l.map_id
  have : x.isFor c src = false := by simpa [AlarmEntry.isFor] using h x hx
  simp [this]

theorem removeEntry_of_absent {l : List AlarmEntry} {c : AlarmCode} {src : Source}
    (h : ∀ x ∈ l, x.code = c → x.source ≠ src) : removeEntry l c src = l := by
  unfold removeEntry
  refine List.filter_eq_self.2 fun x hx => ?_
  have : x.isFor c src = false := by simpa [AlarmEntry.isFor] using h x hx
  simp [this]

/-- The one entry of a code and source changed in its place, every other standing. -/
theorem changeEntry_append_cons {l₁ l₂ : List AlarmEntry} {e : AlarmEntry} (f : AlarmEntry → AlarmEntry)
    (h : ∀ x ∈ l₁ ++ l₂, x.code = e.code → x.source ≠ e.source) :
    changeEntry (l₁ ++ e :: l₂) e.code e.source f = l₁ ++ f e :: l₂ := by
  have h₁ := changeEntry_of_absent f fun x hx => h x (List.mem_append_left _ hx)
  have h₂ := changeEntry_of_absent f fun x hx => h x (List.mem_append_right _ hx)
  simp only [changeEntry] at h₁ h₂ ⊢
  rw [List.map_append, List.map_cons, h₁, h₂]
  simp [AlarmEntry.isFor]

/-- The one entry of a code and source removed, the others closing up. -/
theorem removeEntry_append_cons {l₁ l₂ : List AlarmEntry} {e : AlarmEntry}
    (h : ∀ x ∈ l₁ ++ l₂, x.code = e.code → x.source ≠ e.source) :
    removeEntry (l₁ ++ e :: l₂) e.code e.source = l₁ ++ l₂ := by
  have h₁ := removeEntry_of_absent fun x hx => h x (List.mem_append_left _ hx)
  have h₂ := removeEntry_of_absent fun x hx => h x (List.mem_append_right _ hx)
  simp only [removeEntry] at h₁ h₂ ⊢
  rw [List.filter_append, List.filter_cons, h₁, h₂]
  simp [AlarmEntry.isFor]

/-- The oldest WARN entry evicted, the others closing up. -/
theorem evictWarn_append_cons {l₁ l₂ : List AlarmEntry} {w : AlarmEntry} (hw : w.cls = .warn)
    (h : ∀ x ∈ l₁, x.cls ≠ .warn) : evictWarn (l₁ ++ w :: l₂) = l₁ ++ l₂ := by
  unfold evictWarn
  rw [List.eraseP_append_right _ (by simpa using h), List.eraseP_cons_of_pos (by simp [hw])]

/-! ### When Ports A and C are told (R162) -/

theorem changeEntry_ne {l : List AlarmEntry} {c : AlarmCode} {src : Source} {e : AlarmEntry}
    (h : findEntry l c src = some e) {f : AlarmEntry → AlarmEntry} (hf : f e ≠ e) : changeEntry l c src f ≠ l := by
  intro k
  obtain ⟨hm, hc, hs⟩ := findEntry_mem h
  have k' : l.map (fun e => if e.isFor c src = true then f e else e) = l.map id := k.trans l.map_id.symm
  have := List.map_inj_left.1 k' e hm
  rw [if_pos ((AlarmEntry.isFor_iff _ _ _).2 ⟨hc, hs⟩)] at this
  exact hf this

theorem removeEntry_ne {l : List AlarmEntry} {c : AlarmCode} {src : Source} {e : AlarmEntry}
    (h : findEntry l c src = some e) : removeEntry l c src ≠ l := by
  intro k
  obtain ⟨hm, hc, hs⟩ := findEntry_mem h
  have := List.filter_eq_self.1 k e hm
  simp [(AlarmEntry.isFor_iff _ _ _).2 ⟨hc, hs⟩] at this

theorem appendEntry_changed {a : Alarms} {c : AlarmCode} {src : Source} (h : findEntry a.list c src = none)
    (arr : Arrangement) (d : Option Detail) (st : AlarmState) :
    let r := appendEntry a (newEntry a arr c src d st)
    r.changed = true ↔ r.unit.list ≠ a.list ∨ r.unit.overrun ≠ a.overrun := by
  unfold appendEntry
  split
  · exact iff_of_true rfl (.inl (by simp [Alarms.withList]))
  · split
    · show (!a.overrun) = true ↔ a.list ≠ a.list ∨ true ≠ a.overrun
      cases a.overrun <;> simp
    · refine iff_of_true rfl (.inl fun k => ?_)
      have hm : newEntry a arr c src d st ∈ a.list := by
        rw [← show evictWarn a.list ++ [newEntry a arr c src d st] = a.list from k]
        simp
      exact (findEntry_eq_none a.list c src).1 h _ hm rfl rfl

/-- A raise is told exactly where the list or the overrun mark has changed or the entry has been re-raised. -/
theorem raiseHeld_changed (a : Alarms) (arr : Arrangement) (c : AlarmCode) (src : Source) (d : Option Detail) :
    (raiseHeld a arr c src d).changed = true ↔
      (raiseHeld a arr c src d).unit.list ≠ a.list ∨ (raiseHeld a arr c src d).unit.overrun ≠ a.overrun ∨
        ∃ e, findEntry a.list c src = some e ∧ e.state = .clearedUnack := by
  unfold raiseHeld
  cases hf : findEntry a.list c src with
  | none =>
    have z : ∀ p q : Prop, (p ∨ q ∨ ∃ _ : AlarmEntry, False) ↔ p ∨ q := by simp
    simp only [reduceCtorEq, false_and, z]
    split
    · simp
    · exact appendEntry_changed hf _ _ _
  | some e =>
    simp only [Option.some.injEq]
    split
    · next h => exact iff_of_true rfl (.inr (.inr ⟨e, rfl, h⟩))
    · next h =>
      split
      · simp [h]
      · next h' => exact iff_of_true rfl (.inl (changeEntry_ne hf fun k => h' (by rw [← k])))

theorem raiseMomentary_changed (a : Alarms) (arr : Arrangement) (c : AlarmCode) (src : Source) (d : Option Detail) :
    (raiseMomentary a arr c src d).changed = true ↔
      (raiseMomentary a arr c src d).unit.list ≠ a.list ∨ (raiseMomentary a arr c src d).unit.overrun ≠ a.overrun ∨
        ∃ e, findEntry a.list c src = some e := by
  unfold raiseMomentary
  cases hf : findEntry a.list c src with
  | none =>
    have z : ∀ p q : Prop, (p ∨ q ∨ ∃ _ : AlarmEntry, False) ↔ p ∨ q := by simp
    simp only [reduceCtorEq, z]
    exact appendEntry_changed hf _ _ _
  | some e => simp

theorem conditionGone_changed (a : Alarms) (c : AlarmCode) (src : Source) :
    (conditionGone a c src).changed = true ↔
      (conditionGone a c src).unit.list ≠ a.list ∨ (conditionGone a c src).unit.overrun ≠ a.overrun := by
  unfold conditionGone
  cases hf : findEntry a.list c src with
  | none => simp [Alarms.forget]
  | some e =>
    cases hs : e.state <;> simp [hs, Alarms.withList]
    · exact changeEntry_ne hf fun k => by
        rw [← k] at hs
        cases hs
    · exact removeEntry_ne hf

/-! ### Check words (R181) -/

/-- What a record is sealed with is what a load finds. -/
@[simp] theorem readRecord_sealRecord {α : Type} (form : α → RecordWrite) (x : α) :
    readRecord form (sealRecord form x) = some x := by simp [readRecord, sealRecord]

@[simp] theorem readRecord_none {α : Type} (form : α → RecordWrite) : readRecord form none = none := rfl

/-- A record passes exactly where its check word is the one formed from what was read. -/
theorem readRecord_some {α : Type} (form : α → RecordWrite) (r : Stored α) (x : α) :
    readRecord form (some r) = some x ↔ r.fields = x ∧ r.check = (form x).check := by
  simp only [readRecord]
  split
  · next h => simp only [Option.some.injEq]; exact ⟨fun e => ⟨e, e ▸ h⟩, fun e => e.1⟩
  · next h => simp only [reduceCtorEq, false_iff]; exact fun e => h (e.1 ▸ e.2)

/-- One bit of the CRC loses nothing. -/
theorem crcBit_injective {a b : Half} (h : crcBit a = crcBit b) : a = b := by
  have bit (x : Half) (i : Nat) (hi : i < 15) : (crcBit x).getLsbD (i + 1) =
      (x.getLsbD i ^^ (x.msb && (0x1021 : Half).getLsbD (i + 1))) := by
    unfold crcBit
    cases x.msb <;> simp [show i + 1 < 16 by omega] <;> exact (BitVec.getLsbD_eq_getElem (by omega)).symm
  have low (x : Half) : (crcBit x).getLsbD 0 = x.msb := by
    unfold crcBit
    cases hm : x.msb <;> simp
  have hm : a.msb = b.msb := by rw [← low a, ← low b, h]
  refine BitVec.eq_of_getLsbD_eq fun i hi => ?_
  rcases Nat.lt_or_ge i 15 with hi' | hi'
  · have := (bit a i hi').symm.trans ((congrArg (·.getLsbD (i + 1)) h).trans (bit b i hi'))
    rw [hm] at this
    exact (Bool.xor_left_inj).1 this
  · obtain rfl : i = 15 := by omega
    simpa [BitVec.msb, BitVec.getMsbD] using hm

theorem crcShift_injective {a b : Half} (h : crcShift a = crcShift b) : a = b := by
  unfold crcShift at h
  iterate 8 replace h := crcBit_injective h
  exact h

theorem crcByte_injective {a b : Half} (x : Byte) (h : crcByte a x = crcByte b x) : a = b := by
  have := crcShift_injective h
  have cancel (y : Half) : (y ^^^ (x ++ (0 : Byte) : Half)) ^^^ (x ++ (0 : Byte) : Half) = y := by
    rw [BitVec.xor_assoc, BitVec.xor_self, BitVec.xor_zero]
  rw [← cancel a, ← cancel b, this]

/-- The same bytes after two different beginnings leave two different CRCs. -/
theorem crc_foldl_injective (l : List Byte) {a b : Half} (h : l.foldl crcByte a = l.foldl crcByte b) : a = b := by
  induction l generalizing a b with
  | nil => exact h
  | cons x l ih => exact crcByte_injective x (ih h)

/-! ### What a load finds (R181) -/

@[simp] theorem Memory.load_profileCommon (mem : Memory) :
    mem.load.profileCommon = readRecord .profileCommon mem.profileCommon := rfl
@[simp] theorem Memory.load_profileA (mem : Memory) :
    mem.load.profileA = readRecord .profileA mem.profileA := rfl
@[simp] theorem Memory.load_profileB (mem : Memory) :
    mem.load.profileB = readRecord .profileB mem.profileB := rfl
@[simp] theorem Memory.load_association (mem : Memory) :
    mem.load.association = readRecord .association mem.association := rfl
@[simp] theorem Memory.load_supplyBands (mem : Memory) :
    mem.load.supplyBands = readRecord .supplyBands mem.supplyBands := rfl
@[simp] theorem Memory.load_boomBands (mem : Memory) :
    mem.load.boomBands = readRecord .boomBands mem.boomBands := rfl
@[simp] theorem Memory.load_currentTrip (mem : Memory) :
    mem.load.currentTrip = readRecord .currentTrip mem.currentTrip := rfl
@[simp] theorem Memory.load_sharing (mem : Memory) :
    mem.load.sharing = readRecord .sharing mem.sharing := rfl
@[simp] theorem Memory.load_walk (mem : Memory) :
    mem.load.walk = readRecord .walk mem.walk := rfl
@[simp] theorem Memory.load_gate (mem : Memory) :
    mem.load.gate = readRecord .gate mem.gate := rfl
@[simp] theorem Memory.load_sequencer (mem : Memory) :
    mem.load.sequencer = readRecord .sequencer mem.sequencer := rfl
@[simp] theorem Memory.load_header (mem : Memory) :
    mem.load.header = readRecord .zoneHeader mem.header := rfl

@[simp] theorem Memory.load_encoderCal (mem : Memory) (e : EncoderId) :
    mem.load.encoderCal.get e = readRecord (calOf e) (mem.encoderCal.get e) := by cases e <;> rfl

@[simp] theorem Memory.load_analogCal (mem : Memory) (a : AnalogId) :
    mem.load.analogCal.get a = readRecord (.calAnalog a) (mem.analogCal.get a) := by cases a <;> rfl

@[simp] theorem Memory.load_zones (mem : Memory) (i : Nat) :
    mem.load.zones[i]? = mem.zones[i]?.map (readRecord (.zone i)) := by simp [Memory.load]

theorem Memory.load_zones_getD (mem : Memory) (i : Nat) :
    mem.load.zones.getD i none = readRecord (.zone i) (mem.zones.getD i none) := by
  rw [List.getD_eq_getElem?_getD, List.getD_eq_getElem?_getD, Memory.load_zones]
  cases mem.zones[i]? <;> rfl

@[simp] theorem Memory.load_zones_length (mem : Memory) : mem.load.zones.length = mem.zones.length := by
  simp [Memory.load]

theorem Memory.recordAt_zone (mem : Memory) (i : Nat) :
    mem.recordAt (.zone i) = (readRecord (.zone i) (mem.zones.getD i none)).map (.zone i) := by
  rw [Memory.recordAt, Memory.load_zones_getD]

/-- Every record of a factory memory passes its check, with the contents the factory wrote (R181). -/
theorem Memory.factory_load : Memory.factory.load =
    { profileCommon := some Config.factoryCommon
      profileA := some Config.factoryPartial
      profileB := some Config.factoryPartial
      association := some Config.factoryAssociation
      encoderCal := Config.factoryEncoderCal.map fun _ cal => some cal
      analogCal := Config.factoryAnalogCal.map fun _ cal => some cal
      supplyBands := some Config.factorySupply
      boomBands := some Config.factoryBoom
      currentTrip := some Config.factoryTrip
      sharing := some Config.factorySharing
      walk := some Config.factoryWalk
      gate := some Config.factoryConfirm
      sequencer := some Config.factoryTimeout
      zones := List.replicate 24 (some none)
      header := some Config.factoryHeader } := by
  have zones (n : Nat) : ((List.range n).map fun i => sealRecord (.zone i) (none : Option Zone)).mapIdx
      (fun i r => readRecord (.zone i) r) = List.replicate n (some none) := by
    apply List.ext_getElem <;> simp
  simp only [Memory.load, Memory.factory, zones, PerEncoder.map, PerAnalog.map, readRecord_sealRecord]
  rfl

/-! ### The memory (R181 to R183) -/

/-- A record written reads back as written, and every other record as it was. -/
theorem Memory.recordAt_write (mem : Memory) (w : RecordWrite) (h : ∀ i z, w = .zone i z → i < mem.zones.length)
    (n : RecordName) : (mem.write w).recordAt n = if n = w.name then some w.written else mem.recordAt n := by
  cases w with
  | zone i z =>
    have hi := h i z rfl
    cases n with
    | zone j =>
      by_cases hj : j = i
      · subst hj
        rw [Memory.recordAt_zone]; simp [Memory.write, RecordWrite.name, RecordWrite.written, hi]
      · simp [Memory.write, Memory.recordAt, RecordWrite.name, hj, Ne.symm hj]
    | settings r => cases r <;> simp [Memory.write, Memory.recordAt, RecordWrite.name]
    | zoneHeader => simp [Memory.write, Memory.recordAt, RecordWrite.name]
  | calEncoder e cal zeroing =>
    cases n with
    | settings r =>
      cases r <;> simp [Memory.write, Memory.recordAt, RecordWrite.name]
      rename_i f
      rw [PerEncoder.get_set]
      split
      · subst f; simp [RecordWrite.written]
      · rfl
    | zone j => simp [Memory.write, Memory.recordAt, RecordWrite.name]
    | zoneHeader => simp [Memory.write, Memory.recordAt, RecordWrite.name]
  | calAnalog a cal =>
    cases n with
    | settings r =>
      cases r <;> simp [Memory.write, Memory.recordAt, RecordWrite.name]
      rename_i f
      rw [PerAnalog.get_set]
      split
      · subst f; simp [RecordWrite.written]
      · rfl
    | zone j => simp [Memory.write, Memory.recordAt, RecordWrite.name]
    | zoneHeader => simp [Memory.write, Memory.recordAt, RecordWrite.name]
  | _ =>
    cases n with
    | settings r => cases r <;> simp [Memory.write, Memory.recordAt, RecordWrite.name, RecordWrite.written]
    | zone j => simp [Memory.write, Memory.recordAt, RecordWrite.name]
    | zoneHeader => simp [Memory.write, Memory.recordAt, RecordWrite.name, RecordWrite.written]

/-- A record spoiled fails its check, and every other record is as it was. -/
theorem Memory.recordAt_spoil (mem : Memory) (w : RecordWrite) (n : RecordName) :
    (mem.spoil w).recordAt n = if n = w.name then none else mem.recordAt n := by
  cases w with
  | zone i z =>
    cases n with
    | zone j =>
      by_cases hj : j = i
      · subst hj
        rw [Memory.recordAt_zone]
        by_cases hi : j < mem.zones.length <;> simp [Memory.spoil, RecordWrite.name, hi]
      · simp [Memory.spoil, Memory.recordAt, RecordWrite.name, hj, Ne.symm hj]
    | settings r => cases r <;> simp [Memory.spoil, Memory.recordAt, RecordWrite.name]
    | zoneHeader => simp [Memory.spoil, Memory.recordAt, RecordWrite.name]
  | calEncoder e cal zeroing =>
    cases n with
    | settings r =>
      cases r <;> simp [Memory.spoil, Memory.recordAt, RecordWrite.name]
      rename_i f
      rw [PerEncoder.get_set]
      split <;> simp
    | zone j => simp [Memory.spoil, Memory.recordAt, RecordWrite.name]
    | zoneHeader => simp [Memory.spoil, Memory.recordAt, RecordWrite.name]
  | calAnalog a cal =>
    cases n with
    | settings r =>
      cases r <;> simp [Memory.spoil, Memory.recordAt, RecordWrite.name]
      rename_i f
      rw [PerAnalog.get_set]
      split <;> simp
    | zone j => simp [Memory.spoil, Memory.recordAt, RecordWrite.name]
    | zoneHeader => simp [Memory.spoil, Memory.recordAt, RecordWrite.name]
  | _ =>
    cases n with
    | settings r => cases r <;> simp [Memory.spoil, Memory.recordAt, RecordWrite.name]
    | zone j => simp [Memory.spoil, Memory.recordAt, RecordWrite.name]
    | zoneHeader => simp [Memory.spoil, Memory.recordAt, RecordWrite.name]

end Sys2Proof.Machine
end

