-- ==== Sys2Proof/Laws/State.lean ====
section
/-! SUPPORT. What a replaced block leaves: one lemma per field per update of the state, true by unfolding, so that no
later proof unfolds a record update. -/

namespace Sys2Proof.Machine

/-! ### withScanner -/

@[simp] theorem State.withScanner_power (s : State) (x : Scanner) : (s.withScanner x).power = s.power := rfl
@[simp] theorem State.withScanner_scanner (s : State) (x : Scanner) : (s.withScanner x).scanner = x := rfl
@[simp] theorem State.withScanner_bands (s : State) (x : Scanner) : (s.withScanner x).bands = s.bands := rfl
@[simp] theorem State.withScanner_envelope (s : State) (x : Scanner) : (s.withScanner x).envelope = s.envelope := rfl
@[simp] theorem State.withScanner_shaper (s : State) (x : Scanner) : (s.withScanner x).shaper = s.shaper := rfl
@[simp] theorem State.withScanner_gate (s : State) (x : Scanner) : (s.withScanner x).gate = s.gate := rfl
@[simp] theorem State.withScanner_sequencer (s : State) (x : Scanner) : (s.withScanner x).sequencer = s.sequencer := rfl
@[simp] theorem State.withScanner_walk (s : State) (x : Scanner) : (s.withScanner x).walk = s.walk := rfl
@[simp] theorem State.withScanner_alarms (s : State) (x : Scanner) : (s.withScanner x).alarms = s.alarms := rfl
@[simp] theorem State.withScanner_ports (s : State) (x : Scanner) : (s.withScanner x).ports = s.ports := rfl
@[simp] theorem State.withScanner_store (s : State) (x : Scanner) : (s.withScanner x).store = s.store := rfl
@[simp] theorem State.withScanner_memory (s : State) (x : Scanner) : (s.withScanner x).memory = s.memory := rfl
@[simp] theorem State.withScanner_feedbackInputs (s : State) (x : Scanner) : (s.withScanner x).feedbackInputs = s.feedbackInputs := rfl
@[simp] theorem State.withScanner_lines (s : State) (x : Scanner) : (s.withScanner x).lines = s.lines := rfl
@[simp] theorem State.withScanner_pending (s : State) (x : Scanner) : (s.withScanner x).pending = s.pending := rfl

/-! ### withBands -/

@[simp] theorem State.withBands_power (s : State) (x : Bands) : (s.withBands x).power = s.power := rfl
@[simp] theorem State.withBands_scanner (s : State) (x : Bands) : (s.withBands x).scanner = s.scanner := rfl
@[simp] theorem State.withBands_bands (s : State) (x : Bands) : (s.withBands x).bands = x := rfl
@[simp] theorem State.withBands_envelope (s : State) (x : Bands) : (s.withBands x).envelope = s.envelope := rfl
@[simp] theorem State.withBands_shaper (s : State) (x : Bands) : (s.withBands x).shaper = s.shaper := rfl
@[simp] theorem State.withBands_gate (s : State) (x : Bands) : (s.withBands x).gate = s.gate := rfl
@[simp] theorem State.withBands_sequencer (s : State) (x : Bands) : (s.withBands x).sequencer = s.sequencer := rfl
@[simp] theorem State.withBands_walk (s : State) (x : Bands) : (s.withBands x).walk = s.walk := rfl
@[simp] theorem State.withBands_alarms (s : State) (x : Bands) : (s.withBands x).alarms = s.alarms := rfl
@[simp] theorem State.withBands_ports (s : State) (x : Bands) : (s.withBands x).ports = s.ports := rfl
@[simp] theorem State.withBands_store (s : State) (x : Bands) : (s.withBands x).store = s.store := rfl
@[simp] theorem State.withBands_memory (s : State) (x : Bands) : (s.withBands x).memory = s.memory := rfl
@[simp] theorem State.withBands_feedbackInputs (s : State) (x : Bands) : (s.withBands x).feedbackInputs = s.feedbackInputs := rfl
@[simp] theorem State.withBands_lines (s : State) (x : Bands) : (s.withBands x).lines = s.lines := rfl
@[simp] theorem State.withBands_pending (s : State) (x : Bands) : (s.withBands x).pending = s.pending := rfl

/-! ### withEnvelope -/

@[simp] theorem State.withEnvelope_power (s : State) (x : Envelope) : (s.withEnvelope x).power = s.power := rfl
@[simp] theorem State.withEnvelope_scanner (s : State) (x : Envelope) : (s.withEnvelope x).scanner = s.scanner := rfl
@[simp] theorem State.withEnvelope_bands (s : State) (x : Envelope) : (s.withEnvelope x).bands = s.bands := rfl
@[simp] theorem State.withEnvelope_envelope (s : State) (x : Envelope) : (s.withEnvelope x).envelope = x := rfl
@[simp] theorem State.withEnvelope_shaper (s : State) (x : Envelope) : (s.withEnvelope x).shaper = s.shaper := rfl
@[simp] theorem State.withEnvelope_gate (s : State) (x : Envelope) : (s.withEnvelope x).gate = s.gate := rfl
@[simp] theorem State.withEnvelope_sequencer (s : State) (x : Envelope) : (s.withEnvelope x).sequencer = s.sequencer := rfl
@[simp] theorem State.withEnvelope_walk (s : State) (x : Envelope) : (s.withEnvelope x).walk = s.walk := rfl
@[simp] theorem State.withEnvelope_alarms (s : State) (x : Envelope) : (s.withEnvelope x).alarms = s.alarms := rfl
@[simp] theorem State.withEnvelope_ports (s : State) (x : Envelope) : (s.withEnvelope x).ports = s.ports := rfl
@[simp] theorem State.withEnvelope_store (s : State) (x : Envelope) : (s.withEnvelope x).store = s.store := rfl
@[simp] theorem State.withEnvelope_memory (s : State) (x : Envelope) : (s.withEnvelope x).memory = s.memory := rfl
@[simp] theorem State.withEnvelope_feedbackInputs (s : State) (x : Envelope) : (s.withEnvelope x).feedbackInputs = s.feedbackInputs := rfl
@[simp] theorem State.withEnvelope_lines (s : State) (x : Envelope) : (s.withEnvelope x).lines = s.lines := rfl
@[simp] theorem State.withEnvelope_pending (s : State) (x : Envelope) : (s.withEnvelope x).pending = s.pending := rfl

/-! ### withShaper -/

@[simp] theorem State.withShaper_power (s : State) (x : Shaper) : (s.withShaper x).power = s.power := rfl
@[simp] theorem State.withShaper_scanner (s : State) (x : Shaper) : (s.withShaper x).scanner = s.scanner := rfl
@[simp] theorem State.withShaper_bands (s : State) (x : Shaper) : (s.withShaper x).bands = s.bands := rfl
@[simp] theorem State.withShaper_envelope (s : State) (x : Shaper) : (s.withShaper x).envelope = s.envelope := rfl
@[simp] theorem State.withShaper_shaper (s : State) (x : Shaper) : (s.withShaper x).shaper = x := rfl
@[simp] theorem State.withShaper_gate (s : State) (x : Shaper) : (s.withShaper x).gate = s.gate := rfl
@[simp] theorem State.withShaper_sequencer (s : State) (x : Shaper) : (s.withShaper x).sequencer = s.sequencer := rfl
@[simp] theorem State.withShaper_walk (s : State) (x : Shaper) : (s.withShaper x).walk = s.walk := rfl
@[simp] theorem State.withShaper_alarms (s : State) (x : Shaper) : (s.withShaper x).alarms = s.alarms := rfl
@[simp] theorem State.withShaper_ports (s : State) (x : Shaper) : (s.withShaper x).ports = s.ports := rfl
@[simp] theorem State.withShaper_store (s : State) (x : Shaper) : (s.withShaper x).store = s.store := rfl
@[simp] theorem State.withShaper_memory (s : State) (x : Shaper) : (s.withShaper x).memory = s.memory := rfl
@[simp] theorem State.withShaper_feedbackInputs (s : State) (x : Shaper) : (s.withShaper x).feedbackInputs = s.feedbackInputs := rfl
@[simp] theorem State.withShaper_lines (s : State) (x : Shaper) : (s.withShaper x).lines = s.lines := rfl
@[simp] theorem State.withShaper_pending (s : State) (x : Shaper) : (s.withShaper x).pending = s.pending := rfl

/-! ### withGate -/

@[simp] theorem State.withGate_power (s : State) (x : Gate) : (s.withGate x).power = s.power := rfl
@[simp] theorem State.withGate_scanner (s : State) (x : Gate) : (s.withGate x).scanner = s.scanner := rfl
@[simp] theorem State.withGate_bands (s : State) (x : Gate) : (s.withGate x).bands = s.bands := rfl
@[simp] theorem State.withGate_envelope (s : State) (x : Gate) : (s.withGate x).envelope = s.envelope := rfl
@[simp] theorem State.withGate_shaper (s : State) (x : Gate) : (s.withGate x).shaper = s.shaper := rfl
@[simp] theorem State.withGate_gate (s : State) (x : Gate) : (s.withGate x).gate = x := rfl
@[simp] theorem State.withGate_sequencer (s : State) (x : Gate) : (s.withGate x).sequencer = s.sequencer := rfl
@[simp] theorem State.withGate_walk (s : State) (x : Gate) : (s.withGate x).walk = s.walk := rfl
@[simp] theorem State.withGate_alarms (s : State) (x : Gate) : (s.withGate x).alarms = s.alarms := rfl
@[simp] theorem State.withGate_ports (s : State) (x : Gate) : (s.withGate x).ports = s.ports := rfl
@[simp] theorem State.withGate_store (s : State) (x : Gate) : (s.withGate x).store = s.store := rfl
@[simp] theorem State.withGate_memory (s : State) (x : Gate) : (s.withGate x).memory = s.memory := rfl
@[simp] theorem State.withGate_feedbackInputs (s : State) (x : Gate) : (s.withGate x).feedbackInputs = s.feedbackInputs := rfl
@[simp] theorem State.withGate_lines (s : State) (x : Gate) : (s.withGate x).lines = s.lines := rfl
@[simp] theorem State.withGate_pending (s : State) (x : Gate) : (s.withGate x).pending = s.pending := rfl

/-! ### withSequencer -/

@[simp] theorem State.withSequencer_power (s : State) (x : Sequencer) : (s.withSequencer x).power = s.power := rfl
@[simp] theorem State.withSequencer_scanner (s : State) (x : Sequencer) : (s.withSequencer x).scanner = s.scanner := rfl
@[simp] theorem State.withSequencer_bands (s : State) (x : Sequencer) : (s.withSequencer x).bands = s.bands := rfl
@[simp] theorem State.withSequencer_envelope (s : State) (x : Sequencer) : (s.withSequencer x).envelope = s.envelope := rfl
@[simp] theorem State.withSequencer_shaper (s : State) (x : Sequencer) : (s.withSequencer x).shaper = s.shaper := rfl
@[simp] theorem State.withSequencer_gate (s : State) (x : Sequencer) : (s.withSequencer x).gate = s.gate := rfl
@[simp] theorem State.withSequencer_sequencer (s : State) (x : Sequencer) : (s.withSequencer x).sequencer = x := rfl
@[simp] theorem State.withSequencer_walk (s : State) (x : Sequencer) : (s.withSequencer x).walk = s.walk := rfl
@[simp] theorem State.withSequencer_alarms (s : State) (x : Sequencer) : (s.withSequencer x).alarms = s.alarms := rfl
@[simp] theorem State.withSequencer_ports (s : State) (x : Sequencer) : (s.withSequencer x).ports = s.ports := rfl
@[simp] theorem State.withSequencer_store (s : State) (x : Sequencer) : (s.withSequencer x).store = s.store := rfl
@[simp] theorem State.withSequencer_memory (s : State) (x : Sequencer) : (s.withSequencer x).memory = s.memory := rfl
@[simp] theorem State.withSequencer_feedbackInputs (s : State) (x : Sequencer) : (s.withSequencer x).feedbackInputs = s.feedbackInputs := rfl
@[simp] theorem State.withSequencer_lines (s : State) (x : Sequencer) : (s.withSequencer x).lines = s.lines := rfl
@[simp] theorem State.withSequencer_pending (s : State) (x : Sequencer) : (s.withSequencer x).pending = s.pending := rfl

/-! ### withWalk -/

@[simp] theorem State.withWalk_power (s : State) (x : WalkTracker) : (s.withWalk x).power = s.power := rfl
@[simp] theorem State.withWalk_scanner (s : State) (x : WalkTracker) : (s.withWalk x).scanner = s.scanner := rfl
@[simp] theorem State.withWalk_bands (s : State) (x : WalkTracker) : (s.withWalk x).bands = s.bands := rfl
@[simp] theorem State.withWalk_envelope (s : State) (x : WalkTracker) : (s.withWalk x).envelope = s.envelope := rfl
@[simp] theorem State.withWalk_shaper (s : State) (x : WalkTracker) : (s.withWalk x).shaper = s.shaper := rfl
@[simp] theorem State.withWalk_gate (s : State) (x : WalkTracker) : (s.withWalk x).gate = s.gate := rfl
@[simp] theorem State.withWalk_sequencer (s : State) (x : WalkTracker) : (s.withWalk x).sequencer = s.sequencer := rfl
@[simp] theorem State.withWalk_walk (s : State) (x : WalkTracker) : (s.withWalk x).walk = x := rfl
@[simp] theorem State.withWalk_alarms (s : State) (x : WalkTracker) : (s.withWalk x).alarms = s.alarms := rfl
@[simp] theorem State.withWalk_ports (s : State) (x : WalkTracker) : (s.withWalk x).ports = s.ports := rfl
@[simp] theorem State.withWalk_store (s : State) (x : WalkTracker) : (s.withWalk x).store = s.store := rfl
@[simp] theorem State.withWalk_memory (s : State) (x : WalkTracker) : (s.withWalk x).memory = s.memory := rfl
@[simp] theorem State.withWalk_feedbackInputs (s : State) (x : WalkTracker) : (s.withWalk x).feedbackInputs = s.feedbackInputs := rfl
@[simp] theorem State.withWalk_lines (s : State) (x : WalkTracker) : (s.withWalk x).lines = s.lines := rfl
@[simp] theorem State.withWalk_pending (s : State) (x : WalkTracker) : (s.withWalk x).pending = s.pending := rfl

/-! ### withAlarms -/

@[simp] theorem State.withAlarms_power (s : State) (x : Alarms) : (s.withAlarms x).power = s.power := rfl
@[simp] theorem State.withAlarms_scanner (s : State) (x : Alarms) : (s.withAlarms x).scanner = s.scanner := rfl
@[simp] theorem State.withAlarms_bands (s : State) (x : Alarms) : (s.withAlarms x).bands = s.bands := rfl
@[simp] theorem State.withAlarms_envelope (s : State) (x : Alarms) : (s.withAlarms x).envelope = s.envelope := rfl
@[simp] theorem State.withAlarms_shaper (s : State) (x : Alarms) : (s.withAlarms x).shaper = s.shaper := rfl
@[simp] theorem State.withAlarms_gate (s : State) (x : Alarms) : (s.withAlarms x).gate = s.gate := rfl
@[simp] theorem State.withAlarms_sequencer (s : State) (x : Alarms) : (s.withAlarms x).sequencer = s.sequencer := rfl
@[simp] theorem State.withAlarms_walk (s : State) (x : Alarms) : (s.withAlarms x).walk = s.walk := rfl
@[simp] theorem State.withAlarms_alarms (s : State) (x : Alarms) : (s.withAlarms x).alarms = x := rfl
@[simp] theorem State.withAlarms_ports (s : State) (x : Alarms) : (s.withAlarms x).ports = s.ports := rfl
@[simp] theorem State.withAlarms_store (s : State) (x : Alarms) : (s.withAlarms x).store = s.store := rfl
@[simp] theorem State.withAlarms_memory (s : State) (x : Alarms) : (s.withAlarms x).memory = s.memory := rfl
@[simp] theorem State.withAlarms_feedbackInputs (s : State) (x : Alarms) : (s.withAlarms x).feedbackInputs = s.feedbackInputs := rfl
@[simp] theorem State.withAlarms_lines (s : State) (x : Alarms) : (s.withAlarms x).lines = s.lines := rfl
@[simp] theorem State.withAlarms_pending (s : State) (x : Alarms) : (s.withAlarms x).pending = s.pending := rfl

/-! ### withPorts -/

@[simp] theorem State.withPorts_power (s : State) (x : Ports) : (s.withPorts x).power = s.power := rfl
@[simp] theorem State.withPorts_scanner (s : State) (x : Ports) : (s.withPorts x).scanner = s.scanner := rfl
@[simp] theorem State.withPorts_bands (s : State) (x : Ports) : (s.withPorts x).bands = s.bands := rfl
@[simp] theorem State.withPorts_envelope (s : State) (x : Ports) : (s.withPorts x).envelope = s.envelope := rfl
@[simp] theorem State.withPorts_shaper (s : State) (x : Ports) : (s.withPorts x).shaper = s.shaper := rfl
@[simp] theorem State.withPorts_gate (s : State) (x : Ports) : (s.withPorts x).gate = s.gate := rfl
@[simp] theorem State.withPorts_sequencer (s : State) (x : Ports) : (s.withPorts x).sequencer = s.sequencer := rfl
@[simp] theorem State.withPorts_walk (s : State) (x : Ports) : (s.withPorts x).walk = s.walk := rfl
@[simp] theorem State.withPorts_alarms (s : State) (x : Ports) : (s.withPorts x).alarms = s.alarms := rfl
@[simp] theorem State.withPorts_ports (s : State) (x : Ports) : (s.withPorts x).ports = x := rfl
@[simp] theorem State.withPorts_store (s : State) (x : Ports) : (s.withPorts x).store = s.store := rfl
@[simp] theorem State.withPorts_memory (s : State) (x : Ports) : (s.withPorts x).memory = s.memory := rfl
@[simp] theorem State.withPorts_feedbackInputs (s : State) (x : Ports) : (s.withPorts x).feedbackInputs = s.feedbackInputs := rfl
@[simp] theorem State.withPorts_lines (s : State) (x : Ports) : (s.withPorts x).lines = s.lines := rfl
@[simp] theorem State.withPorts_pending (s : State) (x : Ports) : (s.withPorts x).pending = s.pending := rfl

/-! ### withStore -/

@[simp] theorem State.withStore_power (s : State) (x : Store) : (s.withStore x).power = s.power := rfl
@[simp] theorem State.withStore_scanner (s : State) (x : Store) : (s.withStore x).scanner = s.scanner := rfl
@[simp] theorem State.withStore_bands (s : State) (x : Store) : (s.withStore x).bands = s.bands := rfl
@[simp] theorem State.withStore_envelope (s : State) (x : Store) : (s.withStore x).envelope = s.envelope := rfl
@[simp] theorem State.withStore_shaper (s : State) (x : Store) : (s.withStore x).shaper = s.shaper := rfl
@[simp] theorem State.withStore_gate (s : State) (x : Store) : (s.withStore x).gate = s.gate := rfl
@[simp] theorem State.withStore_sequencer (s : State) (x : Store) : (s.withStore x).sequencer = s.sequencer := rfl
@[simp] theorem State.withStore_walk (s : State) (x : Store) : (s.withStore x).walk = s.walk := rfl
@[simp] theorem State.withStore_alarms (s : State) (x : Store) : (s.withStore x).alarms = s.alarms := rfl
@[simp] theorem State.withStore_ports (s : State) (x : Store) : (s.withStore x).ports = s.ports := rfl
@[simp] theorem State.withStore_store (s : State) (x : Store) : (s.withStore x).store = x := rfl
@[simp] theorem State.withStore_memory (s : State) (x : Store) : (s.withStore x).memory = s.memory := rfl
@[simp] theorem State.withStore_feedbackInputs (s : State) (x : Store) : (s.withStore x).feedbackInputs = s.feedbackInputs := rfl
@[simp] theorem State.withStore_lines (s : State) (x : Store) : (s.withStore x).lines = s.lines := rfl
@[simp] theorem State.withStore_pending (s : State) (x : Store) : (s.withStore x).pending = s.pending := rfl

/-! ### withMemory -/

@[simp] theorem State.withMemory_power (s : State) (x : Memory) : (s.withMemory x).power = s.power := rfl
@[simp] theorem State.withMemory_scanner (s : State) (x : Memory) : (s.withMemory x).scanner = s.scanner := rfl
@[simp] theorem State.withMemory_bands (s : State) (x : Memory) : (s.withMemory x).bands = s.bands := rfl
@[simp] theorem State.withMemory_envelope (s : State) (x : Memory) : (s.withMemory x).envelope = s.envelope := rfl
@[simp] theorem State.withMemory_shaper (s : State) (x : Memory) : (s.withMemory x).shaper = s.shaper := rfl
@[simp] theorem State.withMemory_gate (s : State) (x : Memory) : (s.withMemory x).gate = s.gate := rfl
@[simp] theorem State.withMemory_sequencer (s : State) (x : Memory) : (s.withMemory x).sequencer = s.sequencer := rfl
@[simp] theorem State.withMemory_walk (s : State) (x : Memory) : (s.withMemory x).walk = s.walk := rfl
@[simp] theorem State.withMemory_alarms (s : State) (x : Memory) : (s.withMemory x).alarms = s.alarms := rfl
@[simp] theorem State.withMemory_ports (s : State) (x : Memory) : (s.withMemory x).ports = s.ports := rfl
@[simp] theorem State.withMemory_store (s : State) (x : Memory) : (s.withMemory x).store = s.store := rfl
@[simp] theorem State.withMemory_memory (s : State) (x : Memory) : (s.withMemory x).memory = x := rfl
@[simp] theorem State.withMemory_feedbackInputs (s : State) (x : Memory) : (s.withMemory x).feedbackInputs = s.feedbackInputs := rfl
@[simp] theorem State.withMemory_lines (s : State) (x : Memory) : (s.withMemory x).lines = s.lines := rfl
@[simp] theorem State.withMemory_pending (s : State) (x : Memory) : (s.withMemory x).pending = s.pending := rfl

/-! ### withLink -/

@[simp] theorem State.withLink_power (s : State) (p : Port) (l : PortLink) : (s.withLink p l).power = s.power := rfl
@[simp] theorem State.withLink_scanner (s : State) (p : Port) (l : PortLink) :
    (s.withLink p l).scanner = s.scanner := rfl
@[simp] theorem State.withLink_bands (s : State) (p : Port) (l : PortLink) : (s.withLink p l).bands = s.bands := rfl
@[simp] theorem State.withLink_envelope (s : State) (p : Port) (l : PortLink) :
    (s.withLink p l).envelope = s.envelope := rfl
@[simp] theorem State.withLink_shaper (s : State) (p : Port) (l : PortLink) :
    (s.withLink p l).shaper = s.shaper := rfl
@[simp] theorem State.withLink_gate (s : State) (p : Port) (l : PortLink) : (s.withLink p l).gate = s.gate := rfl
@[simp] theorem State.withLink_sequencer (s : State) (p : Port) (l : PortLink) :
    (s.withLink p l).sequencer = s.sequencer := rfl
@[simp] theorem State.withLink_walk (s : State) (p : Port) (l : PortLink) : (s.withLink p l).walk = s.walk := rfl
@[simp] theorem State.withLink_alarms (s : State) (p : Port) (l : PortLink) :
    (s.withLink p l).alarms = s.alarms := rfl
@[simp] theorem State.withLink_ports (s : State) (p : Port) (l : PortLink) :
    (s.withLink p l).ports = { s.ports with links := s.ports.links.set p l } := rfl
@[simp] theorem State.withLink_store (s : State) (p : Port) (l : PortLink) : (s.withLink p l).store = s.store := rfl
@[simp] theorem State.withLink_memory (s : State) (p : Port) (l : PortLink) :
    (s.withLink p l).memory = s.memory := rfl
@[simp] theorem State.withLink_feedbackInputs (s : State) (p : Port) (l : PortLink) :
    (s.withLink p l).feedbackInputs = s.feedbackInputs := rfl
@[simp] theorem State.withLink_lines (s : State) (p : Port) (l : PortLink) : (s.withLink p l).lines = s.lines := rfl
@[simp] theorem State.withLink_pending (s : State) (p : Port) (l : PortLink) :
    (s.withLink p l).pending = s.pending := rfl

/-! ### withPortA -/

@[simp] theorem State.withPortA_power (s : State) (x : PortA) : (s.withPortA x).power = s.power := rfl
@[simp] theorem State.withPortA_scanner (s : State) (x : PortA) : (s.withPortA x).scanner = s.scanner := rfl
@[simp] theorem State.withPortA_bands (s : State) (x : PortA) : (s.withPortA x).bands = s.bands := rfl
@[simp] theorem State.withPortA_envelope (s : State) (x : PortA) : (s.withPortA x).envelope = s.envelope := rfl
@[simp] theorem State.withPortA_shaper (s : State) (x : PortA) : (s.withPortA x).shaper = s.shaper := rfl
@[simp] theorem State.withPortA_gate (s : State) (x : PortA) : (s.withPortA x).gate = s.gate := rfl
@[simp] theorem State.withPortA_sequencer (s : State) (x : PortA) : (s.withPortA x).sequencer = s.sequencer := rfl
@[simp] theorem State.withPortA_walk (s : State) (x : PortA) : (s.withPortA x).walk = s.walk := rfl
@[simp] theorem State.withPortA_alarms (s : State) (x : PortA) : (s.withPortA x).alarms = s.alarms := rfl
@[simp] theorem State.withPortA_ports (s : State) (x : PortA) : (s.withPortA x).ports = { s.ports with a := x } := rfl
@[simp] theorem State.withPortA_store (s : State) (x : PortA) : (s.withPortA x).store = s.store := rfl
@[simp] theorem State.withPortA_memory (s : State) (x : PortA) : (s.withPortA x).memory = s.memory := rfl
@[simp] theorem State.withPortA_feedbackInputs (s : State) (x : PortA) :
    (s.withPortA x).feedbackInputs = s.feedbackInputs := rfl
@[simp] theorem State.withPortA_lines (s : State) (x : PortA) : (s.withPortA x).lines = s.lines := rfl
@[simp] theorem State.withPortA_pending (s : State) (x : PortA) : (s.withPortA x).pending = s.pending := rfl

/-! ### withPortC -/

@[simp] theorem State.withPortC_power (s : State) (x : PortC) : (s.withPortC x).power = s.power := rfl
@[simp] theorem State.withPortC_scanner (s : State) (x : PortC) : (s.withPortC x).scanner = s.scanner := rfl
@[simp] theorem State.withPortC_bands (s : State) (x : PortC) : (s.withPortC x).bands = s.bands := rfl
@[simp] theorem State.withPortC_envelope (s : State) (x : PortC) : (s.withPortC x).envelope = s.envelope := rfl
@[simp] theorem State.withPortC_shaper (s : State) (x : PortC) : (s.withPortC x).shaper = s.shaper := rfl
@[simp] theorem State.withPortC_gate (s : State) (x : PortC) : (s.withPortC x).gate = s.gate := rfl
@[simp] theorem State.withPortC_sequencer (s : State) (x : PortC) : (s.withPortC x).sequencer = s.sequencer := rfl
@[simp] theorem State.withPortC_walk (s : State) (x : PortC) : (s.withPortC x).walk = s.walk := rfl
@[simp] theorem State.withPortC_alarms (s : State) (x : PortC) : (s.withPortC x).alarms = s.alarms := rfl
@[simp] theorem State.withPortC_ports (s : State) (x : PortC) : (s.withPortC x).ports = { s.ports with c := x } := rfl
@[simp] theorem State.withPortC_store (s : State) (x : PortC) : (s.withPortC x).store = s.store := rfl
@[simp] theorem State.withPortC_memory (s : State) (x : PortC) : (s.withPortC x).memory = s.memory := rfl
@[simp] theorem State.withPortC_feedbackInputs (s : State) (x : PortC) :
    (s.withPortC x).feedbackInputs = s.feedbackInputs := rfl
@[simp] theorem State.withPortC_lines (s : State) (x : PortC) : (s.withPortC x).lines = s.lines := rfl
@[simp] theorem State.withPortC_pending (s : State) (x : PortC) : (s.withPortC x).pending = s.pending := rfl

/-! ### withMotion -/

@[simp] theorem State.withMotion_power (s : State) (m : Motion) (r : MotionRecord) :
    (s.withMotion m r).power = s.power := rfl
@[simp] theorem State.withMotion_scanner (s : State) (m : Motion) (r : MotionRecord) :
    (s.withMotion m r).scanner = s.scanner := rfl
@[simp] theorem State.withMotion_bands (s : State) (m : Motion) (r : MotionRecord) :
    (s.withMotion m r).bands = s.bands := rfl
@[simp] theorem State.withMotion_envelope (s : State) (m : Motion) (r : MotionRecord) :
    (s.withMotion m r).envelope = s.envelope := rfl
@[simp] theorem State.withMotion_shaper (s : State) (m : Motion) (r : MotionRecord) :
    (s.withMotion m r).shaper = { s.shaper with motions := s.shaper.motions.set m r } := rfl
@[simp] theorem State.withMotion_gate (s : State) (m : Motion) (r : MotionRecord) :
    (s.withMotion m r).gate = s.gate := rfl
@[simp] theorem State.withMotion_sequencer (s : State) (m : Motion) (r : MotionRecord) :
    (s.withMotion m r).sequencer = s.sequencer := rfl
@[simp] theorem State.withMotion_walk (s : State) (m : Motion) (r : MotionRecord) :
    (s.withMotion m r).walk = s.walk := rfl
@[simp] theorem State.withMotion_alarms (s : State) (m : Motion) (r : MotionRecord) :
    (s.withMotion m r).alarms = s.alarms := rfl
@[simp] theorem State.withMotion_ports (s : State) (m : Motion) (r : MotionRecord) :
    (s.withMotion m r).ports = s.ports := rfl
@[simp] theorem State.withMotion_store (s : State) (m : Motion) (r : MotionRecord) :
    (s.withMotion m r).store = s.store := rfl
@[simp] theorem State.withMotion_memory (s : State) (m : Motion) (r : MotionRecord) :
    (s.withMotion m r).memory = s.memory := rfl
@[simp] theorem State.withMotion_feedbackInputs (s : State) (m : Motion) (r : MotionRecord) :
    (s.withMotion m r).feedbackInputs = s.feedbackInputs := rfl
@[simp] theorem State.withMotion_lines (s : State) (m : Motion) (r : MotionRecord) :
    (s.withMotion m r).lines = s.lines := rfl
@[simp] theorem State.withMotion_pending (s : State) (m : Motion) (r : MotionRecord) :
    (s.withMotion m r).pending = s.pending := rfl

/-! ### withBrake -/

@[simp] theorem State.withBrake_power (s : State) (m : Motion) (b : BrakeRecord) :
    (s.withBrake m b).power = s.power := rfl
@[simp] theorem State.withBrake_scanner (s : State) (m : Motion) (b : BrakeRecord) :
    (s.withBrake m b).scanner = s.scanner := rfl
@[simp] theorem State.withBrake_bands (s : State) (m : Motion) (b : BrakeRecord) :
    (s.withBrake m b).bands = s.bands := rfl
@[simp] theorem State.withBrake_envelope (s : State) (m : Motion) (b : BrakeRecord) :
    (s.withBrake m b).envelope = s.envelope := rfl
@[simp] theorem State.withBrake_shaper (s : State) (m : Motion) (b : BrakeRecord) :
    (s.withBrake m b).shaper = s.shaper := rfl
@[simp] theorem State.withBrake_gate (s : State) (m : Motion) (b : BrakeRecord) :
    (s.withBrake m b).gate = { s.gate with brakes := s.gate.brakes.set m b } := rfl
@[simp] theorem State.withBrake_sequencer (s : State) (m : Motion) (b : BrakeRecord) :
    (s.withBrake m b).sequencer = s.sequencer := rfl
@[simp] theorem State.withBrake_walk (s : State) (m : Motion) (b : BrakeRecord) :
    (s.withBrake m b).walk = s.walk := rfl
@[simp] theorem State.withBrake_alarms (s : State) (m : Motion) (b : BrakeRecord) :
    (s.withBrake m b).alarms = s.alarms := rfl
@[simp] theorem State.withBrake_ports (s : State) (m : Motion) (b : BrakeRecord) :
    (s.withBrake m b).ports = s.ports := rfl
@[simp] theorem State.withBrake_store (s : State) (m : Motion) (b : BrakeRecord) :
    (s.withBrake m b).store = s.store := rfl
@[simp] theorem State.withBrake_memory (s : State) (m : Motion) (b : BrakeRecord) :
    (s.withBrake m b).memory = s.memory := rfl
@[simp] theorem State.withBrake_feedbackInputs (s : State) (m : Motion) (b : BrakeRecord) :
    (s.withBrake m b).feedbackInputs = s.feedbackInputs := rfl
@[simp] theorem State.withBrake_lines (s : State) (m : Motion) (b : BrakeRecord) :
    (s.withBrake m b).lines = s.lines := rfl
@[simp] theorem State.withBrake_pending (s : State) (m : Motion) (b : BrakeRecord) :
    (s.withBrake m b).pending = s.pending := rfl

/-! ### The alarm unit's list -/

@[simp] theorem Alarms.withList_list (a : Alarms) (l : List AlarmEntry) : (a.withList l).list = l := rfl
@[simp] theorem Alarms.withList_overrun (a : Alarms) (l : List AlarmEntry) : (a.withList l).overrun = a.overrun := rfl
@[simp] theorem Alarms.lose_list (a : Alarms) (e : Option AlarmEntry) : (a.lose e).list = a.list := rfl
@[simp] theorem Alarms.lose_overrun (a : Alarms) (e : Option AlarmEntry) : (a.lose e).overrun = true := rfl
@[simp] theorem Alarms.lose_seconds (a : Alarms) (e : Option AlarmEntry) : (a.lose e).seconds = a.seconds := rfl
@[simp] theorem Alarms.forget_list (a : Alarms) (c : AlarmCode) (src : Source) : (a.forget c src).list = a.list := rfl
@[simp] theorem Alarms.forget_overrun (a : Alarms) (c : AlarmCode) (src : Source) :
    (a.forget c src).overrun = a.overrun := rfl
@[simp] theorem Alarms.forget_seconds (a : Alarms) (c : AlarmCode) (src : Source) :
    (a.forget c src).seconds = a.seconds := rfl
@[simp] theorem Alarms.withList_lost (a : Alarms) (l : List AlarmEntry) : (a.withList l).lost = a.lost := rfl
@[simp] theorem Alarms.withList_seconds (a : Alarms) (l : List AlarmEntry) : (a.withList l).seconds = a.seconds := rfl
@[simp] theorem Alarms.withList_driveReport (a : Alarms) (l : List AlarmEntry) :
    (a.withList l).driveReport = a.driveReport := rfl
@[simp] theorem Alarms.withList_driveFault (a : Alarms) (l : List AlarmEntry) :
    (a.withList l).driveFault = a.driveFault := rfl

end Sys2Proof.Machine
end

