-- ==== Sys2Proof/Laws/Settle.lean ====
section
/-! SUPPORT. What every event ends with: the fields `settle` leaves, and the conditions it forms told as the rules tell
them. -/

namespace Sys2Proof.Machine

/-! ### What settling leaves -/

@[simp] theorem settle_power (s : State) : (settle s).power = s.power := rfl
@[simp] theorem settle_scanner (s : State) : (settle s).scanner = s.scanner := rfl
@[simp] theorem settle_bands (s : State) : (settle s).bands = s.bands := rfl
@[simp] theorem settle_envelope (s : State) : (settle s).envelope = s.envelope := rfl
@[simp] theorem settle_gate (s : State) : (settle s).gate = s.gate := rfl
@[simp] theorem settle_walk (s : State) : (settle s).walk = s.walk := rfl
@[simp] theorem settle_alarms (s : State) : (settle s).alarms = s.alarms := rfl
@[simp] theorem settle_ports (s : State) : (settle s).ports = s.ports := rfl
@[simp] theorem settle_store (s : State) : (settle s).store = s.store := rfl
@[simp] theorem settle_memory (s : State) : (settle s).memory = s.memory := rfl
@[simp] theorem settle_feedbackInputs (s : State) : (settle s).feedbackInputs = s.feedbackInputs := rfl
@[simp] theorem settle_pending (s : State) : (settle s).pending = s.pending := rfl
@[simp] theorem settle_lines (s : State) : (settle s).lines = linesOf s := rfl
@[simp] theorem settle_mode (s : State) : (settle s).sequencer.mode = s.sequencer.mode := rfl
@[simp] theorem settle_queue (s : State) : (settle s).sequencer.queue = s.sequencer.queue := rfl
@[simp] theorem settle_record (s : State) : (settle s).sequencer.record = s.sequencer.record := rfl
@[simp] theorem settle_timeout (s : State) : (settle s).sequencer.timeout = s.sequencer.timeout := rfl
@[simp] theorem settle_walkPermit (s : State) : (settle s).sequencer.walkPermit = walkPermitOk s := rfl
@[simp] theorem settle_profiles (s : State) : (settle s).shaper.profiles = s.shaper.profiles := rfl
@[simp] theorem settle_readiness (s : State) : (settle s).shaper.readiness = s.shaper.readiness := rfl
@[simp] theorem settle_period (s : State) : (settle s).shaper.period = s.shaper.period := rfl
@[simp] theorem settle_weights (s : State) : (settle s).shaper.weights = s.shaper.weights := rfl
@[simp] theorem settle_shedOrder (s : State) : (settle s).shaper.shedOrder = s.shaper.shedOrder := rfl
@[simp] theorem settle_overdrawCount (s : State) : (settle s).shaper.overdrawCount = s.shaper.overdrawCount := rfl
@[simp] theorem settle_overdraw (s : State) : (settle s).shaper.overdraw = s.shaper.overdraw := rfl
@[simp] theorem settle_references (s : State) : (settle s).shaper.references = s.shaper.references := rfl

@[simp] theorem settle_motion (s : State) (m : Motion) :
    (settle s).shaper.motions.get m = { s.shaper.motions.get m with inService := inService s m } := by
  simp [settle]

@[simp] theorem settle_inService (s : State) (m : Motion) : inService (settle s) m = inService s m := rfl

/-! ### The conditions -/

theorem digging_iff (m : Mode) : digging m = true ↔ m = .dig ∨ ∃ d, m = .stopping .dig d := by
  cases m with
  | stopping w d => cases w <;> simp [digging]
  | _ => simp [digging]

theorem walking_iff (m : Mode) : walking m = true ↔ m = .walk ∨ ∃ d, m = .stopping .walk d := by
  cases m with
  | stopping w d => cases w <;> simp [walking]
  | _ => simp [walking]

theorem orderPending_iff (q : Sequencer) : orderPending q = true ↔ q.record.order = .pending := by
  simp [orderPending]

theorem groupReady_iff (r : PerGroup Readiness) (g : Group) : groupReady r g = true ↔ r.get g = .ready := by
  simp [groupReady]

/-- In-service is the row of R67. -/
theorem inService_iff (s : State) (m : Motion) : inService s m = true ↔ MayServe s m := by
  cases m <;>
    simp only [inService, motionInService, MayServe, Bool.and_eq_true, Bool.not_eq_true', digging_iff, walking_iff,
      groupReady_iff, PerGroup.get, beq_iff_eq, ← Bool.not_eq_true, orderPending_iff] <;>
    tauto

theorem holdsTrip_iff (l : List AlarmEntry) : holdsTrip l = true ↔ ∃ e ∈ l, e.cls = .trip := by
  simp [holdsTrip]

theorem walkPermitUnmoded_iff (s : State) : walkPermitUnmoded s = true ↔ MayWalk s := by
  simp only [walkPermitUnmoded, MayWalk, Bool.and_eq_true, Bool.not_eq_true', ← Bool.not_eq_true, holdsTrip_iff,
    beq_iff_eq, bne_iff_ne, Bool.or_eq_true, not_exists, not_and]
  tauto

theorem walkPermitOk_iff (s : State) :
    walkPermitOk s = true ↔ (s.sequencer.mode = .parked ∨ s.sequencer.mode = .dig) ∧ MayWalk s := by
  simp [walkPermitOk, walkPermitUnmoded_iff]

theorem brakeEnergised_iff (b : BrakeRecord) : brakeEnergised b = true ↔ Lifted b := by
  simp [brakeEnergised, Lifted]

theorem isSettled_iff (m : Mode) : isSettled m = true ↔ m = .parked ∨ m = .dig ∨ m = .walk := by
  cases m <;> simp [isSettled]

theorem tripAffects_iff (s : State) (m : Motion) : tripAffects s.alarms.list m = true ↔ Tripped s m := by
  simp [tripAffects, Tripped]

theorem classFlag_iff (c : AlarmClass) (l : List AlarmEntry) (m : Motion) :
    classFlag c l m = true ↔ ∃ e ∈ l, e.cls = c ∧ e.state ≠ .clearedUnack ∧ e.affected.get m = true := by
  simp [classFlag, isActive, and_assoc]

theorem hornSounds_iff (l : List AlarmEntry) :
    hornSounds l = true ↔ ∃ e ∈ l, e.cls ≠ .warn ∧ e.state ≠ .activeAck := by
  simp [hornSounds]

/-! ### What the shaper forms for its users -/

/-- The effective values under an association are those of R60. -/
theorem effectiveProfile_values (p : Profiles) (n : ProfileName) : EffectiveValues p n (effectiveProfile p n) := by
  cases n
  · rfl
  all_goals
    simp only [EffectiveValues, effectiveProfile, overCommon]
    refine ⟨⟨?_, ?_⟩, ⟨?_, ?_⟩, ⟨?_, ?_⟩, ⟨?_, ?_⟩, ⟨?_, ?_⟩, ⟨?_, ?_⟩, ?_, ?_⟩ <;> intros <;> simp [*]

theorem effectiveProfile_ceiling (p : Profiles) (n : ProfileName) :
    (effectiveProfile p n).ceiling = ceilingUnder p n := by cases n <;> rfl

/-- The ceiling test is R62's. -/
theorem lowersCeiling_iff (x : Shaper) (new : Profiles) : lowersCeiling x new = true ↔ LowersCeiling x new := by
  unfold lowersCeiling LowersCeiling
  rw [PerMotion.any_iff]
  refine exists_congr fun m => ?_
  cases h : (x.motions.get m).pendingAssociation <;> simp [h, ceilingFalls, effectiveProfile_ceiling, or_and_right, exists_or]

/-- The effective request is the one R82 and R83 form. -/
theorem effectiveRequest_formed {s : State} {m : Motion} {r : Int} (h : RequestFormed s m r) :
    effectiveRequest s m = r := by
  have hi := inService_iff s m
  have hf : finishingWalk s.sequencer.mode = true ↔ s.sequencer.mode = .stopping .walk .dig := by simp [finishingWalk]
  obtain ⟨h1, h2⟩ := h
  unfold effectiveRequest
  simp only
  split
  · next source d hm =>
    have h2 := h2 source d hm
    simp only [hm, Mode.stopping.injEq] at hf
    split
    · next hc =>
      simp only [hm, Bool.and_eq_true, Bool.not_eq_true', decide_eq_true_eq, hf, hi] at hc
      split
      · next x hx =>
        rw [h2.1 x ⟨hc.1.1.1.1, hc.1.1.1.2, hc.1.1.2, ⟨hc.1.2.1.1, hc.1.2.1.2, hc.1.2.2⟩, hc.2⟩ hx, Int.mul_comm]
      · next hx => exact (h2.2 (.inr hx)).symm
    · next hc =>
      simp only [hm, Bool.and_eq_true, Bool.not_eq_true', decide_eq_true_eq, hf, hi] at hc
      exact (h2.2 (.inl fun k => hc ⟨⟨⟨⟨k.1, k.2.1⟩, k.2.2.1⟩, ⟨k.2.2.2.1.1, k.2.2.2.1.2.1⟩, k.2.2.2.1.2.2⟩,
        k.2.2.2.2⟩)).symm
  · next hm =>
    have h1 := h1 hm
    split
    · next hc =>
      simp only [Bool.and_eq_true, Bool.not_eq_true', beq_iff_eq, hi] at hc
      exact (h1.1 ⟨hc.1.1.1, hc.1.1.2, hc.1.2⟩ hc.2).symm
    · next hc =>
      simp only [Bool.and_eq_true, Bool.not_eq_true', beq_iff_eq, hi] at hc
      exact (h1.2 fun k => hc ⟨⟨⟨k.1.1, k.1.2.1⟩, k.1.2.2⟩, k.2⟩).symm

/-- The lines of a running part are those of the rules. -/
theorem linesOf_running {s : State} (h : s.power = .running) :
    linesOf s =
      { brake := s.gate.brakes.map fun _ b => brakeEnergised b
        runEnable := PerMotion.of (runEnabled s)
        attention :=
          { a := s.ports.a.listChanged || s.alarms.horn
            b := orderPending s.sequencer
            c := s.ports.c.listChanged || s.ports.c.commitEnded }
        horn := s.alarms.horn } := by
  simp [linesOf, h]

end Sys2Proof.Machine
end

