-- ==== Sys2Proof/Laws/Reports.lean ====
section
/-! SUPPORT. What a report to the Alarm Unit can do, said once: `OnlyReports s t` is everything that any chain of
reports that leads from `s` to `t` can have changed. Every block that reports cites it instead of unfolding the Alarm
Unit and the trip effects. -/

namespace Sys2Proof.Machine

/-- A motion record stopped by a trip: zeroed, its permit clear (R74, R96). -/
def MotionRecord.stopped (r : MotionRecord) : MotionRecord := { r.zeroed with permit := false }

/-- A brake after one drop order or several (R108). -/
def dropped (b b' : BrakeRecord) : Prop := b' = dropBrake b ∨ b' = dropBrake (dropBrake b)

/-- What reports alone can do between two states. -/
structure OnlyReports (s t : State) : Prop where
  power : t.power = s.power
  scanner : t.scanner = s.scanner
  bands : t.bands = s.bands
  envelope : t.envelope = s.envelope
  store : t.store = s.store
  memory : t.memory = s.memory
  feedbackInputs : t.feedbackInputs = s.feedbackInputs
  lines : t.lines = s.lines
  pending : t.pending = s.pending
  links : t.ports.links = s.ports.links
  portA : t.ports.a = { s.ports.a with listChanged := t.ports.a.listChanged }
  portC : t.ports.c = { s.ports.c with listChanged := t.ports.c.listChanged }
  shaper : t.shaper = { s.shaper with
    motions := t.shaper.motions
    references := { s.shaper.references with outputs := t.shaper.references.outputs } }
  /-- A motion is as it was, its brake with it, or both have been stopped. -/
  motion : ∀ m, (t.shaper.motions.get m = s.shaper.motions.get m ∧ t.gate.brakes.get m = s.gate.brakes.get m) ∨
    (t.shaper.motions.get m = (s.shaper.motions.get m).stopped ∧ dropped (s.gate.brakes.get m) (t.gate.brakes.get m))
  published : (t.shaper.motions = s.shaper.motions ∧
      t.shaper.references.outputs = s.shaper.references.outputs) ∨
    t.shaper.references.outputs = outputsOf t.shaper
  gate : t.gate = { s.gate with brakes := t.gate.brakes }
  walk : (t.shaper.motions.walk = s.shaper.motions.walk ∧ t.walk = s.walk) ∨
    (t.shaper.motions.walk = s.shaper.motions.walk.stopped ∧ t.walk = { s.walk with walkLeft := 0, walkRight := 0 })
  sequencer : t.sequencer = s.sequencer ∨
    (t.sequencer = { s.sequencer with queue := [], mode := modeAfterTrip s.sequencer.mode } ∧
      ∀ m, t.shaper.motions.get m = (s.shaper.motions.get m).stopped)
  seconds : t.alarms.seconds = s.alarms.seconds
  driveReport : t.alarms.driveReport = s.alarms.driveReport
  driveFault : t.alarms.driveFault = s.alarms.driveFault

/-! ### The parts of a trip -/

@[simp] theorem MotionRecord.stopped_stopped (r : MotionRecord) : r.stopped.stopped = r.stopped := rfl

@[simp] theorem modeAfterTrip_twice (m : Mode) : modeAfterTrip (modeAfterTrip m) = modeAfterTrip m := by
  cases m <;> rfl

theorem dropBrake_thrice (b : BrakeRecord) : dropBrake (dropBrake (dropBrake b)) = dropBrake (dropBrake b) := by
  obtain ⟨state, _, _, _, _, _, _⟩ := b
  cases state <;> rfl

theorem dropped_trans {a b c : BrakeRecord} (h : dropped a b) (k : dropped b c) : dropped a c := by
  rcases h with rfl | rfl <;> rcases k with rfl | rfl <;> simp [dropped, dropBrake_thrice]

@[simp] theorem walkLeftOf_zero (skew : Int) (gain : Nat) : walkLeftOf skew 0 gain = 0 := by simp [walkLeftOf]

@[simp] theorem walkRightOf_zero (skew : Int) (gain : Nat) : walkRightOf skew 0 gain = 0 := by simp [walkRightOf]

/-- A WALK output of 0 handed on makes both side references 0 (R141). -/
theorem handWalkOutput_zero (s : State) :
    handWalkOutput 0 s = s.withWalk { s.walk with walkLeft := 0, walkRight := 0 } := by
  simp [handWalkOutput]

/-! ### Chains of reports -/

theorem OnlyReports.refl (s : State) : OnlyReports s s := by
  constructor <;> simp

theorem OnlyReports.trans {s t u : State} (h : OnlyReports s t) (k : OnlyReports t u) : OnlyReports s u where
  power := k.power.trans h.power
  scanner := k.scanner.trans h.scanner
  bands := k.bands.trans h.bands
  envelope := k.envelope.trans h.envelope
  store := k.store.trans h.store
  memory := k.memory.trans h.memory
  feedbackInputs := k.feedbackInputs.trans h.feedbackInputs
  lines := k.lines.trans h.lines
  pending := k.pending.trans h.pending
  links := k.links.trans h.links
  portA := by rw [k.portA, h.portA]
  portC := by rw [k.portC, h.portC]
  shaper := by rw [k.shaper, h.shaper]
  motion m := by
    rcases h.motion m with ⟨h1, h2⟩ | ⟨h1, h2⟩ <;> rcases k.motion m with ⟨k1, k2⟩ | ⟨k1, k2⟩
    · exact .inl ⟨k1.trans h1, k2.trans h2⟩
    · exact .inr ⟨by rw [k1, h1], by rw [← h2]; exact k2⟩
    · exact .inr ⟨k1.trans h1, by rw [k2]; exact h2⟩
    · exact .inr ⟨by rw [k1, h1, MotionRecord.stopped_stopped], dropped_trans h2 k2⟩
  published := by
    rcases k.published with ⟨k1, k2⟩ | k1
    · rcases h.published with ⟨h1, h2⟩ | h1
      · exact .inl ⟨k1.trans h1, k2.trans h2⟩
      · exact .inr (by rw [k2, h1, outputsOf, outputsOf, k1])
    · exact .inr k1
  gate := by rw [k.gate, h.gate]
  walk := by
    rcases h.walk with ⟨h1, h2⟩ | ⟨h1, h2⟩ <;> rcases k.walk with ⟨k1, k2⟩ | ⟨k1, k2⟩
    · exact .inl ⟨k1.trans h1, k2.trans h2⟩
    · exact .inr ⟨by rw [k1, h1], by rw [k2, h2]⟩
    · exact .inr ⟨k1.trans h1, k2.trans h2⟩
    · exact .inr ⟨by rw [k1, h1, MotionRecord.stopped_stopped], by rw [k2, h2]⟩
  sequencer := by
    rcases h.sequencer with h1 | ⟨h1, h2⟩
    · rcases k.sequencer with k1 | ⟨k1, k2⟩
      · exact .inl (k1.trans h1)
      · refine .inr ⟨by rw [k1, h1], fun m => ?_⟩
        rcases h.motion m with ⟨h3, -⟩ | ⟨h3, -⟩ <;> rw [k2 m, h3]
        rfl
    · refine .inr ⟨?_, fun m => ?_⟩
      · rcases k.sequencer with k1 | ⟨k1, -⟩
        · exact k1.trans h1
        · rw [k1, h1]
          simp
      · rcases k.motion m with ⟨k3, -⟩ | ⟨k3, -⟩ <;> rw [k3, h2 m]
        rfl
  seconds := k.seconds.trans h.seconds
  driveReport := k.driveReport.trans h.driveReport
  driveFault := k.driveFault.trans h.driveFault

/-! ### Each report -/

/-- The unit after a report keeps all but its list, its flags, its horn, its overrun mark and the conditions present
without an entry. -/
def KeepsClock (a : Alarms) (r : Reported) : Prop :=
  r.unit.seconds = a.seconds ∧ r.unit.driveReport = a.driveReport ∧ r.unit.driveFault = a.driveFault

theorem appendEntry_keeps (a : Alarms) (e : AlarmEntry) : KeepsClock a (appendEntry a e) := by
  unfold appendEntry
  split
  · exact ⟨rfl, rfl, rfl⟩
  · split <;> exact ⟨rfl, rfl, rfl⟩

theorem raiseHeld_keeps (a : Alarms) (arr : Arrangement) (c : AlarmCode) (src : Source) (d : Option Detail) :
    KeepsClock a (raiseHeld a arr c src d) := by
  unfold raiseHeld
  split
  · split
    · exact ⟨rfl, rfl, rfl⟩
    · exact appendEntry_keeps _ _
  · split
    · exact ⟨rfl, rfl, rfl⟩
    · split <;> exact ⟨rfl, rfl, rfl⟩

theorem raiseMomentary_keeps (a : Alarms) (arr : Arrangement) (c : AlarmCode) (src : Source) (d : Option Detail) :
    KeepsClock a (raiseMomentary a arr c src d) := by
  unfold raiseMomentary
  split
  · exact appendEntry_keeps _ _
  · exact ⟨rfl, rfl, rfl⟩

theorem conditionGone_keeps (a : Alarms) (c : AlarmCode) (src : Source) : KeepsClock a (conditionGone a c src) := by
  unfold conditionGone
  split
  · exact ⟨rfl, rfl, rfl⟩
  · split <;> exact ⟨rfl, rfl, rfl⟩

theorem takeReport_reports {r : Reported} {s : State} (h : KeepsClock s.alarms r) : OnlyReports s (takeReport r s) := by
  obtain ⟨h1, h2, h3⟩ := h
  unfold takeReport
  split <;> constructor <;> simp [noteListChange, h1, h2, h3]

/-- A trip of some motion, told field by field (R74, R96, R108, R130, R155). -/
theorem tripEffects_eq {ms : PerMotion Bool} (h : ms.any = true) (s : State) :
    tripEffects ms s = { s with
      shaper := { s.shaper with
        motions := s.shaper.motions.map fun m r => if ms.get m then r.stopped else r
        references := { s.shaper.references with
          outputs := s.shaper.motions.map fun m r => if ms.get m then 0 else r.output } }
      gate := { s.gate with brakes := s.gate.brakes.map fun m b => if ms.get m then dropBrake b else b }
      walk := if ms.walk then { s.walk with walkLeft := 0, walkRight := 0 } else s.walk
      sequencer := if ms.every then
        { s.sequencer with queue := [], mode := modeAfterTrip s.sequencer.mode } else s.sequencer } := by
  have hm : (s.shaper.motions.map fun m r => if ms.get m then { r with permit := false } else r).map
      (fun m r => if ms.get m then r.zeroed else r) =
      s.shaper.motions.map fun m r => if ms.get m then r.stopped else r := by
    apply PerMotion.ext_get
    intro m
    simp only [PerMotion.get_map]
    split <;> rfl
  have ho : (s.shaper.motions.map fun m r => if ms.get m then r.stopped else r).map (fun _ r => r.output) =
      s.shaper.motions.map fun m r => if ms.get m then 0 else r.output := by
    apply PerMotion.ext_get
    intro m
    simp only [PerMotion.get_map]
    split <;> rfl
  unfold tripEffects
  simp only [h, if_true]
  cases hw : ms.walk <;> cases he : ms.every <;>
    simp [dropBrakes, zeroMotions, clearPermits, allMotionTrip, republish, outputsOf, hw, handWalkOutput_zero,
      State.withShaper, State.withGate, State.withWalk, State.withSequencer, hm, ho]

/-- A trip of no motion does nothing. -/
theorem tripEffects_none {ms : PerMotion Bool} (h : ms.any = false) (s : State) : tripEffects ms s = s := by
  simp [tripEffects, h]

/-- A trip's effects are those of a report. -/
theorem tripEffects_reports (ms : PerMotion Bool) (s : State) : OnlyReports s (tripEffects ms s) := by
  cases h : ms.any
  · rw [tripEffects_none h]
    exact .refl s
  · rw [tripEffects_eq h]
    constructor <;> try rfl
    · intro m
      simp only [PerMotion.get_map]
      split
      · exact .inr ⟨rfl, .inl rfl⟩
      · exact .inl ⟨rfl, rfl⟩
    · refine .inr (PerMotion.ext_get fun m => ?_)
      simp only [outputsOf, PerMotion.get_map]
      split <;> rfl
    · cases hw : ms.walk <;> simp [PerMotion.map, PerMotion.get, hw]
    · cases he : ms.every
      · exact .inl (by simp)
      · have := (PerMotion.every_iff ms).1 he
        exact .inr ⟨by simp, fun m => by simp [this m]⟩

theorem applyClass_reports (r : Reported) (c : AlarmCode) (src : Source) (s : State) :
    OnlyReports s (applyClass r c src s) := by
  unfold applyClass
  split
  · exact tripEffects_reports _ _
  · exact .refl s

/-- A raise of a held condition does what reports do. -/
theorem reportRaise_reports (c : AlarmCode) (src : Source) (d : Option Detail) (s : State) :
    OnlyReports s (reportRaise c src d s) :=
  (takeReport_reports (raiseHeld_keeps _ _ _ _ _)).trans (applyClass_reports _ _ _ _)

/-- A raise of a momentary condition does what reports do. -/
theorem reportMomentary_reports (c : AlarmCode) (src : Source) (d : Option Detail) (s : State) :
    OnlyReports s (reportMomentary c src d s) :=
  (takeReport_reports (raiseMomentary_keeps _ _ _ _ _)).trans (applyClass_reports _ _ _ _)

/-- A condition gone does what reports do. -/
theorem reportGone_reports (c : AlarmCode) (src : Source) (s : State) : OnlyReports s (reportGone c src s) :=
  takeReport_reports (conditionGone_keeps _ _ _)

theorem reportChange_reports (c : AlarmCode) (src : Source) (before now : Option (Option Detail)) (s : State) :
    OnlyReports s (reportChange c src before now s) := by
  unfold reportChange
  split <;> split
  · exact .refl s
  · exact reportRaise_reports _ _ _ _
  · exact reportGone_reports _ _ _
  · exact .refl s

/-- A condition gone stops nothing: only the list, its flags and its horn, and the list-changed marks, can change. -/
theorem reportGone_eq (c : AlarmCode) (src : Source) (s : State) :
    reportGone c src s = { s with
      alarms := (reportGone c src s).alarms
      ports := (reportGone c src s).ports } := by
  unfold reportGone takeReport
  split <;> rfl

/-! ### The unit alone -/

theorem takeReport_alarms (r : Reported) (s : State) : (takeReport r s).alarms = r.unit := by
  unfold takeReport
  split <;> rfl

/-- A trip's effects are not the Alarm Unit's. -/
@[simp] theorem tripEffects_alarms (ms : PerMotion Bool) (s : State) : (tripEffects ms s).alarms = s.alarms := by
  cases h : ms.any
  · rw [tripEffects_none h]
  · rw [tripEffects_eq h]

theorem applyClass_alarms (r : Reported) (c : AlarmCode) (src : Source) (s : State) :
    (applyClass r c src s).alarms = s.alarms := by
  unfold applyClass
  split
  · exact tripEffects_alarms _ _
  · rfl

/-- What a report makes of the unit under an arrangement (R149 to R151). -/
def unitAfter (arr : Arrangement) (a : Alarms) : Report → Alarms
  | .raise c src d => (raiseHeld a arr c src d).unit
  | .momentary c src d => (raiseMomentary a arr c src d).unit
  | .gone c src => (conditionGone a c src).unit

/-- A report taken changes the unit as it does alone. -/
theorem Report.take_alarms (r : Report) (s : State) :
    (r.take s).alarms = unitAfter s.sequencer.record.arrangement s.alarms r := by
  cases r
  · show (applyClass _ _ _ _).alarms = _
    rw [applyClass_alarms, takeReport_alarms]
    rfl
  · show (applyClass _ _ _ _).alarms = _
    rw [applyClass_alarms, takeReport_alarms]
    rfl
  · exact takeReport_alarms _ _

theorem Report.take_reports (r : Report) (s : State) : OnlyReports s (r.take s) := by
  cases r
  · exact reportRaise_reports _ _ _ _
  · exact reportMomentary_reports _ _ _ _
  · exact reportGone_reports _ _ _

/-- A chain of reports changes the unit as the reports do alone, one after another: what trips hand on in between does
not matter to it. -/
theorem alarmsAfter_eq (reports : List Report) (s : State) :
    alarmsAfter reports s = reports.foldl (unitAfter s.sequencer.record.arrangement) s.alarms := by
  induction reports generalizing s with
  | nil => rfl
  | cons r rest ih =>
    have hr : (r.take s).sequencer.record = s.sequencer.record := by
      rcases (r.take_reports s).sequencer with h | ⟨h, -⟩ <;> rw [h]
    rw [List.foldl_cons, ← r.take_alarms s, ← hr]
    exact ih _

end Sys2Proof.Machine
end

