-- ==== Sys2Proof/Laws/Told.lean ====
section
/-! SUPPORT. Reports as lists: a chain of report operations is `takeReports` of the list it makes, and reports commute
with a change of what they neither read nor write (`SeenPast`). -/

namespace Sys2Proof.Machine

/-! ### Chains of reports -/

/-- The state `t` is what the reports make of `s`. -/
def Told (reports : List Report) (s t : State) : Prop := t = takeReports reports s

theorem takeReports_append (rs rs' : List Report) (s : State) :
    takeReports (rs ++ rs') s = takeReports rs' (takeReports rs s) := List.foldl_append

theorem takeReports_reports (rs : List Report) (s : State) : OnlyReports s (takeReports rs s) := by
  induction rs generalizing s with
  | nil => exact .refl s
  | cons r rs ih => exact (r.take_reports s).trans (ih _)

theorem Told.nil (s : State) : Told [] s s := rfl

theorem Told.trans {rs rs' : List Report} {s t u : State} (h : Told rs s t) (k : Told rs' t u) :
    Told (rs ++ rs') s u := by
  unfold Told at *
  rw [takeReports_append, ← h, k]

theorem told_raise (c : AlarmCode) (src : Source) (d : Option Detail) (s : State) :
    Told [.raise c src d] s (reportRaise c src d s) := rfl

theorem told_momentary (c : AlarmCode) (src : Source) (d : Option Detail) (s : State) :
    Told [.momentary c src d] s (reportMomentary c src d s) := rfl

theorem told_gone (c : AlarmCode) (src : Source) (s : State) : Told [.gone c src] s (reportGone c src s) := rfl

theorem reportChange_told (c : AlarmCode) (src : Source) (before now : Option (Option Detail)) (s : State) :
    Told (changeReports c src before now) s (reportChange c src before now s) := by
  unfold changeReports reportChange
  cases now with
  | none => cases before <;> rfl
  | some d => by_cases h : before = some d <;> simp only [h, if_true, if_false] <;> rfl

/-- A condition without detail, in the form the blocks write its change. -/
theorem bare_told (c : AlarmCode) (src : Source) (before now : Bool) (s : State) :
    Told (changeReports c src (bare before) (bare now)) s
      (if before = now then s else if now then reportRaise c src none s else reportGone c src s) := by
  cases before <;> cases now <;> rfl

theorem foldl_told {ι : Type} {f : State → ι → State} {reports : ι → List Report}
    (h : ∀ i s, Told (reports i) s (f s i)) (l : List ι) (s : State) : Told (l.flatMap reports) s (l.foldl f s) := by
  induction l generalizing s with
  | nil => rfl
  | cons i l ih =>
    rw [List.flatMap_cons, List.foldl_cons]
    exact (h i s).trans (ih _)

/-! ### What a report does not see -/

/-- A report that gives the same whether it is taken before or after a change. -/
def Report.SeenPast (r : Report) (f : State → State) : Prop := ∀ s, r.take (f s) = f (r.take s)

theorem takeReports_past {rs : List Report} {f : State → State} (h : ∀ r ∈ rs, r.SeenPast f) (s : State) :
    takeReports rs (f s) = f (takeReports rs s) := by
  induction rs generalizing s with
  | nil => rfl
  | cons r rs ih =>
    show takeReports rs (r.take (f s)) = f (takeReports rs (r.take s))
    rw [h r (.head _) s, ih fun x hx => h x (.tail _ hx)]

/-- A change made around reports that see past it is made before them. -/
theorem Told.past {rs : List Report} {s t : State} (h : Told rs s t) {f : State → State} (hf : ∀ r ∈ rs, r.SeenPast f) :
    Told rs (f s) (f t) := by
  unfold Told at *
  rw [takeReports_past hf, ← h]

/-- A trip that spares a motion leaves the sequencer alone. -/
theorem tripEffects_sequencer {ms : PerMotion Bool} (h : ms.every = false) (s : State) :
    (tripEffects ms s).sequencer = s.sequencer := by
  cases ha : ms.any
  · rw [tripEffects_none ha]
  · rw [tripEffects_eq ha]
    simp [h]

@[simp] theorem takeReport_sequencer (r : Reported) (s : State) : (takeReport r s).sequencer = s.sequencer := by
  unfold takeReport
  split <;> rfl

theorem applyClass_past {x y : Reported} (hxy : x.applied = y.applied) {c : AlarmCode} {src : Source} {s t : State}
    {f : State → State} (ht : t = f s) (hq : t.sequencer.record.arrangement = s.sequencer.record.arrangement)
    (he : ∀ ms : PerMotion Bool, alarmClass c src = .trip →
      ms = affectedMotions s.sequencer.record.arrangement c src → tripEffects ms (f s) = f (tripEffects ms s)) :
    applyClass x c src t = f (applyClass y c src s) := by
  subst ht
  unfold applyClass
  rw [hxy, hq]
  split
  · next h => exact he _ (by simpa using (Bool.and_eq_true_iff.1 h).2) rfl
  · rfl

/-- A report sees past a change that leaves the unit and the arrangement alone, that the notice of a list change and the
effects it may hand on see past. -/
theorem Report.past {r : Report} {f : State → State} (ha : ∀ s, (f s).alarms = s.alarms)
    (hq : ∀ s, (f s).sequencer.record.arrangement = s.sequencer.record.arrangement)
    (hn : ∀ x s, takeReport x (f s) = f (takeReport x s))
    (ht : ∀ ms s, (∀ m, ms.get m = true → r.MayTrip s.sequencer.record.arrangement m) →
      tripEffects ms (f s) = f (tripEffects ms s)) : r.SeenPast f := by
  intro s
  rcases r with ⟨c, src, d⟩ | ⟨c, src, d⟩ | ⟨c, src⟩
  · refine applyClass_past (congrArg Reported.applied (by rw [ha, hq])) (by rw [ha, hq, hn]) ?_ fun ms hc hm => ?_
    · rw [takeReport_sequencer, takeReport_sequencer, hq]
    · refine ht ms _ fun m h => ⟨hc, ?_⟩
      rw [← hm]
      exact h
  · refine applyClass_past (congrArg Reported.applied (by rw [ha, hq])) (by rw [ha, hq, hn]) ?_ fun ms hc hm => ?_
    · rw [takeReport_sequencer, takeReport_sequencer, hq]
    · refine ht ms _ fun m h => ⟨hc, ?_⟩
      rw [← hm]
      exact h
  · show takeReport (conditionGone (f s).alarms c src) (f s) = f (takeReport (conditionGone s.alarms c src) s)
    rw [ha, hn]

theorem Report.past_scanner (r : Report) (x : Scanner) : r.SeenPast (·.withScanner x) := by
  refine Report.past (fun _ => rfl) (fun _ => rfl) (fun x s => ?_) fun ms s _ => ?_
  · unfold takeReport
    split <;> rfl
  · cases h : ms.any
    · rw [tripEffects_none h, tripEffects_none h]
    · rw [tripEffects_eq h, tripEffects_eq h]
      rfl

theorem Report.past_bands (r : Report) (x : Bands) : r.SeenPast (·.withBands x) := by
  refine Report.past (fun _ => rfl) (fun _ => rfl) (fun x s => ?_) fun ms s _ => ?_
  · unfold takeReport
    split <;> rfl
  · cases h : ms.any
    · rw [tripEffects_none h, tripEffects_none h]
    · rw [tripEffects_eq h, tripEffects_eq h]
      rfl

theorem Report.past_envelope (r : Report) (x : Envelope) : r.SeenPast (·.withEnvelope x) := by
  refine Report.past (fun _ => rfl) (fun _ => rfl) (fun x s => ?_) fun ms s _ => ?_
  · unfold takeReport
    split <;> rfl
  · cases h : ms.any
    · rw [tripEffects_none h, tripEffects_none h]
    · rw [tripEffects_eq h, tripEffects_eq h]
      rfl

/-- A change of the tracker that leaves the side references alone. -/
theorem Report.past_walk (r : Report) {g : WalkTracker → WalkTracker}
    (hg : ∀ w : WalkTracker, g { w with walkLeft := 0, walkRight := 0 } = { g w with walkLeft := 0, walkRight := 0 }) :
    r.SeenPast fun s => s.withWalk (g s.walk) := by
  refine Report.past (fun _ => rfl) (fun _ => rfl) (fun x s => ?_) fun ms s _ => ?_
  · unfold takeReport
    split <;> rfl
  · cases h : ms.any
    · rw [tripEffects_none h, tripEffects_none h]
    · rw [tripEffects_eq h, tripEffects_eq h]
      cases ms.walk
      · rfl
      · simp only [if_true, State.withWalk, hg]

/-- A report that trips nothing sees past a change of the shaper, the gate and the side references. -/
theorem Report.past_motions {r : Report} (hr : ∀ arr m, ¬r.MayTrip arr m) {f : State → State}
    (ha : ∀ s, (f s).alarms = s.alarms)
    (hq : ∀ s, (f s).sequencer.record.arrangement = s.sequencer.record.arrangement)
    (hn : ∀ x s, takeReport x (f s) = f (takeReport x s)) : r.SeenPast f := by
  refine Report.past ha hq hn fun ms s hm => ?_
  have h : ms.any = false := by
    cases h : ms.any
    · rfl
    · obtain ⟨m, hm'⟩ := (PerMotion.any_iff ms).1 h
      exact absurd (hm m hm') (hr _ m)
  rw [tripEffects_none h, tripEffects_none h]

/-- A trip that spares a motion commutes with a change of its brake. -/
theorem tripEffects_withBrake {ms : PerMotion Bool} {m : Motion} (hm : ms.get m = true → False) (b : BrakeRecord)
    (s : State) : tripEffects ms (s.withBrake m b) = (tripEffects ms s).withBrake m b := by
  have hmm : ms.get m = false := by
    cases h : ms.get m
    · rfl
    · exact (hm h).elim
  cases h : ms.any
  · rw [tripEffects_none h, tripEffects_none h]
  · rw [tripEffects_eq h, tripEffects_eq h]
    have : ((s.gate.brakes.set m b).map fun k x => if ms.get k then dropBrake x else x) =
        (s.gate.brakes.map fun k x => if ms.get k then dropBrake x else x).set m b := by
      apply PerMotion.ext_get
      intro k
      by_cases hk : k = m <;> simp [PerMotion.get_set, hk, hmm]
    simp only [State.withBrake, State.withGate, this]

/-! ### What reports spare -/

/-- A report that may trip no motion of a kind hands on no effect to it. -/
theorem Report.take_spares {r : Report} {s : State} {m : Motion} (h : ¬r.MayTrip s.sequencer.record.arrangement m) :
    (r.take s).shaper.motions.get m = s.shaper.motions.get m ∧ (r.take s).gate.brakes.get m = s.gate.brakes.get m ∧
      (m = .walk → (r.take s).walk = s.walk) := by
  have hn : ∀ x : Reported, (takeReport x s).shaper = s.shaper ∧ (takeReport x s).gate = s.gate ∧
      (takeReport x s).walk = s.walk := by
    intro x
    unfold takeReport
    split <;> exact ⟨rfl, rfl, rfl⟩
  have key : ∀ (x : Reported) (c : AlarmCode) (src : Source),
      ¬(alarmClass c src = .trip ∧ (affectedMotions s.sequencer.record.arrangement c src).get m = true) →
      let t := applyClass x c src (takeReport x s)
      t.shaper.motions.get m = s.shaper.motions.get m ∧ t.gate.brakes.get m = s.gate.brakes.get m ∧
        (m = .walk → t.walk = s.walk) := by
    intro x c src hx
    obtain ⟨h1, h2, h3⟩ := hn x
    unfold applyClass
    simp only [takeReport_sequencer]
    split
    · next hc =>
      have hm : (affectedMotions s.sequencer.record.arrangement c src).get m ≠ true :=
        fun k => hx ⟨by simpa using (Bool.and_eq_true_iff.1 hc).2, k⟩
      cases ha : (affectedMotions s.sequencer.record.arrangement c src).any
      · rw [tripEffects_none ha, h1, h2, h3]
        exact ⟨rfl, rfl, fun _ => rfl⟩
      · rw [tripEffects_eq ha]
        refine ⟨by simp [hm, h1], by simp [hm, h2], fun hw => ?_⟩
        subst hw
        have : (affectedMotions s.sequencer.record.arrangement c src).walk ≠ true := hm
        simp [this, h3]
    · rw [h1, h2, h3]
      exact ⟨rfl, rfl, fun _ => rfl⟩
  rcases r with ⟨c, src, d⟩ | ⟨c, src, d⟩ | ⟨c, src⟩
  · exact key _ c src h
  · exact key _ c src h
  · obtain ⟨h1, h2, h3⟩ := hn (conditionGone s.alarms c src)
    exact ⟨congrArg (·.motions.get m) h1, congrArg (·.brakes.get m) h2, fun _ => h3⟩

/-- A report that does not affect all four motions leaves the sequencer alone (R130). -/
theorem Report.take_sequencer {r : Report} {s : State} (h : ∃ m, ¬r.MayTrip s.sequencer.record.arrangement m) :
    (r.take s).sequencer = s.sequencer := by
  obtain ⟨m, h⟩ := h
  have key : ∀ (x : Reported) (c : AlarmCode) (src : Source),
      ¬(alarmClass c src = .trip ∧ (affectedMotions s.sequencer.record.arrangement c src).get m = true) →
      (applyClass x c src (takeReport x s)).sequencer = s.sequencer := by
    intro x c src hx
    unfold applyClass
    simp only [takeReport_sequencer]
    split
    · next hc =>
      rw [tripEffects_sequencer, takeReport_sequencer]
      cases he : (affectedMotions s.sequencer.record.arrangement c src).every
      · rfl
      · exact absurd ⟨by simpa using (Bool.and_eq_true_iff.1 hc).2, (PerMotion.every_iff _).1 he m⟩ hx
    · exact takeReport_sequencer _ _
  rcases r with ⟨c, src, d⟩ | ⟨c, src, d⟩ | ⟨c, src⟩
  · exact key _ c src h
  · exact key _ c src h
  · exact takeReport_sequencer _ _

/-- Reports that may not trip a motion leave its record and its brake, and those that may not trip WALK the tracker. -/
theorem takeReports_spares {rs : List Report} {s : State} {m : Motion}
    (h : ∀ r ∈ rs, ¬r.MayTrip s.sequencer.record.arrangement m) :
    (takeReports rs s).shaper.motions.get m = s.shaper.motions.get m ∧
      (takeReports rs s).gate.brakes.get m = s.gate.brakes.get m ∧ (m = .walk → (takeReports rs s).walk = s.walk) := by
  induction rs generalizing s with
  | nil => exact ⟨rfl, rfl, fun _ => rfl⟩
  | cons r rs ih =>
    have hr : (r.take s).sequencer.record = s.sequencer.record := by
      rcases (r.take_reports s).sequencer with h | ⟨h, -⟩ <;> rw [h]
    obtain ⟨h1, h2, h3⟩ := Report.take_spares (h r (.head _))
    obtain ⟨k1, k2, k3⟩ := ih (s := r.take s) fun x hx => by
      rw [hr]
      exact h x (.tail _ hx)
    exact ⟨k1.trans h1, k2.trans h2, fun hw => (k3 hw).trans (h3 hw)⟩

/-- Reports none of which affects all four motions leave the sequencer alone. -/
theorem takeReports_sequencer {rs : List Report} {s : State}
    (h : ∀ r ∈ rs, ∃ m, ¬r.MayTrip s.sequencer.record.arrangement m) : (takeReports rs s).sequencer = s.sequencer := by
  induction rs generalizing s with
  | nil => rfl
  | cons r rs ih =>
    have hr := Report.take_sequencer (h r (.head _))
    refine (ih (s := r.take s) fun x hx => ?_).trans hr
    rw [hr]
    exact h x (.tail _ hx)

/-! ### The DRIVE-FAULT conditions, which the unit's own reports leave alone -/

/-- The unit with its DRIVE-FAULT conditions replaced. -/
def State.withDriveFault (s : State) (x : PerGroup Bool) : State := { s with alarms := { s.alarms with driveFault := x } }

theorem Report.past_driveFault (r : Report) (x : PerGroup Bool) : r.SeenPast (·.withDriveFault x) := by
  have hp : ∀ (a : Alarms) (e : AlarmEntry), appendEntry { a with driveFault := x } e =
      { appendEntry a e with unit := { (appendEntry a e).unit with driveFault := x } } := by
    intro a e
    unfold appendEntry
    dsimp only
    repeat' split
    all_goals rfl
  have hh : ∀ (a : Alarms) (arr : Arrangement) (c : AlarmCode) (src : Source) (d : Option Detail),
      raiseHeld { a with driveFault := x } arr c src d =
        { raiseHeld a arr c src d with unit := { (raiseHeld a arr c src d).unit with driveFault := x } } := by
    intro a arr c src d
    unfold raiseHeld
    dsimp only
    cases findEntry a.list c src with
    | none =>
      show (if a.hasLost c src = true then _ else appendEntry { a with driveFault := x } _) = _
      dsimp only
      split
      · rfl
      · exact hp _ _
    | some e =>
      dsimp only
      repeat' split
      all_goals rfl
  have hm : ∀ (a : Alarms) (arr : Arrangement) (c : AlarmCode) (src : Source) (d : Option Detail),
      raiseMomentary { a with driveFault := x } arr c src d =
        { raiseMomentary a arr c src d with unit := { (raiseMomentary a arr c src d).unit with driveFault := x } } := by
    intro a arr c src d
    unfold raiseMomentary
    dsimp only
    cases findEntry a.list c src with
    | none => exact hp _ _
    | some e => rfl
  have hg : ∀ (a : Alarms) (c : AlarmCode) (src : Source),
      conditionGone { a with driveFault := x } c src =
        { conditionGone a c src with unit := { (conditionGone a c src).unit with driveFault := x } } := by
    intro a c src
    unfold conditionGone
    dsimp only
    repeat' split
    all_goals rfl
  have hn : ∀ (y : Reported) (s : State),
      takeReport { y with unit := { y.unit with driveFault := x } } (s.withDriveFault x) =
        (takeReport y s).withDriveFault x := by
    intro y s
    unfold takeReport
    dsimp only
    split <;> rfl
  have ht : ∀ (ms : PerMotion Bool) (s : State), tripEffects ms (s.withDriveFault x) = (tripEffects ms s).withDriveFault x := by
    intro ms s
    cases h : ms.any
    · rw [tripEffects_none h, tripEffects_none h]
    · rw [tripEffects_eq h, tripEffects_eq h]
      rfl
  intro s
  rcases r with ⟨c, src, d⟩ | ⟨c, src, d⟩ | ⟨c, src⟩
  · have e := hh s.alarms s.sequencer.record.arrangement c src d
    exact applyClass_past (f := (·.withDriveFault x)) (congrArg Reported.applied e)
      ((congrArg (takeReport · (s.withDriveFault x)) e).trans (hn _ s)) (by simp; rfl) fun ms _ _ => ht ms _
  · have e := hm s.alarms s.sequencer.record.arrangement c src d
    exact applyClass_past (f := (·.withDriveFault x)) (congrArg Reported.applied e)
      ((congrArg (takeReport · (s.withDriveFault x)) e).trans (hn _ s)) (by simp; rfl) fun ms _ _ => ht ms _
  · exact (congrArg (takeReport · (s.withDriveFault x)) (hg s.alarms c src)).trans (hn _ s)

end Sys2Proof.Machine
end

