-- ==== Sys2Proof/Laws/Scan.lean ====
section
/-! SUPPORT. What a scan completion does, said once: the four blocks take the snapshot, and everything else it changes
is what reports change (`scanAll_reports`). -/

namespace Sys2Proof.Machine

/-! ### Replacing a block around reports -/

theorem OnlyReports.withEnvelope {s t : State} (h : OnlyReports s t) (e : Envelope) :
    OnlyReports (s.withEnvelope e) (t.withEnvelope e) :=
  { h with envelope := rfl }

theorem OnlyReports.withBands {s t : State} (h : OnlyReports s t) (b : Bands) :
    OnlyReports (s.withBands b) (t.withBands b) :=
  { h with bands := rfl }

/-- The tracker may be replaced by any function of it that leaves the side references alone. -/
theorem OnlyReports.withWalk {s t : State} (h : OnlyReports s t) {f : WalkTracker → WalkTracker}
    (hf : ∀ w : WalkTracker, f { w with walkLeft := 0, walkRight := 0 } = { f w with walkLeft := 0, walkRight := 0 }) :
    OnlyReports (s.withWalk (f s.walk)) (t.withWalk (f t.walk)) :=
  { h with
    walk := by
      rcases h.walk with ⟨h1, h2⟩ | ⟨h1, h2⟩
      · exact .inl ⟨h1, by simp [h2]⟩
      · exact .inr ⟨h1, by simp [h2, hf]⟩ }

/-- The record of the sequencer is no report's business. -/
theorem OnlyReports.record {s t : State} (h : OnlyReports s t) : t.sequencer.record = s.sequencer.record := by
  rcases h.sequencer with h | ⟨h, -⟩ <;> rw [h]

theorem OnlyReports.timeout {s t : State} (h : OnlyReports s t) : t.sequencer.timeout = s.sequencer.timeout := by
  rcases h.sequencer with h | ⟨h, -⟩ <;> rw [h]

theorem OnlyReports.mode {s t : State} (h : OnlyReports s t) :
    t.sequencer.mode = s.sequencer.mode ∨ t.sequencer.mode = modeAfterTrip s.sequencer.mode := by
  rcases h.sequencer with h | ⟨h, -⟩ <;> rw [h]
  · exact .inl rfl
  · exact .inr rfl

theorem OnlyReports.profiles {s t : State} (h : OnlyReports s t) : t.shaper.profiles = s.shaper.profiles := by
  rw [h.shaper]

theorem OnlyReports.readiness {s t : State} (h : OnlyReports s t) : t.shaper.readiness = s.shaper.readiness := by
  rw [h.shaper]

/-- No report touches a request or an association. -/
theorem OnlyReports.request {s t : State} (h : OnlyReports s t) (m : Motion) :
    (t.shaper.motions.get m).request = (s.shaper.motions.get m).request ∧
    (t.shaper.motions.get m).association = (s.shaper.motions.get m).association ∧
    (t.shaper.motions.get m).pendingAssociation = (s.shaper.motions.get m).pendingAssociation := by
  rcases h.motion m with ⟨h, -⟩ | ⟨h, -⟩ <;> rw [h] <;> exact ⟨rfl, rfl, rfl⟩

/-- The creep of a dig motion is no report's business. -/
theorem OnlyReports.digCreep {s t : State} (h : OnlyReports s t) :
    Machine.digCreep t.shaper = Machine.digCreep s.shaper := by
  simp only [Machine.digCreep, h.profiles]
  congr 1
  funext m
  rw [(h.request m.motion).2.1]

/-! ### The scanner -/

theorem reportChannel_reports (src : Source) (due changed : Bool) (now : Option Detail) (s : State) :
    OnlyReports s (reportChannel src due changed now s) := by
  unfold reportChannel
  split <;> split
  · exact reportRaise_reports _ _ _ _
  · exact .refl s
  · exact reportGone_reports _ _ _
  · exact .refl s

/-- A chain of steps that each do what reports do does what reports do. -/
theorem foldl_reports {ι : Type} {f : State → ι → State} (h : ∀ s i, OnlyReports s (f s i)) (l : List ι) (s : State) :
    OnlyReports s (l.foldl f s) := by
  induction l generalizing s with
  | nil => exact .refl s
  | cons i l ih => exact (h s i).trans (ih _)

theorem scannerScan_reports (conversions : PerAnalog Sample) (s : State) :
    OnlyReports (s.withScanner (scanChannels conversions s.scanner)) (scannerScan conversions s) :=
  (foldl_reports (fun _ _ => reportChannel_reports _ _ _ _ _) _ _).trans
    (foldl_reports (fun _ _ => reportChannel_reports _ _ _ _ _) _ _)

/-! ### The envelope -/

/-- The detail of ENVELOPE-INVALID, read off the table and the snapshot (R48). -/
theorem invalidDetail_eq (failed : Bool) (snap : Option Snapshot) : invalidDetail failed (pointOf snap) =
    if failed = true then some .table else if PositionsKnown snap then none else some .position := by
  cases failed
  · cases snap with
    | none => rfl
    | some x =>
      by_cases h : x.encoders.hoistPayout.state = .valid ∧ x.encoders.dragPayout.state = .valid ∧
          x.encoders.swingAngle.state = .valid
      · simp [invalidDetail, pointOf, h]
      · simp [invalidDetail, pointOf, h]
  · rfl

/-- The unit after an event from a snapshot, with what it has then reported (R38, R46 to R48). -/
def scannedEnvelope (creep : PerDig Nat) (snap : Option Snapshot) (e : Envelope) : Envelope :=
  let formed := formEnvelope creep snap e
  { formed with reported :=
    { invalid := invalidDetail e.tableFailed (pointOf snap), intrusion := formed.keepOutMember,
      zoneWarn := formed.warnMember } }

/-- After it, what the unit last told is what stands. -/
theorem scannedEnvelope_told (creep : PerDig Nat) (snap : Option Snapshot) (e : Envelope) :
    EnvelopeTold (scannedEnvelope creep snap e) snap := by
  show (scannedEnvelope creep snap e).reported = _
  rw [← invalidDetail_eq]
  rfl

theorem envelopeEvent_reports (s : State) :
    OnlyReports (s.withEnvelope (scannedEnvelope (digCreep s.shaper) s.scanner.snapshot s.envelope))
      (envelopeEvent s) :=
  ((reportChange_reports _ _ _ _ _).trans (reportChange_reports _ _ _ _ _)).trans (reportChange_reports _ _ _ _ _)

/-! ### The bands -/

theorem reportBand_reports (src : Source) (before now : Option AlarmCode) (s : State) :
    OnlyReports s (reportBand src before now s) := by
  unfold reportBand
  split
  · exact .refl s
  · cases before <;> cases now
    · exact .refl s
    · exact reportRaise_reports _ _ _ _
    · exact reportGone_reports _ _ _
    · exact (reportGone_reports _ _ _).trans (reportRaise_reports _ _ _ _)

theorem bandEvent_reports (b : Bands) (s : State) :
    OnlyReports (s.withBands { b with reportDue := false }) (bandEvent b s) :=
  (reportBand_reports _ _ _ _).trans (reportBand_reports _ _ _ _)

theorem reportOvercurrent_reports (tripped : PerGroup Bool) (g : Group) (s : State) :
    OnlyReports s (reportOvercurrent tripped g s) := by
  unfold reportOvercurrent
  split
  · exact reportMomentary_reports _ _ _ _
  · exact .refl s

theorem bandsScan_reports (snap : Snapshot) (s : State) :
    OnlyReports
      (s.withBands { scannedBands (orderPending s.sequencer) snap s.bands with reportDue := false })
      (bandsScan snap s) :=
  (((bandEvent_reports _ s).trans (reportOvercurrent_reports _ _ _)).trans (reportOvercurrent_reports _ _ _)).trans
    (reportOvercurrent_reports _ _ _)

/-! ### The walk -/

/-- The tracker after a snapshot, its SKEW condition judged (R135, R139). -/
def scannedWalk (snap : Snapshot) (w : WalkTracker) : WalkTracker :=
  let tracked := trackWalk snap w
  { tracked with
    skewCondition := judgeSkew w.skewCondition tracked.skew w.settings.trip, reportDue := false }

theorem walkScan_reports (snap : Snapshot) (s : State) :
    OnlyReports (s.withWalk (scannedWalk snap s.walk)) (walkScan snap s) := by
  have key : ∀ (x : State) (before now : Bool), OnlyReports x
      (if before = now then x
        else if now then reportRaise .skew (.motion .walk) none x else reportGone .skew (.motion .walk) x) := by
    intro x before now
    split
    · exact .refl x
    · split
      · exact reportRaise_reports _ _ _ _
      · exact reportGone_reports _ _ _
  exact key _ _ _

theorem scannedWalk_sides (snap : Snapshot) (w : WalkTracker) :
    scannedWalk snap { w with walkLeft := 0, walkRight := 0 } =
      { scannedWalk snap w with walkLeft := 0, walkRight := 0 } := by
  unfold scannedWalk trackWalk
  simp only
  split <;> rfl

/-! ### The whole scan -/

/-- The snapshot a scan completion publishes (R1, R2). -/
def scanSnapshot (conversions : PerAnalog Sample) (x : Scanner) : Snapshot :=
  takeSnapshot (x.encoders.map scanEncoder) (x.analogs.map fun a r => scanAnalog a (conversions.get a) r)
    (x.scanNumber + 1)

/-- The four blocks as a scan completion leaves them. -/
def scannedBlocks (conversions : PerAnalog Sample) (s : State) : State :=
  let snap := scanSnapshot conversions s.scanner
  { s with
    scanner := scanChannels conversions s.scanner
    envelope := scannedEnvelope (digCreep s.shaper) (some snap) s.envelope
    bands := { scannedBands (orderPending s.sequencer) snap s.bands with reportDue := false }
    walk := scannedWalk snap s.walk }

theorem scanChannels_snapshot (conversions : PerAnalog Sample) (x : Scanner) :
    (scanChannels conversions x).snapshot = some (scanSnapshot conversions x) := rfl

/-- A scan completion is the four blocks' taking of the snapshot, and reports. -/
theorem scanAll_reports (conversions : PerAnalog Sample) (s : State) :
    OnlyReports (scannedBlocks conversions s) (scanAll conversions s) := by
  have h1 := scannerScan_reports conversions s
  have hsnap : (scannerScan conversions s).scanner.snapshot = some (scanSnapshot conversions s.scanner) := by
    rw [h1.scanner]
    rfl
  unfold scanAll
  simp only [hsnap]
  have h2 := envelopeEvent_reports (scannerScan conversions s)
  have h3 := bandsScan_reports (scanSnapshot conversions s.scanner) (envelopeEvent (scannerScan conversions s))
  have h4 := walkScan_reports (scanSnapshot conversions s.scanner)
    (bandsScan (scanSnapshot conversions s.scanner) (envelopeEvent (scannerScan conversions s)))
  rw [hsnap, h1.digCreep, h1.envelope] at h2
  have k2 := (h1.withEnvelope (scannedEnvelope (digCreep s.shaper) (some (scanSnapshot conversions s.scanner)) s.envelope)).trans h2
  have hp : orderPending (envelopeEvent (scannerScan conversions s)).sequencer = orderPending s.sequencer := by
    simp [orderPending, k2.record]
  have hb : (envelopeEvent (scannerScan conversions s)).bands = s.bands := k2.bands
  rw [hp, hb] at h3
  have k3 := (k2.withBands { scannedBands (orderPending s.sequencer) (scanSnapshot conversions s.scanner) s.bands with reportDue := false }).trans h3
  exact (k3.withWalk (scannedWalk_sides _)).trans h4

/-! ### The reports of a scan, as a list -/

theorem reportBand_told (src : Source) (before now : Option AlarmCode) (s : State) :
    Told (bandReports src before now) s (reportBand src before now s) := by
  unfold bandReports reportBand
  by_cases h : before = now
  · simp only [h, if_true]
    rfl
  · simp only [h, if_false]
    cases before <;> cases now <;> rfl

theorem reportEncoder_told (due : Bool) (x y : Scanner) (e : EncoderId) (s : State) :
    Told (channelReports due (.encoder e) (encoderCondition x e) (encoderCondition y e)) s
      (reportEncoder due x.encoders y.encoders e s) := by
  unfold channelReports reportEncoder reportChannel encoderCondition encoderFaultDetail
  cases (x.encoders.get e).state <;> cases (y.encoders.get e).state <;> cases due <;> rfl

theorem reportAnalog_told (due : Bool) (x y : Scanner) (a : AnalogId) (s : State) :
    Told (channelReports due (.analog a) (analogCondition x a) (analogCondition y a)) s
      (reportAnalog due x.analogs y.analogs a s) := by
  unfold channelReports reportAnalog reportChannel analogCondition analogFaultDetail
  cases (x.analogs.get a).state <;> cases (y.analogs.get a).state <;> cases due <;> rfl

theorem reportOvercurrent_told (tripped : PerGroup Bool) (g : Group) (s : State) :
    Told (if tripped.get g = true then [.momentary .overcurrent (.group g) none] else []) s
      (reportOvercurrent tripped g s) := by
  unfold reportOvercurrent
  cases tripped.get g <;> rfl

theorem scannerScan_told (conversions : PerAnalog Sample) (s : State) :
    Told ((EncoderId.all.flatMap fun e => channelReports s.scanner.reportDue (.encoder e) (encoderCondition s.scanner e)
          (encoderCondition (scanChannels conversions s.scanner) e)) ++
        AnalogId.all.flatMap fun a => channelReports s.scanner.reportDue (.analog a) (analogCondition s.scanner a)
          (analogCondition (scanChannels conversions s.scanner) a))
      (s.withScanner (scanChannels conversions s.scanner)) (scannerScan conversions s) :=
  (foldl_told (fun e t => reportEncoder_told _ _ _ e t) _ _).trans
    (foldl_told (fun a t => reportAnalog_told _ _ _ a t) _ _)

theorem envelopeEvent_told (s : State) :
    let formed := scannedEnvelope (digCreep s.shaper) s.scanner.snapshot s.envelope
    Told (envelopeReports s.envelope formed s.scanner.snapshot) (s.withEnvelope formed) (envelopeEvent s) := by
  have hk : ∀ (failed : Bool) (snap : Option Snapshot),
      (invalidDetail failed (pointOf snap)).map (fun d => some (invalidDetailOf d)) =
        if failed = true then some (some .table) else if PositionsKnown snap then none else some (some .position) := by
    intro failed snap
    rw [invalidDetail_eq]
    split
    · rfl
    · split <;> rfl
  unfold envelopeReports
  simp only
  have := hk s.envelope.tableFailed s.scanner.snapshot
  have ht : (scannedEnvelope (digCreep s.shaper) s.scanner.snapshot s.envelope).tableFailed = s.envelope.tableFailed := rfl
  rw [ht, ← this]
  exact ((reportChange_told _ _ _ _ _).trans (reportChange_told _ _ _ _ _)).trans (reportChange_told _ _ _ _ _)

theorem bandsScan_told (snap : Snapshot) (s : State) :
    let after := { scannedBands (orderPending s.sequencer) snap s.bands with reportDue := false }
    let first (was : Option AlarmCode) : Option AlarmCode := if s.bands.reportDue = true then none else was
    let tripped := s.bands.integrators.map fun g _ => (scanIntegrator s.bands (orderPending s.sequencer) snap g).2
    let overcurrent (g : Group) : List Report :=
      if tripped.get g = true then [.momentary .overcurrent (.group g) none] else []
    Told (bandReports .supply (first (supplyCondition s.bands)) (supplyCondition after) ++
        bandReports .boom (first (boomCondition s.bands)) (boomCondition after) ++
        overcurrent .hg ++ overcurrent .dg ++ overcurrent .sg)
      (s.withBands after) (bandsScan snap s) := by
  have hb : ∀ b : Bands, boomCondition b = boomAlarm (effectiveBoom b) := by
    intro b
    unfold boomCondition boomAlarm
    cases effectiveBoom b <;> rfl
  simp only [hb]
  exact (((((reportBand_told _ _ _ _).trans (reportBand_told _ _ _ _)).trans (reportOvercurrent_told _ _ _)).trans
    (reportOvercurrent_told _ _ _)).trans (reportOvercurrent_told _ _ _))

theorem walkScan_told (snap : Snapshot) (s : State) :
    Told (changeReports .skew (.motion .walk) (bare (s.walk.skewCondition && !s.walk.reportDue))
        (bare (scannedWalk snap s.walk).skewCondition)) (s.withWalk (scannedWalk snap s.walk)) (walkScan snap s) := by
  have h : (s.walk.skewCondition && !s.walk.reportDue) = if s.walk.reportDue then false else s.walk.skewCondition := by
    cases s.walk.reportDue <;> cases s.walk.skewCondition <;> rfl
  rw [h]
  exact bare_told _ _ _ _ _

/-- A scan completion is what exactly its reports make of the scanned blocks. -/
theorem scanAll_told (conversions : PerAnalog Sample) (s : State) :
    let snap := scanSnapshot conversions s.scanner
    Told (scanReports s (scannedBlocks conversions s) snap fun g =>
        (scanIntegrator s.bands (orderPending s.sequencer) snap g).2)
      (scannedBlocks conversions s) (scanAll conversions s) := by
  have r1 := scannerScan_reports conversions s
  have hsnap : (scannerScan conversions s).scanner.snapshot = some (scanSnapshot conversions s.scanner) := by
    rw [r1.scanner]
    rfl
  have r2 := envelopeEvent_reports (scannerScan conversions s)
  have h1 := scannerScan_told conversions s
  have h2 := envelopeEvent_told (scannerScan conversions s)
  have h3 := bandsScan_told (scanSnapshot conversions s.scanner) (envelopeEvent (scannerScan conversions s))
  have h4 := walkScan_told (scanSnapshot conversions s.scanner)
    (bandsScan (scanSnapshot conversions s.scanner) (envelopeEvent (scannerScan conversions s)))
  rw [hsnap, r1.digCreep, r1.envelope] at r2
  simp only [hsnap, r1.digCreep, r1.envelope] at h2
  have k2 := (h1.past fun r _ => r.past_envelope
    (scannedEnvelope (digCreep s.shaper) (some (scanSnapshot conversions s.scanner)) s.envelope)).trans h2
  have q2 := (r1.withEnvelope
    (scannedEnvelope (digCreep s.shaper) (some (scanSnapshot conversions s.scanner)) s.envelope)).trans r2
  have hp : orderPending (envelopeEvent (scannerScan conversions s)).sequencer = orderPending s.sequencer := by
    simp [orderPending, q2.record]
  have hb : (envelopeEvent (scannerScan conversions s)).bands = s.bands := q2.bands
  simp only [hp, hb] at h3
  have k3 := (k2.past fun r _ => r.past_bands
    { scannedBands (orderPending s.sequencer) (scanSnapshot conversions s.scanner) s.bands with reportDue := false }).trans h3
  have k4 := (k3.past fun r _ => r.past_walk (scannedWalk_sides (scanSnapshot conversions s.scanner))).trans h4
  have r3 := bandsScan_reports (scanSnapshot conversions s.scanner) (envelopeEvent (scannerScan conversions s))
  rw [hp, hb] at r3
  have q3 := (q2.withBands { scannedBands (orderPending s.sequencer) (scanSnapshot conversions s.scanner) s.bands with
    reportDue := false }).trans r3
  have hw : ∀ w, (w = s.walk ∨ w = { s.walk with walkLeft := 0, walkRight := 0 }) →
      w.skewCondition = s.walk.skewCondition ∧ w.reportDue = s.walk.reportDue ∧
      (scannedWalk (scanSnapshot conversions s.scanner) w).skewCondition =
        (scannedWalk (scanSnapshot conversions s.scanner) s.walk).skewCondition := by
    rintro w (rfl | rfl)
    · exact ⟨rfl, rfl, rfl⟩
    · exact ⟨rfl, rfl, by rw [scannedWalk_sides]⟩
  obtain ⟨e1, e2, e3⟩ := hw _ (q3.walk.imp (·.2) (·.2))
  rw [e1, e2, e3] at k4
  unfold scanAll
  simp only [hsnap]
  simp only [scanReports, List.append_assoc] at k4 ⊢
  exact k4

end Sys2Proof.Machine
end

