-- ==== Sys2Proof/Laws/Sequencer.lean ====
section
/-! SUPPORT. What the Mode Sequencer's operations do: everything but the sequencer and the DRIVE-FAULT conditions is
what reports change (`OnlySequencer`), and the sequencer they leave is told exactly; an order issued takes the
integrators of HG and DG to 0, and nothing else of them touches the Band Monitor (`OrderBlanks`). -/

namespace Sys2Proof.Machine

/-! ### Reports that leave the sequencer alone -/

/-- A raise of a class that stops nothing changes the Alarm Unit and the list-changed marks alone. -/
theorem reportRaise_eq {c : AlarmCode} {src : Source} (h : alarmClass c src ≠ .trip) (d : Option Detail) (s : State) :
    reportRaise c src d s = { s with
      alarms := (reportRaise c src d s).alarms
      ports := (reportRaise c src d s).ports } := by
  have : (alarmClass c src == AlarmClass.trip) = false := by simpa using h
  unfold reportRaise applyClass takeReport
  simp only [this, Bool.and_false, Bool.false_eq_true, if_false]
  split <;> rfl

/-- A momentary report of a class that stops nothing changes the Alarm Unit and the list-changed marks alone. -/
theorem reportMomentary_eq {c : AlarmCode} {src : Source} (h : alarmClass c src ≠ .trip) (d : Option Detail)
    (s : State) :
    reportMomentary c src d s = { s with
      alarms := (reportMomentary c src d s).alarms
      ports := (reportMomentary c src d s).ports } := by
  have : (alarmClass c src == AlarmClass.trip) = false := by simpa using h
  unfold reportMomentary applyClass takeReport
  simp only [this, Bool.and_false, Bool.false_eq_true, if_false]
  split <;> rfl

/-- A raise whose affected motions spare one leaves the sequencer alone. -/
theorem reportRaise_sequencer {c : AlarmCode} {src : Source} {s : State}
    (h : (affectedMotions s.sequencer.record.arrangement c src).every = false) (d : Option Detail) :
    (reportRaise c src d s).sequencer = s.sequencer := by
  unfold reportRaise applyClass
  simp only
  split
  · rw [takeReport_sequencer, tripEffects_sequencer h, takeReport_sequencer]
  · rw [takeReport_sequencer]

theorem fedBy_every (g : Group) (arr : Arrangement) : (fedBy g arr).every = false := by
  cases g <;> cases arr <;> rfl

theorem onlyMotion_every (m : Motion) : (onlyMotion m).every = false := by cases m <;> rfl

/-! ### The relation -/

/-- The sequencer, the DRIVE-FAULT conditions and the current integrators replaced. -/
def State.withOrders (s : State) (q : Sequencer) (f : PerGroup Bool) (i : PerGroup Nat) : State :=
  ((s.withSequencer q).withAlarms { s.alarms with driveFault := f }).withBands { s.bands with integrators := i }

/-! ### Replacing the orders -/

@[simp] theorem State.withOrders_power (s : State) (q : Sequencer) (f : PerGroup Bool) (i : PerGroup Nat) :
    (s.withOrders q f i).power = s.power := rfl
@[simp] theorem State.withOrders_scanner (s : State) (q : Sequencer) (f : PerGroup Bool) (i : PerGroup Nat) :
    (s.withOrders q f i).scanner = s.scanner := rfl
@[simp] theorem State.withOrders_bands (s : State) (q : Sequencer) (f : PerGroup Bool) (i : PerGroup Nat) :
    (s.withOrders q f i).bands = { s.bands with integrators := i } := rfl
@[simp] theorem State.withOrders_envelope (s : State) (q : Sequencer) (f : PerGroup Bool) (i : PerGroup Nat) :
    (s.withOrders q f i).envelope = s.envelope := rfl
@[simp] theorem State.withOrders_shaper (s : State) (q : Sequencer) (f : PerGroup Bool) (i : PerGroup Nat) :
    (s.withOrders q f i).shaper = s.shaper := rfl
@[simp] theorem State.withOrders_gate (s : State) (q : Sequencer) (f : PerGroup Bool) (i : PerGroup Nat) :
    (s.withOrders q f i).gate = s.gate := rfl
@[simp] theorem State.withOrders_walk (s : State) (q : Sequencer) (f : PerGroup Bool) (i : PerGroup Nat) :
    (s.withOrders q f i).walk = s.walk := rfl
@[simp] theorem State.withOrders_ports (s : State) (q : Sequencer) (f : PerGroup Bool) (i : PerGroup Nat) :
    (s.withOrders q f i).ports = s.ports := rfl
@[simp] theorem State.withOrders_store (s : State) (q : Sequencer) (f : PerGroup Bool) (i : PerGroup Nat) :
    (s.withOrders q f i).store = s.store := rfl
@[simp] theorem State.withOrders_memory (s : State) (q : Sequencer) (f : PerGroup Bool) (i : PerGroup Nat) :
    (s.withOrders q f i).memory = s.memory := rfl
@[simp] theorem State.withOrders_feedbackInputs (s : State) (q : Sequencer) (f : PerGroup Bool) (i : PerGroup Nat) :
    (s.withOrders q f i).feedbackInputs = s.feedbackInputs := rfl
@[simp] theorem State.withOrders_lines (s : State) (q : Sequencer) (f : PerGroup Bool) (i : PerGroup Nat) :
    (s.withOrders q f i).lines = s.lines := rfl
@[simp] theorem State.withOrders_pending (s : State) (q : Sequencer) (f : PerGroup Bool) (i : PerGroup Nat) :
    (s.withOrders q f i).pending = s.pending := rfl
@[simp] theorem State.withOrders_sequencer (s : State) (q : Sequencer) (f : PerGroup Bool) (i : PerGroup Nat) :
    (s.withOrders q f i).sequencer = q := rfl
@[simp] theorem State.withOrders_list (s : State) (q : Sequencer) (f : PerGroup Bool) (i : PerGroup Nat) :
    (s.withOrders q f i).alarms.list = s.alarms.list := rfl
@[simp] theorem State.withOrders_seconds (s : State) (q : Sequencer) (f : PerGroup Bool) (i : PerGroup Nat) :
    (s.withOrders q f i).alarms.seconds = s.alarms.seconds := rfl
@[simp] theorem State.withOrders_driveReport (s : State) (q : Sequencer) (f : PerGroup Bool) (i : PerGroup Nat) :
    (s.withOrders q f i).alarms.driveReport = s.alarms.driveReport := rfl
@[simp] theorem State.withOrders_driveFault (s : State) (q : Sequencer) (f : PerGroup Bool) (i : PerGroup Nat) :
    (s.withOrders q f i).alarms.driveFault = f := rfl

/-- What operations of the sequencer alone can do between two states: the sequencer, the DRIVE-FAULT conditions and the
integrators aside, what reports do. -/
def OnlySequencer (s t : State) : Prop :=
  OnlyReports s (t.withOrders s.sequencer s.alarms.driveFault s.bands.integrators)

theorem OnlyReports.withOrders {s t : State} (h : OnlyReports s t) (q : Sequencer) (f : PerGroup Bool)
    (i : PerGroup Nat) : OnlyReports (s.withOrders q f i) (t.withOrders q f i) :=
  { h with
    bands := by simp [h.bands]
    sequencer := .inl rfl
    seconds := h.seconds
    driveReport := h.driveReport
    driveFault := rfl }

theorem OnlyReports.onlySequencer {s t : State} (h : OnlyReports s t) : OnlySequencer s t :=
  h.withOrders s.sequencer s.alarms.driveFault s.bands.integrators

theorem OnlySequencer.refl (s : State) : OnlySequencer s s := OnlyReports.refl s

theorem OnlySequencer.trans {s t u : State} (h : OnlySequencer s t) (k : OnlySequencer t u) : OnlySequencer s u :=
  OnlyReports.trans h (OnlyReports.withOrders k s.sequencer s.alarms.driveFault s.bands.integrators)

theorem onlySequencer_withSequencer (s : State) (q : Sequencer) : OnlySequencer s (s.withSequencer q) :=
  OnlySequencer.refl s

theorem onlySequencer_withOrders (s : State) (q : Sequencer) (f : PerGroup Bool) (i : PerGroup Nat) :
    OnlySequencer s (s.withOrders q f i) :=
  OnlySequencer.refl s

/-! ### DRIVE-FAULT -/

theorem formDriveFault_onlySequencer (g : Group) (s : State) : OnlySequencer s (formDriveFault g s) := by
  have key : ∀ (before now : Bool) (y : State), OnlySequencer s y → OnlySequencer s
      (if before = now then s
        else if now then reportRaise .driveFault (.group g) none y else reportGone .driveFault (.group g) y) := by
    intro before now y hy
    split
    · exact .refl s
    · split
      · exact hy.trans (reportRaise_reports _ _ _ _).onlySequencer
      · exact hy.trans (reportGone_reports _ _ _).onlySequencer
  exact key _ _ _ (onlySequencer_withOrders s s.sequencer _ s.bands.integrators)

/-- Forming a DRIVE-FAULT condition leaves the sequencer alone. -/
theorem formDriveFault_sequencer (g : Group) (s : State) : (formDriveFault g s).sequencer = s.sequencer := by
  unfold formDriveFault
  simp only
  split
  · rfl
  · split
    · rw [reportRaise_sequencer (c := .driveFault) (src := .group g) (fedBy_every g _)]
      rfl
    · rw [reportGone_eq]
      rfl

theorem formDriveFaults_onlySequencer (s : State) : OnlySequencer s (formDriveFaults s) :=
  ((formDriveFault_onlySequencer _ s).trans (formDriveFault_onlySequencer _ _)).trans
    (formDriveFault_onlySequencer _ _)

theorem formDriveFaults_sequencer (s : State) : (formDriveFaults s).sequencer = s.sequencer := by
  simp only [formDriveFaults, formDriveFault_sequencer]

theorem formDriveFault_driveReport (g : Group) (s : State) :
    (formDriveFault g s).alarms.driveReport = s.alarms.driveReport := by
  have h := (formDriveFault_onlySequencer g s).driveReport
  exact h

/-- One group's condition is as R159 forms it, and the others are as they were. -/
theorem formDriveFault_driveFault (g : Group) (s : State) :
    (formDriveFault g s).alarms.driveFault =
      s.alarms.driveFault.set g (driveFaultPresent (orderPending s.sequencer) s.alarms.driveReport g) := by
  unfold formDriveFault
  simp only
  split
  · next h =>
    rw [← h]
    cases g <;> rfl
  · split
    · rw [(reportRaise_reports _ _ _ _).driveFault]
      rfl
    · rw [(reportGone_reports _ _ _).driveFault]
      rfl

/-- The three conditions are as R159 forms them. -/
theorem formDriveFaults_driveFault (s : State) (g : Group) :
    (formDriveFaults s).alarms.driveFault.get g =
      driveFaultPresent (orderPending s.sequencer) s.alarms.driveReport g := by
  simp only [formDriveFaults, formDriveFault_driveFault, formDriveFault_sequencer, formDriveFault_driveReport]
  cases g <;> rfl

/-- One group's condition formed again is its new value, and its report. -/
theorem formDriveFault_told (g : Group) (s : State) :
    let now := driveFaultPresent (orderPending s.sequencer) s.alarms.driveReport g
    Told (changeReports .driveFault (.group g) (bare (s.alarms.driveFault.get g)) (bare now))
      (s.withDriveFault (s.alarms.driveFault.set g now)) (formDriveFault g s) := by
  have h := bare_told .driveFault (.group g) (s.alarms.driveFault.get g)
    (driveFaultPresent (orderPending s.sequencer) s.alarms.driveReport g)
    (s.withDriveFault (s.alarms.driveFault.set g (driveFaultPresent (orderPending s.sequencer) s.alarms.driveReport g)))
  unfold formDriveFault
  simp only
  by_cases hn : s.alarms.driveFault.get g = driveFaultPresent (orderPending s.sequencer) s.alarms.driveReport g
  · simp only [hn, if_true] at h ⊢
    rw [← hn] at h ⊢
    have : s.alarms.driveFault.set g (s.alarms.driveFault.get g) = s.alarms.driveFault := by cases g <;> rfl
    rw [this] at h ⊢
    exact h
  · simp only [hn, if_false] at h ⊢
    exact h

/-- The three conditions formed again are their new values, and the reports of those that have changed (R159, R160). -/
theorem formDriveFaults_told (s : State) :
    let now := s.alarms.driveReport.map fun g _ => driveFaultPresent (orderPending s.sequencer) s.alarms.driveReport g
    Told (driveFaultReports s.alarms.driveFault now) (s.withDriveFault now) (formDriveFaults s) := by
  have h1 := formDriveFault_told .hg s
  have h2 := formDriveFault_told .dg (formDriveFault .hg s)
  have h3 := formDriveFault_told .sg (formDriveFault .dg (formDriveFault .hg s))
  simp only [formDriveFault_sequencer, formDriveFault_driveReport, formDriveFault_driveFault] at h2 h3
  have h := (((h1.past fun r _ => r.past_driveFault _).trans h2).past fun r _ => r.past_driveFault _).trans h3
  simp only [List.append_assoc] at h
  simp only [driveFaultReports, List.flatMap_cons, List.flatMap_nil, List.append_nil]
  exact h

/-! ### Orders -/

theorem takeReport_onlyReports_withList (s : State) (l : List AlarmEntry) (changed applied : Bool) :
    OnlyReports s (takeReport ⟨s.alarms.withList l, changed, applied⟩ s) :=
  takeReport_reports ⟨rfl, rfl, rfl⟩

theorem recomputeAffected_reports (s : State) : OnlyReports s (recomputeAffected s) :=
  takeReport_onlyReports_withList s _ _ _

/-- The recomputation stops nothing and leaves the sequencer alone. -/
theorem recomputeAffected_sequencer (s : State) : (recomputeAffected s).sequencer = s.sequencer :=
  takeReport_sequencer _ _

theorem issueOrder_onlySequencer (kind : Working) (s : State) : OnlySequencer s (issueOrder kind s) :=
  (onlySequencer_withOrders s _ s.alarms.driveFault (blankIntegrators s.bands).integrators).trans
    (formDriveFaults_onlySequencer _)

/-- The sequencer after an order is issued (R125). -/
theorem issueOrder_sequencer (kind : Working) (s : State) :
    (issueOrder kind s).sequencer =
      { s.sequencer with mode := .transferring kind.settled, record := issuedRecord s kind } :=
  formDriveFaults_sequencer _

theorem orderDone_onlySequencer (s : State) : OnlySequencer s (orderDone s) := by
  unfold orderDone
  simp only
  refine OnlySequencer.trans ?_ (formDriveFaults_onlySequencer _)
  have h := fun q => (onlySequencer_withSequencer s q).trans (recomputeAffected_reports _).onlySequencer
  split
  · exact (h _).trans (reportGone_reports _ _ _).onlySequencer
  · exact h _

/-- The sequencer after an order is done (R127). -/
theorem orderDone_sequencer (s : State) :
    (orderDone s).sequencer = { s.sequencer with
      mode := (destinationOf s.sequencer.mode).mode
      record := { s.sequencer.record with
        arrangement := match s.sequencer.record.kind with
          | some k => k.arrangement
          | none => s.sequencer.record.arrangement
        order := .done, endedBy := some .report, failedMark := false, timer := none } } := by
  unfold orderDone
  simp only
  rw [formDriveFaults_sequencer]
  split
  · rw [reportGone_eq]
    exact recomputeAffected_sequencer _
  · exact recomputeAffected_sequencer _

theorem orderFailed_onlySequencer (e : EndedBy) (s : State) : OnlySequencer s (orderFailed e s) :=
  (((onlySequencer_withSequencer s _).trans (recomputeAffected_reports _).onlySequencer).trans
    (reportRaise_reports _ _ _ _).onlySequencer).trans (formDriveFaults_onlySequencer _)

/-- The sequencer after an order has failed (R128, R129). -/
theorem orderFailed_sequencer (e : EndedBy) (s : State) :
    (orderFailed e s).sequencer = { s.sequencer with
      mode := .parked
      queue := []
      record := { s.sequencer.record with
        arrangement := .uncertain, order := .failed, endedBy := some e, failedMark := true, timer := none } } := by
  unfold orderFailed
  simp only
  rw [formDriveFaults_sequencer]
  rcases (reportRaise_reports .transferFail .sequencer none (recomputeAffected (s.withSequencer
    { s.sequencer with
      mode := .parked
      queue := []
      record := { s.sequencer.record with
        arrangement := .uncertain, order := .failed, endedBy := some e, failedMark := true,
        timer := none } }))).sequencer with h | ⟨h, -⟩ <;> rw [h, recomputeAffected_sequencer] <;> rfl

/-- The Alarm Unit's recomputation at a change of the arrangement is R156's, entry by entry. -/
theorem recomputeEntry_eq (arr : Arrangement) (seconds : Nat) (e : AlarmEntry) :
    recomputeEntry arr seconds e = refed arr seconds e := by
  obtain ⟨code, source, _, _, _, state, _, _, _⟩ := e
  unfold recomputeEntry refed
  cases source with
  | analog a => cases a <;> cases code <;> cases state <;> simp [isActive, affectedMotions]
  | _ => simp

/-- An order ended is the new record and the entries formed again, and reports. -/
theorem recomputeAffected_ended (record : ArrangementRecord) (mode : Mode) (queue : List QueueEntry) (s : State) :
    (recomputeAffected (s.withSequencer { s.sequencer with record := record, mode := mode, queue := queue })).withDriveFault
        (s.alarms.driveReport.map fun g _ => driveFaultPresent false s.alarms.driveReport g) =
      orderEnded record mode queue s := by
  have hl : (s.alarms.list.map fun e => recomputeEntry record.arrangement s.alarms.seconds e) =
      s.alarms.list.map (refed record.arrangement s.alarms.seconds) := by simp only [recomputeEntry_eq]
  have hd : (s.alarms.driveReport.map fun g _ => driveFaultPresent false s.alarms.driveReport g) =
      s.alarms.driveReport.map fun _ x => decide (x = .fault) := by
    have : ∀ x : Readiness, (x == .fault) = decide (x = .fault) := by intro x; cases x <;> rfl
    simp [driveFaultPresent, PerGroup.map, PerGroup.get, this]
  have h : ∀ l : List AlarmEntry, (takeReport ⟨s.alarms.withList l, decide (l ≠ s.alarms.list), false⟩
      (s.withSequencer { s.sequencer with record := record, mode := mode, queue := queue })) =
      { s with
        sequencer := { s.sequencer with record := record, mode := mode, queue := queue }
        alarms := s.alarms.withList l
        ports := { s.ports with
          a := { s.ports.a with listChanged := s.ports.a.listChanged || decide (l ≠ s.alarms.list) }
          c := { s.ports.c with listChanged := s.ports.c.listChanged || decide (l ≠ s.alarms.list) } } } := by
    intro l
    unfold takeReport
    by_cases h : l ≠ s.alarms.list <;> simp [h, noteListChange, State.withSequencer, State.withAlarms, State.withPorts]
  rw [hd]
  unfold orderEnded
  rw [← hl]
  unfold recomputeAffected
  simp only
  exact congrArg (fun t => State.withDriveFault t _) (h _)

/-- The DRIVE-FAULT conditions formed again behind other reports, once no order is PENDING (R160). -/
theorem formDriveFaults_after {rs : List Report} {s t : State} (h : Told rs s t)
    (hp : orderPending s.sequencer = false) (hq : t.sequencer.record = s.sequencer.record) :
    Told (rs ++ driveFaultReports s.alarms.driveFault
        (s.alarms.driveReport.map fun g _ => driveFaultPresent false s.alarms.driveReport g))
      (s.withDriveFault (s.alarms.driveReport.map fun g _ => driveFaultPresent false s.alarms.driveReport g))
      (formDriveFaults t) := by
  have hr := takeReports_reports rs s
  rw [← show t = takeReports rs s from h] at hr
  have hp' : orderPending t.sequencer = false := by
    rw [← hp]
    simp [orderPending, hq]
  have k := formDriveFaults_told t
  simp only [hp', hr.driveReport, hr.driveFault] at k
  exact (h.past fun r _ => r.past_driveFault _).trans k

theorem orderEnded_driveFault (record : ArrangementRecord) (mode : Mode) (queue : List QueueEntry) (s : State) :
    (orderEnded record mode queue s).alarms.driveFault =
      s.alarms.driveReport.map fun g _ => driveFaultPresent false s.alarms.driveReport g := by
  rw [← recomputeAffected_ended]
  rfl

theorem recomputeAffected_clock (s : State) : (recomputeAffected s).alarms.driveFault = s.alarms.driveFault ∧
    (recomputeAffected s).alarms.driveReport = s.alarms.driveReport :=
  ⟨(recomputeAffected_reports s).driveFault, (recomputeAffected_reports s).driveReport⟩

/-- An order ended DONE is the new record, the entries formed again, and the reports of R127 and R160. -/
theorem orderDone_done {kind : Working} {d : Settled} {s : State} (hk : s.sequencer.record.kind = some kind)
    (hm : s.sequencer.mode = .transferring d) : OrderDone kind d s (orderDone s) := by
  unfold OrderDone
  simp only
  rw [orderEnded_driveFault, ← recomputeAffected_ended]
  generalize he : s.withSequencer { s.sequencer with
    mode := d.mode
    record := { s.sequencer.record with
      arrangement := kind.arrangement, order := .done, endedBy := some .report, failedMark := false,
      timer := none } } = e
  have hd : orderDone s = formDriveFaults (if s.sequencer.record.failedMark then
      reportGone .transferFail .sequencer (recomputeAffected e) else recomputeAffected e) := by
    rw [← he]
    unfold orderDone
    simp only [hm, destinationOf]
    rw [hk]
  obtain ⟨c1, c2⟩ := recomputeAffected_clock e
  have e1 : e.alarms = s.alarms := by rw [← he]; rfl
  have hq : orderPending (recomputeAffected e).sequencer = false := by
    rw [recomputeAffected_sequencer, ← he]
    rfl
  rw [hd]
  have h : Told (if s.sequencer.record.failedMark = true then [.gone .transferFail .sequencer] else [])
      (recomputeAffected e)
      (if s.sequencer.record.failedMark then reportGone .transferFail .sequencer (recomputeAffected e)
        else recomputeAffected e) := by
    cases s.sequencer.record.failedMark <;> rfl
  have k := formDriveFaults_after h hq (by
    split
    · rw [reportGone_eq]
    · rfl)
  rw [c1, c2, e1] at k
  exact k

/-- An order ended FAILED is the new record, the entries formed again, and the reports of R128 and R160. -/
theorem orderFailed_failed (by' : EndedBy) (s : State) : OrderFailed by' s (orderFailed by' s) := by
  unfold OrderFailed orderFailed
  simp only
  rw [orderEnded_driveFault, ← recomputeAffected_ended]
  generalize he : s.withSequencer { s.sequencer with
    mode := .parked, queue := []
    record := { s.sequencer.record with
      arrangement := .uncertain, order := .failed, endedBy := some by', failedMark := true, timer := none } } = e
  obtain ⟨c1, c2⟩ := recomputeAffected_clock e
  have e1 : e.alarms = s.alarms := by rw [← he]; rfl
  have hq : orderPending (recomputeAffected e).sequencer = false := by
    rw [recomputeAffected_sequencer, ← he]
    rfl
  have k := formDriveFaults_after (told_raise .transferFail .sequencer none (recomputeAffected e)) hq
    (reportRaise_reports _ _ _ _).record
  rw [c1, c2, e1] at k
  exact k

/-! ### The queue and the end of STOPPING -/

theorem refuseSequence_reports (d : Detail) (s : State) : OnlyReports s (refuseSequence d s) :=
  reportMomentary_reports _ _ _ _

theorem refuseSequence_sequencer (d : Detail) (s : State) : (refuseSequence d s).sequencer = s.sequencer := by
  unfold refuseSequence
  rw [reportMomentary_eq (by decide)]

theorem takeEntry_onlySequencer (request : Settled) (s : State) : OnlySequencer s (takeEntry request s) := by
  unfold takeEntry
  repeat' first
    | exact .refl s
    | exact onlySequencer_withSequencer s _
    | exact issueOrder_onlySequencer _ s
    | exact (refuseSequence_reports _ s).onlySequencer
    | split

theorem takeEntries_onlySequencer (n : Nat) (s : State) : OnlySequencer s (takeEntries n s) := by
  induction n generalizing s with
  | zero => exact .refl s
  | succ n ih =>
    unfold takeEntries
    split
    · exact .refl s
    · split
      · exact ((onlySequencer_withSequencer s _).trans (takeEntry_onlySequencer _ _)).trans (ih _)
      · exact .refl s

theorem serviceQueue_onlySequencer (s : State) : OnlySequencer s (serviceQueue s) := takeEntries_onlySequencer _ s

/-- An empty queue gives the sequencer nothing to take. -/
theorem serviceQueue_empty {s : State} (h : s.sequencer.queue = []) : serviceQueue s = s := by
  simp [serviceQueue, h, takeEntries]

/-- An order issued: the record, the mode, the integrators of HG and DG at 0, and their DRIVE-FAULT blanked and reported
gone (R31, R125, R160). -/
theorem issueOrder_issued (kind : Working) (s : State) : OrderIssued kind s (issueOrder kind s) := by
  refine ⟨issueOrder_sequencer kind s, ?_⟩
  have h := formDriveFaults_told ((s.withBands (blankIntegrators s.bands)).withSequencer
    { s.sequencer with mode := .transferring kind.settled, record := issuedRecord s kind })
  rw [issueOrder_sequencer]
  refine Eq.trans h ?_
  have hp : orderPending { s.sequencer with mode := .transferring kind.settled, record := issuedRecord s kind } = true := rfl
  have hd : (s.alarms.driveReport.map fun g _ => driveFaultPresent true s.alarms.driveReport g) =
      ⟨false, false, decide (s.alarms.driveReport.sg = .fault)⟩ := by
    have : ∀ x : Readiness, (x == .fault) = decide (x = .fault) := by intro x; cases x <;> rfl
    simp [PerGroup.map, driveFaultPresent, PerGroup.get, this]
  simp only [State.withSequencer, State.withBands, hp, hd]
  rfl

/-- What taking an entry does, by the table of R121. -/
theorem takeEntry_taken (request : Settled) (s : State) : EntryTaken request s (takeEntry request s) := by
  have hw := walkPermitOk_iff s
  cases request <;> cases hm : s.sequencer.mode <;> simp only [takeEntry, EntryTaken, hm] <;> try rfl
  case dig.parked =>
    cases ha : s.sequencer.record.arrangement <;> cases hr : s.walk.bothInRest <;>
      simp [issueOrder_issued, setMode, refuseSequence]
    all_goals rfl
  case walk.parked =>
    by_cases h : walkPermitOk s = true
    · have := (hw.1 h).2
      by_cases ha : s.sequencer.record.arrangement = .walk <;> simp [h, ha, this, issueOrder_issued, setMode]
      rfl
    · have : ¬MayWalk s := fun k => h (hw.2 ⟨.inl hm, k⟩)
      simp [h, this, refuseSequence]
  case walk.dig =>
    by_cases h : walkPermitOk s = true
    · have := (hw.1 h).2
      simp [h, this, setMode]
      rfl
    · have : ¬MayWalk s := fun k => h (hw.2 ⟨.inr hm, k⟩)
      simp [h, this, refuseSequence]

/-- Taking an entry leaves the rest of the queue. -/
theorem takeEntry_queue (request : Settled) (s : State) :
    (takeEntry request s).sequencer.queue = s.sequencer.queue := by
  unfold takeEntry
  repeat' first
    | rfl
    | simp only [issueOrder_sequencer, refuseSequence_sequencer]
    | split

/-- The waiting entries are taken one after another (R119). -/
theorem takeEntries_taken (n : Nat) (s : State) (h : s.sequencer.queue.length ≤ n) :
    QueueTaken s.sequencer.queue s (takeEntries n s) := by
  induction n generalizing s with
  | zero => rw [List.eq_nil_of_length_eq_zero (Nat.le_zero.1 h)]; rfl
  | succ n ih =>
    cases hq : s.sequencer.queue with
    | nil => simp [takeEntries, hq, QueueTaken]
    | cons e rest =>
      have hm : mayTake s = true ↔ isSettled s.sequencer.mode = true ∧ s.envelope.edit ≠ .committing := by simp [mayTake]
      simp only [takeEntries, QueueTaken, hq, ← hm]
      split
      · refine ⟨_, takeEntry_taken e.request _, ?_⟩
        have hr : (takeEntry e.request (s.withSequencer { s.sequencer with queue := rest })).sequencer.queue = rest :=
          takeEntry_queue _ _
        have := ih _ (by rw [hr]; simpa [hq] using h)
        rwa [hr] at this
      · rfl

theorem serviceQueue_taken (s : State) : QueueTaken s.sequencer.queue s (serviceQueue s) :=
  takeEntries_taken _ s (Nat.le_refl _)

/-- What a completed stop does, by the table of R124. -/
theorem completeStop_ended (destination : Settled) (s : State) : StopEnded destination s (completeStop destination s) := by
  have hw := walkPermitUnmoded_iff s
  cases destination <;> simp only [completeStop, StopEnded]
  · rfl
  · cases s.walk.bothInRest <;> simp [issueOrder_issued, refuseSequence, setMode]
    rfl
  · by_cases h : walkPermitUnmoded s = true
    · simp [h, hw.1 h, issueOrder_issued]
    · simp [h, mt hw.2 h, refuseSequence, setMode]
      rfl

theorem completeStop_onlySequencer (destination : Settled) (s : State) :
    OnlySequencer s (completeStop destination s) := by
  unfold completeStop
  repeat' first
    | exact onlySequencer_withSequencer s _
    | exact issueOrder_onlySequencer _ s
    | exact (onlySequencer_withSequencer s _).trans (refuseSequence_reports _ _).onlySequencer
    | split

theorem periodEndAtSequencer_onlySequencer (notices : PerMotion Notice) (s : State) :
    OnlySequencer s (periodEndAtSequencer notices s) := by
  unfold periodEndAtSequencer
  split
  · split
    · exact (completeStop_onlySequencer _ s).trans (serviceQueue_onlySequencer _)
    · exact .refl s
  · exact .refl s

/-! ### The Band Monitor at an order's issue (R31, R125) -/

theorem formDriveFaults_bands (s : State) : (formDriveFaults s).bands = s.bands := by
  rw [show formDriveFaults s = _ from formDriveFaults_told s]
  exact (takeReports_reports _ _).bands

theorem OrderBlanks.refl (s : State) : OrderBlanks s s := .inl ⟨rfl, rfl⟩

theorem OrderBlanks.trans {s t u : State} (h : OrderBlanks s t) (k : OrderBlanks t u) : OrderBlanks s u := by
  rcases h with ⟨h1, h2⟩ | ⟨h1, h2⟩ <;> rcases k with ⟨k1, k2⟩ | ⟨k1, k2⟩
  · exact .inl ⟨k1.trans h1, k2.trans h2⟩
  · exact .inr ⟨k1, by rw [k2, h2]⟩
  · exact .inr ⟨by rw [k1, h1], by rw [k2, h2]⟩
  · exact .inr ⟨k1, by rw [k2, h2]⟩

theorem OnlyReports.orderBlanks {s t : State} (h : OnlyReports s t) : OrderBlanks s t := .inl ⟨h.record, h.bands⟩

theorem issueOrder_blanks (kind : Working) (s : State) : OrderBlanks s (issueOrder kind s) :=
  .inr ⟨by rw [issueOrder_sequencer]; rfl, formDriveFaults_bands _⟩

theorem takeEntry_blanks (request : Settled) (s : State) : OrderBlanks s (takeEntry request s) := by
  unfold takeEntry
  repeat' first
    | exact .refl s
    | exact .inl ⟨rfl, rfl⟩
    | exact issueOrder_blanks _ s
    | exact (refuseSequence_reports _ s).orderBlanks
    | split

theorem takeEntries_blanks (n : Nat) (s : State) : OrderBlanks s (takeEntries n s) := by
  induction n generalizing s with
  | zero => exact .refl s
  | succ n ih =>
    unfold takeEntries
    split
    · exact .refl s
    · next e rest _ =>
      split
      · exact (show OrderBlanks s _ from
          takeEntry_blanks e.request (s.withSequencer { s.sequencer with queue := rest })).trans (ih _)
      · exact .refl s

theorem serviceQueue_blanks (s : State) : OrderBlanks s (serviceQueue s) := takeEntries_blanks _ s

theorem completeStop_blanks (destination : Settled) (s : State) : OrderBlanks s (completeStop destination s) := by
  unfold completeStop
  repeat' first
    | exact .inl ⟨rfl, rfl⟩
    | exact issueOrder_blanks _ s
    | exact (show OrderBlanks s _ from (refuseSequence_reports _ (setMode _ s)).orderBlanks)
    | split

/-- The sequencer's part of a period leaves the Band Monitor to the issue of an order. -/
theorem periodEndAtSequencer_blanks (notices : PerMotion Notice) (s : State) :
    OrderBlanks s (periodEndAtSequencer notices s) := by
  unfold periodEndAtSequencer
  split
  · split
    · exact (completeStop_blanks _ s).trans (serviceQueue_blanks _)
    · exact .refl s
  · exact .refl s

end Sys2Proof.Machine
end

