-- ==== Sys2Proof/Laws/Period.lean ====
section
/-! SUPPORT. What a period expiry does, said once: the shaper's eight stages change the shaper, the side references and
the Alarm Unit (`shapePeriod_eq`), the gate takes its notification brake by brake and reports (`notifyGate_reports`), and
the sequencer comes last (`periodAll_onlySequencer`). -/

namespace Sys2Proof.Machine

/-! ### The shaper -/

/-- The shaper after the eight stages of a period, the association check done (R80, R94, R95, R65). -/
def shapedPeriod (s : State) : Shaper :=
  let formed := PerMotion.of (formMotion s)
  let shared := sharePeriod s formed
  let counted := overdrawStep s.shaper.overdraw (decide (budget s.bands < demand s.shaper.weights shared.outputs))
    s.shaper.overdrawCount
  { s.shaper with
    motions := s.shaper.motions.map fun m r =>
      checkAssociation (settleMotion r (formed.get m) (shared.outputs.get m) (shared.marks.get m))
    period := s.shaper.period + 1
    overdrawCount := counted.2
    overdraw := counted.1
    references := { period := s.shaper.period + 1, outputs := shared.outputs, shed := shared.marks } }

/-- Stage 7 changes the overdraw count and condition, the Alarm Unit and the list-changed marks. -/
theorem overdrawStage_eq (exceeds : Bool) (s : State) :
    overdrawStage exceeds s = { s with
      shaper := { s.shaper with
        overdraw := (overdrawStep s.shaper.overdraw exceeds s.shaper.overdrawCount).1
        overdrawCount := (overdrawStep s.shaper.overdraw exceeds s.shaper.overdrawCount).2 }
      alarms := (overdrawStage exceeds s).alarms
      ports := (overdrawStage exceeds s).ports } := by
  have hr := reportRaise_eq (c := .overdraw) (src := .supply) (by decide) none
  unfold overdrawStage
  simp only
  split
  · rfl
  · split
    · rw [hr]
      rfl
    · rw [reportGone_eq]
      rfl

theorem overdrawStage_reports (exceeds : Bool) (s : State) :
    OnlyReports (s.withShaper { s.shaper with
      overdraw := (overdrawStep s.shaper.overdraw exceeds s.shaper.overdrawCount).1
      overdrawCount := (overdrawStep s.shaper.overdraw exceeds s.shaper.overdrawCount).2 })
      (overdrawStage exceeds s) := by
  unfold overdrawStage
  simp only
  split
  · exact .refl _
  · split
    · exact reportRaise_reports _ _ _ _
    · exact reportGone_reports _ _ _

/-- The side references of a WALK output at a tracker (R140). -/
def WalkTracker.handed (w : WalkTracker) (ow : Int) : WalkTracker :=
  { w with
    walkLeft := walkLeftOf w.skew ow w.settings.gain
    walkRight := walkRightOf w.skew ow w.settings.gain }

/-- The stages change the shaper, the side references, the Alarm Unit and the list-changed marks. -/
theorem shapePeriod_eq (s : State) :
    shapePeriod s = { s with
      shaper := shapedPeriod s
      walk := s.walk.handed (sharePeriod s (PerMotion.of (formMotion s))).outputs.walk
      alarms := (shapePeriod s).alarms
      ports := (shapePeriod s).ports } := by
  have h := overdrawStage_eq (decide (budget s.bands <
    demand s.shaper.weights (sharePeriod s (PerMotion.of (formMotion s))).outputs)) s
  unfold shapePeriod
  simp only
  generalize overdrawStage _ s = t at *
  rw [h]
  rfl

/-- What the stages do to the Alarm Unit and the ports is what reports do. -/
theorem shapePeriod_reports (s : State) :
    OnlyReports { s with
      shaper := shapedPeriod s
      walk := s.walk.handed (sharePeriod s (PerMotion.of (formMotion s))).outputs.walk } (shapePeriod s) := by
  have h := overdrawStage_reports (decide (budget s.bands <
    demand s.shaper.weights (sharePeriod s (PerMotion.of (formMotion s))).outputs)) s
  have hp : (shapePeriod s).ports = (overdrawStage (decide (budget s.bands <
    demand s.shaper.weights (sharePeriod s (PerMotion.of (formMotion s))).outputs)) s).ports := rfl
  have ha : (shapePeriod s).alarms = (overdrawStage (decide (budget s.bands <
    demand s.shaper.weights (sharePeriod s (PerMotion.of (formMotion s))).outputs)) s).alarms := rfl
  have e := shapePeriod_eq s
  have e' := congrArg State.ports e
  rw [e]
  constructor <;> try rfl
  · rw [hp]
    exact h.links
  · rw [hp]
    exact h.portA
  · rw [hp]
    exact h.portC
  · exact fun m => .inl ⟨rfl, rfl⟩
  · exact .inl ⟨rfl, rfl⟩
  · exact .inl ⟨rfl, rfl⟩
  · exact .inl rfl
  · rw [ha]
    exact h.seconds
  · rw [ha]
    exact h.driveReport
  · rw [ha]
    exact h.driveFault

/-! ### The gate -/

/-- Reports at one motion: the others' records and brakes, and the sequencer, are as they were. -/
structure SparesOthers (m : Motion) (s t : State) : Prop where
  motion : ∀ n, n ≠ m → t.shaper.motions.get n = s.shaper.motions.get n
  brake : ∀ n, n ≠ m → t.gate.brakes.get n = s.gate.brakes.get n
  sequencer : t.sequencer = s.sequencer

theorem takeReport_shaper (r : Reported) (s : State) : (takeReport r s).shaper = s.shaper := by
  unfold takeReport
  split <;> rfl

theorem takeReport_gate (r : Reported) (s : State) : (takeReport r s).gate = s.gate := by
  unfold takeReport
  split <;> rfl

theorem raiseBrakeFail_spares (m : Motion) (s : State) : SparesOthers m s (raiseBrakeFail m s) := by
  have hf : ∀ n, n ≠ m → (onlyMotion m).get n = false := by
    intro n h
    simp [onlyMotion, h]
  have ht : ∀ x : State, (tripEffects (onlyMotion m) x).sequencer = x.sequencer := tripEffects_sequencer (onlyMotion_every m)
  have ha : (onlyMotion m).any = true := (PerMotion.any_iff _).2 ⟨m, by simp [onlyMotion]⟩
  constructor
  · intro n h
    unfold raiseBrakeFail reportRaise applyClass
    simp only
    split
    · simp only [affectedMotions, tripEffects_eq ha, PerMotion.get_map, hf n h, takeReport_shaper]
      simp
    · rw [takeReport_shaper]
  · intro n h
    unfold raiseBrakeFail reportRaise applyClass
    simp only
    split
    · simp only [affectedMotions, tripEffects_eq ha, PerMotion.get_map, hf n h, takeReport_gate]
      simp
    · rw [takeReport_gate]
  · unfold raiseBrakeFail
    rw [reportRaise_sequencer (c := .brakeFail) (src := .motion m) (onlyMotion_every m)]

theorem SparesOthers.refl (m : Motion) (s : State) : SparesOthers m s s := ⟨fun _ _ => rfl, fun _ _ => rfl, rfl⟩

theorem SparesOthers.trans {m : Motion} {s t u : State} (h : SparesOthers m s t) (k : SparesOthers m t u) :
    SparesOthers m s u :=
  ⟨fun n hn => (k.motion n hn).trans (h.motion n hn), fun n hn => (k.brake n hn).trans (h.brake n hn),
    k.sequencer.trans h.sequencer⟩

theorem reportGone_spares (c : AlarmCode) (src : Source) (m : Motion) (s : State) :
    SparesOthers m s (reportGone c src s) := by
  rw [reportGone_eq]
  exact ⟨fun _ _ => rfl, fun _ _ => rfl, rfl⟩

/-- A notification at one brake: the brake as the four steps leave it, and reports that spare the other motions. -/
theorem notifyMotion_reports (n : Notice) (due : Bool) (m : Motion) (s : State) :
    OnlyReports (s.withBrake m (notifyBrake (brakeInput s n m) (s.gate.brakes.get m)).brake) (notifyMotion n due m s) ∧
    SparesOthers m (s.withBrake m (notifyBrake (brakeInput s n m) (s.gate.brakes.get m)).brake)
      (notifyMotion n due m s) := by
  unfold notifyMotion
  simp only
  have h := reportRaise_reports .brakeFail (.motion m) none
    (s.withBrake m (notifyBrake (brakeInput s n m) (s.gate.brakes.get m)).brake)
  have k := raiseBrakeFail_spares m (s.withBrake m (notifyBrake (brakeInput s n m) (s.gate.brakes.get m)).brake)
  constructor
  · split <;> split
    · exact h.trans (reportGone_reports _ _ _)
    · exact reportGone_reports _ _ _
    · exact h
    · exact .refl _
  · split <;> split
    · exact k.trans (reportGone_spares _ _ _ _)
    · exact reportGone_spares _ _ _ _
    · exact k
    · exact .refl _ _

/-- The brakes as the four steps of a period end notification leave them (R102). -/
def notifiedBrakes (notices : PerMotion Notice) (s : State) : PerMotion BrakeRecord :=
  s.gate.brakes.map fun m b => (notifyBrake (brakeInput s (notices.get m) m) b).brake

/-- Brakes replaced around reports, where a brake whose motion was stopped is replaced by nothing. -/
theorem OnlyReports.withBrake {s t : State} (h : OnlyReports s t) (m : Motion) (b : BrakeRecord)
    (hm : t.shaper.motions.get m = s.shaper.motions.get m) : OnlyReports (s.withBrake m b) (t.withBrake m b) :=
  { h with
    motion := by
      intro n
      by_cases hn : n = m
      · subst hn
        exact .inl ⟨hm, by simp [State.withBrake]⟩
      · have := h.motion n
        simpa [State.withBrake, PerMotion.get_set, hn] using this
    gate := by
      have hg : t.gate.confirm = s.gate.confirm ∧ t.gate.reportDue = s.gate.reportDue := by
        rw [h.gate]
        exact ⟨rfl, rfl⟩
      simp [State.withBrake, hg.1, hg.2] }

/-- A period end notification at the gate is each brake's four steps, and reports (R102). -/
theorem notifyGate_reports (notices : PerMotion Notice) (s : State) :
    OnlyReports (s.withGate { s.gate with brakes := notifiedBrakes notices s, reportDue := .none })
        (notifyGate notices s) ∧
      (notifyGate notices s).sequencer = s.sequencer := by
  have hin : ∀ (t : State) (n : Notice) (m : Motion), t.shaper.profiles = s.shaper.profiles →
      t.gate.confirm = s.gate.confirm → t.sequencer = s.sequencer → brakeInput t n m = brakeInput s n m := by
    intro t n m h1 h2 h3
    simp [brakeInput, h1, h2, h3]
  unfold notifyGate
  simp only [Motion.all, List.foldl]
  generalize hd : (s.gate.reportDue != .none) = due
  generalize hs0 : s.withGate { s.gate with reportDue := .none } = s0
  obtain ⟨h1, k1⟩ := notifyMotion_reports (notices.get .hoist) due .hoist s0
  generalize hs1 : notifyMotion (notices.get .hoist) due .hoist s0 = s1 at *
  obtain ⟨h2, k2⟩ := notifyMotion_reports (notices.get .drag) due .drag s1
  generalize hs2 : notifyMotion (notices.get .drag) due .drag s1 = s2 at *
  obtain ⟨h3, k3⟩ := notifyMotion_reports (notices.get .swing) due .swing s2
  generalize hs3 : notifyMotion (notices.get .swing) due .swing s2 = s3 at *
  obtain ⟨h4, k4⟩ := notifyMotion_reports (notices.get .walk) due .walk s3
  generalize hs4 : notifyMotion (notices.get .walk) due .walk s3 = s4 at *
  have q0 : s0.sequencer = s.sequencer := by rw [← hs0]; rfl
  have q1 : s1.sequencer = s.sequencer := k1.sequencer.trans q0
  have q2 : s2.sequencer = s.sequencer := k2.sequencer.trans q1
  have q3 : s3.sequencer = s.sequencer := k3.sequencer.trans q2
  have q4 : s4.sequencer = s.sequencer := k4.sequencer.trans q3
  refine ⟨?_, q4⟩
  have p0 : s0.shaper.profiles = s.shaper.profiles := by rw [← hs0]; rfl
  have p1 : s1.shaper.profiles = s.shaper.profiles := h1.profiles.trans p0
  have p2 : s2.shaper.profiles = s.shaper.profiles := h2.profiles.trans p1
  have p3 : s3.shaper.profiles = s.shaper.profiles := h3.profiles.trans p2
  have c0 : s0.gate.confirm = s.gate.confirm := by rw [← hs0]; rfl
  have c1 : s1.gate.confirm = s.gate.confirm := by rw [h1.gate]; exact c0
  have c2 : s2.gate.confirm = s.gate.confirm := by rw [h2.gate]; exact c1
  have c3 : s3.gate.confirm = s.gate.confirm := by rw [h3.gate]; exact c2
  have b0 : ∀ n, s0.gate.brakes.get n = s.gate.brakes.get n := by intro n; rw [← hs0]; rfl
  have b1 : ∀ n, n ≠ .hoist → s1.gate.brakes.get n = s.gate.brakes.get n := by
    intro n hn
    rw [k1.brake n hn]
    simp [State.withBrake, PerMotion.get_set, hn, b0]
  have b2 : ∀ n, n ≠ .hoist → n ≠ .drag → s2.gate.brakes.get n = s.gate.brakes.get n := by
    intro n hn hn'
    rw [k2.brake n hn']
    simp [State.withBrake, PerMotion.get_set, hn', b1 n hn]
  have b3 : s3.gate.brakes.get .walk = s.gate.brakes.get .walk := by
    rw [k3.brake .walk (by decide)]
    simp [State.withBrake, PerMotion.get_set, b2 .walk (by decide) (by decide)]
  rw [hin s0 _ _ p0 c0 q0, b0] at h1 k1
  rw [hin s1 _ _ p1 c1 q1, b1 .drag (by decide)] at h2 k2
  rw [hin s2 _ _ p2 c2 q2, b2 .swing (by decide) (by decide)] at h3 k3
  rw [hin s3 _ _ p3 c3 q3, b3] at h4 k4
  have m1 : ∀ n, n ≠ .hoist → s1.shaper.motions.get n = s0.shaper.motions.get n := fun n hn => k1.motion n hn
  have m2 : ∀ n, n ≠ .hoist → n ≠ .drag → s2.shaper.motions.get n = s0.shaper.motions.get n :=
    fun n hn hn' => (k2.motion n hn').trans (m1 n hn)
  have m3 : s3.shaper.motions.get .walk = s0.shaper.motions.get .walk :=
    (k3.motion .walk (by decide)).trans (m2 .walk (by decide) (by decide))
  have r2 := (h1.withBrake .drag _ (m1 .drag (by decide))).trans h2
  have r3 := (r2.withBrake .swing _ (m2 .swing (by decide) (by decide))).trans h3
  have r4 := (r3.withBrake .walk _ m3).trans h4
  rw [← hs0] at r4
  exact r4

/-! ### The whole period -/

/-- The blocks as a period expiry leaves them, but for what its reports and the sequencer then do. -/
def periodBlocks (s : State) : State :=
  { s with
    shaper := shapedPeriod s
    walk := s.walk.handed (sharePeriod s (PerMotion.of (formMotion s))).outputs.walk
    gate := { s.gate with brakes := notifiedBrakes (periodNotices s) s, reportDue := .none } }

theorem notifiedBrakes_shaped (notices : PerMotion Notice) (s : State) :
    notifiedBrakes notices (shapePeriod s) = notifiedBrakes notices s := by
  rw [shapePeriod_eq]
  rfl

/-- The state after the gate has taken its notification, and before the sequencer. -/
theorem notifiedPeriod_reports (s : State) :
    OnlyReports (periodBlocks s) (notifyGate (periodNotices s) (shapePeriod s)) ∧
      (notifyGate (periodNotices s) (shapePeriod s)).sequencer = s.sequencer := by
  obtain ⟨h, k⟩ := notifyGate_reports (periodNotices s) (shapePeriod s)
  refine ⟨?_, ?_⟩
  · refine OnlyReports.trans ?_ h
    have hg : (shapePeriod s).gate = s.gate := by rw [shapePeriod_eq]
    rw [notifiedBrakes_shaped, hg]
    have r := shapePeriod_reports s
    have hm : (shapePeriod s).shaper = shapedPeriod s := by rw [shapePeriod_eq]
    exact { r with
      motion := fun m => .inl ⟨by simp [periodBlocks, hm], rfl⟩
      gate := rfl }
  · rw [k, shapePeriod_eq]

/-- A period expiry is the shaper's stages, the gate's four steps, and what reports and the sequencer do. -/
theorem periodAll_onlySequencer (s : State) : OnlySequencer (periodBlocks s) (periodAll s) :=
  (notifiedPeriod_reports s).1.onlySequencer.trans (periodEndAtSequencer_onlySequencer _ _)

/-- A period expiry leaves the Band Monitor but for an order that it issues (R31, R125). -/
theorem periodAll_blanks (s : State) : OrderBlanks s (periodAll s) :=
  (show OrderBlanks s _ from (notifiedPeriod_reports s).1.orderBlanks).trans (periodEndAtSequencer_blanks _ _)

/-! ### The reports of a period, as a list -/

theorem overdrawStage_told (exceeds : Bool) (s : State) :
    let after := overdrawStep s.shaper.overdraw exceeds s.shaper.overdrawCount
    Told (changeReports .overdraw .supply (bare s.shaper.overdraw) (bare after.1))
      (s.withShaper { s.shaper with overdraw := after.1, overdrawCount := after.2 }) (overdrawStage exceeds s) := by
  have h := bare_told .overdraw .supply s.shaper.overdraw (overdrawStep s.shaper.overdraw exceeds s.shaper.overdrawCount).1
    (s.withShaper { s.shaper with
      overdraw := (overdrawStep s.shaper.overdraw exceeds s.shaper.overdrawCount).1
      overdrawCount := (overdrawStep s.shaper.overdraw exceeds s.shaper.overdrawCount).2 })
  unfold overdrawStage
  simp only [eq_comm (b := s.shaper.overdraw)] at h ⊢
  exact h

/-- The reports of OVERDRAW trip nothing. -/
theorem overdraw_mayTrip {before now : Option (Option Detail)} {r : Report}
    (h : r ∈ changeReports .overdraw .supply before now) (arr : Arrangement) (m : Motion) : ¬r.MayTrip arr m := by
  have hr : r = .gone .overdraw .supply ∨ ∃ d, r = .raise .overdraw .supply d := by
    unfold changeReports at h
    split at h <;> split at h <;> simp at h <;> subst h <;> simp
  rcases hr with rfl | ⟨d, rfl⟩
  · exact id
  · exact fun h => absurd h.1 (by decide)

/-- The stages are the shaper and the side references they form, and the report of OVERDRAW. -/
theorem shapePeriod_told (s : State) :
    Told (changeReports .overdraw .supply (bare s.shaper.overdraw) (bare (shapedPeriod s).overdraw))
      { s with
        shaper := shapedPeriod s
        walk := s.walk.handed (sharePeriod s (PerMotion.of (formMotion s))).outputs.walk } (shapePeriod s) := by
  have h := overdrawStage_told (decide (budget s.bands <
    demand s.shaper.weights (sharePeriod s (PerMotion.of (formMotion s))).outputs)) s
  refine h.past (f := fun t => checkAssociations (handWalkOutput (sharePeriod s (PerMotion.of (formMotion s))).outputs.walk
    (t.withShaper (publishPeriod (PerMotion.of (formMotion s)) (sharePeriod s (PerMotion.of (formMotion s))) t.shaper))))
    fun r hr => Report.past_motions (overdraw_mayTrip hr) (fun _ => rfl) (fun _ => rfl) fun x t => ?_
  unfold takeReport
  split <;> rfl

/-- The reports of one brake's notification. -/
def noticeReports (due : Bool) (m : Motion) (after : Notified) : List Report :=
  (if after.raised || (due && after.brake.fail) then [.raise .brakeFail (.motion m) none] else []) ++
    (if after.gone then [.gone .brakeFail (.motion m)] else [])

theorem noticeReports_mayTrip {due : Bool} {m : Motion} {after : Notified} {r : Report}
    (h : r ∈ noticeReports due m after) (arr : Arrangement) (k : Motion) (hk : r.MayTrip arr k) : k = m := by
  have hr : r = .gone .brakeFail (.motion m) ∨ r = .raise .brakeFail (.motion m) none := by
    unfold noticeReports at h
    rcases List.mem_append.1 h with h | h <;> split at h <;> simp at h <;> simp [h]
  rcases hr with rfl | rfl
  · exact hk.elim
  · have : (onlyMotion m).get k = true := hk.2
    simpa [onlyMotion] using this

theorem notifyMotion_told (n : Notice) (due : Bool) (m : Motion) (s : State) :
    let after := notifyBrake (brakeInput s n m) (s.gate.brakes.get m)
    Told (noticeReports due m after) (s.withBrake m after.brake) (notifyMotion n due m s) := by
  simp only
  unfold noticeReports notifyMotion raiseBrakeFail
  simp only
  cases (notifyBrake (brakeInput s n m) (s.gate.brakes.get m)).gone <;>
    cases ((notifyBrake (brakeInput s n m) (s.gate.brakes.get m)).raised ||
      (due && (notifyBrake (brakeInput s n m) (s.gate.brakes.get m)).brake.fail)) <;> rfl

/-- A period end notification at the gate is each brake's four steps, and exactly their reports (R102). -/
theorem notifyGate_told (notices : PerMotion Notice) (s : State) :
    Told (Motion.all.flatMap fun m => noticeReports (s.gate.reportDue != .none) m
        (notifyBrake (brakeInput s (notices.get m) m) (s.gate.brakes.get m)))
      (s.withGate { s.gate with brakes := notifiedBrakes notices s, reportDue := .none }) (notifyGate notices s) := by
  have hin : ∀ (t : State) (n : Notice) (m : Motion), t.shaper.profiles = s.shaper.profiles →
      t.gate.confirm = s.gate.confirm → t.sequencer = s.sequencer → brakeInput t n m = brakeInput s n m := by
    intro t n m h1 h2 h3
    simp [brakeInput, h1, h2, h3]
  have step : ∀ {rs : List Report} {b t : State} (m : Motion), Told rs b t →
      t.shaper.profiles = s.shaper.profiles → t.gate.confirm = s.gate.confirm → t.sequencer = s.sequencer →
      t.gate.brakes.get m = s.gate.brakes.get m →
      (∀ r ∈ rs, ∀ arr k, r.MayTrip arr k → k ≠ m) →
      let after := notifyBrake (brakeInput s (notices.get m) m) (s.gate.brakes.get m)
      let u := notifyMotion (notices.get m) (s.gate.reportDue != .none) m t
      Told (rs ++ noticeReports (s.gate.reportDue != .none) m after) (b.withBrake m after.brake) u ∧
      u.shaper.profiles = s.shaper.profiles ∧ u.gate.confirm = s.gate.confirm ∧ u.sequencer = s.sequencer ∧
      ∀ k, k ≠ m → u.gate.brakes.get k = t.gate.brakes.get k := by
    intro rs b t m h hp hc hq hb hr
    have k := notifyMotion_told (notices.get m) (s.gate.reportDue != .none) m t
    obtain ⟨r1, r2⟩ := notifyMotion_reports (notices.get m) (s.gate.reportDue != .none) m t
    rw [hin t _ _ hp hc hq, hb] at k r1 r2
    refine ⟨(h.past (f := (·.withBrake m (notifyBrake (brakeInput s (notices.get m) m) (s.gate.brakes.get m)).brake))
        fun r hm => ?_).trans k, ?_, ?_, r2.sequencer.trans hq, fun n hn => ?_⟩
    · refine Report.past (fun _ => rfl) (fun _ => rfl) (fun x u => ?_) fun ms u hms => ?_
      · unfold takeReport
        split <;> rfl
      · exact tripEffects_withBrake (fun hk => absurd rfl (hr r hm _ m (hms m hk))) _ u
    · exact r1.profiles.trans hp
    · rw [r1.gate]
      exact hc
    · rw [r2.brake n hn]
      simp [State.withBrake, PerMotion.get_set, hn]
  have hm : ∀ (rs : List Report) (m k : Motion) (after : Notified), m ≠ k → (∀ r ∈ rs, ∀ arr n, r.MayTrip arr n → n ≠ k) →
      ∀ r ∈ rs ++ noticeReports (s.gate.reportDue != .none) m after, ∀ arr n, r.MayTrip arr n → n ≠ k := by
    intro rs m k after hmk h r hr arr n hn
    rcases List.mem_append.1 hr with hr | hr
    · exact h r hr arr n hn
    · rw [noticeReports_mayTrip hr arr n hn]
      exact hmk
  have hnil : ∀ k : Motion, ∀ r ∈ ([] : List Report), ∀ arr n, r.MayTrip arr n → n ≠ k := by simp
  obtain ⟨t1, p1, c1, q1, b1⟩ := step .hoist (Told.nil (s.withGate { s.gate with reportDue := .none })) rfl rfl rfl rfl
    (hnil _)
  obtain ⟨t2, p2, c2, q2, b2⟩ := step .drag t1 p1 c1 q1 (b1 _ (by decide)) (hm _ _ _ _ (by decide) (hnil _))
  obtain ⟨t3, p3, c3, q3, b3⟩ := step .swing t2 p2 c2 q2 ((b2 _ (by decide)).trans (b1 _ (by decide)))
    (hm _ _ _ _ (by decide) (hm _ _ _ _ (by decide) (hnil _)))
  obtain ⟨t4, -⟩ := step .walk t3 p3 c3 q3 ((b3 _ (by decide)).trans ((b2 _ (by decide)).trans (b1 _ (by decide))))
    (hm _ _ _ _ (by decide) (hm _ _ _ _ (by decide) (hm _ _ _ _ (by decide) (hnil _))))
  simp only [List.nil_append, List.append_assoc] at t4
  simp only [Motion.all, List.flatMap_cons, List.flatMap_nil, List.append_nil]
  exact t4

/-- A period expiry before the sequencer is the blocks it forms, and exactly their reports. -/
theorem notifiedPeriod_told (s : State) :
    Told (changeReports .overdraw .supply (bare s.shaper.overdraw) (bare (periodBlocks s).shaper.overdraw) ++
        Motion.all.flatMap fun m => noticeReports (s.gate.reportDue != .none) m
          (notifyBrake (brakeInput s ((periodNotices s).get m) m) (s.gate.brakes.get m)))
      (periodBlocks s) (notifyGate (periodNotices s) (shapePeriod s)) := by
  have h := notifyGate_told (periodNotices s) (shapePeriod s)
  have hin : ∀ n m, brakeInput (shapePeriod s) n m = brakeInput s n m := by
    intro n m
    rw [shapePeriod_eq]
    rfl
  have hg : (shapePeriod s).gate = s.gate := by rw [shapePeriod_eq]
  simp only [hin, hg, notifiedBrakes_shaped] at h
  refine Told.trans ((shapePeriod_told s).past (f := fun t => t.withGate _) fun r hr =>
    Report.past_motions (overdraw_mayTrip hr) (fun _ => rfl) (fun _ => rfl) fun x t => ?_) h
  unfold takeReport
  split <;> rfl

end Sys2Proof.Machine
end

