-- ==== Sys2Proof/Laws/BrakeFail.lean ====
section
/-! SUPPORT. BRAKE-FAIL at a period end: the reports as a list (`noticeReports_period`), and that a motion is stopped
exactly where its entry is appended or re-raised (`notifiedPeriod_trips`), which nothing the sequencer then does
changes (`periodEndAtSequencer_spares`). -/

namespace Sys2Proof.Machine

/-! ### The entry of BRAKE-FAIL of a motion in a list -/

/-- Whether a raise of BRAKE-FAIL of a motion would append or re-raise its entry (R149). -/
def CanEnter (l : List AlarmEntry) (m : Motion) : Prop :=
  ∀ e, findEntry l .brakeFail (.motion m) = some e → e.state = .clearedUnack

theorem canEnter_congr {l l' : List AlarmEntry} {m : Motion}
    (h : findEntry l .brakeFail (.motion m) = findEntry l' .brakeFail (.motion m)) : CanEnter l m ↔ CanEnter l' m := by
  unfold CanEnter
  rw [h]

/-- The entries of BRAKE-FAIL are of class TRIP, so that no eviction removes one. -/
def BrakeFailsTrip (l : List AlarmEntry) : Prop := ∀ e ∈ l, e.code = .brakeFail → e.cls = .trip

/-- Whether a report is of BRAKE-FAIL of a motion. -/
def Report.OfBrake (m : Motion) : Report → Prop
  | .raise c src _ => c = .brakeFail ∧ src = .motion m
  | .momentary c src _ => c = .brakeFail ∧ src = .motion m
  | .gone c src => c = .brakeFail ∧ src = .motion m

theorem isFor_eq_false {e : AlarmEntry} {c : AlarmCode} {src : Source} (h : ¬(e.code = c ∧ e.source = src)) :
    e.isFor c src = false := by
  cases k : e.isFor c src
  · rfl
  · exact absurd ((AlarmEntry.isFor_iff _ _ _).1 k) h

/-- A change of another entry does not touch the entry found. -/
theorem findEntry_changeEntry {l : List AlarmEntry} {c c' : AlarmCode} {src src' : Source} {f : AlarmEntry → AlarmEntry}
    (hf : ∀ e, (f e).code = e.code ∧ (f e).source = e.source) (h : ¬(c = c' ∧ src = src')) :
    findEntry (changeEntry l c src f) c' src' = findEntry l c' src' := by
  induction l with
  | nil => rfl
  | cons e l ih =>
    unfold findEntry changeEntry at *
    simp only [List.map_cons, List.find?_cons]
    by_cases k : e.isFor c src = true
    · obtain ⟨k1, k2⟩ := (AlarmEntry.isFor_iff _ _ _).1 k
      have n : ¬(e.code = c' ∧ e.source = src') := by rw [k1, k2]; exact h
      have n' : ¬((f e).code = c' ∧ (f e).source = src') := by rw [(hf e).1, (hf e).2]; exact n
      simp only [k, if_true, isFor_eq_false n, isFor_eq_false n']
      exact ih
    · rw [if_neg k]
      cases e.isFor c' src'
      · exact ih
      · rfl

theorem findEntry_append {l : List AlarmEntry} {e : AlarmEntry} {c : AlarmCode} {src : Source}
    (h : e.isFor c src = false) : findEntry (l ++ [e]) c src = findEntry l c src := by
  simp [findEntry, List.find?_append, h]

/-- A removal of another entry does not touch the entry found. -/
theorem findEntry_removeEntry {l : List AlarmEntry} {c c' : AlarmCode} {src src' : Source} (h : ¬(c = c' ∧ src = src')) :
    findEntry (removeEntry l c src) c' src' = findEntry l c' src' := by
  unfold findEntry removeEntry
  induction l with
  | nil => rfl
  | cons e l ih =>
    simp only [List.filter_cons, List.find?_cons]
    cases k : e.isFor c src
    · simp [List.find?_cons, ih]
    · obtain ⟨k1, k2⟩ := (AlarmEntry.isFor_iff _ _ _).1 k
      have n : ¬(e.code = c' ∧ e.source = src') := by rw [k1, k2]; exact h
      simpa [isFor_eq_false n] using ih

theorem findEntry_evictWarn {l : List AlarmEntry} (h : BrakeFailsTrip l) (m : Motion) :
    findEntry (evictWarn l) .brakeFail (.motion m) = findEntry l .brakeFail (.motion m) := by
  induction l with
  | nil => rfl
  | cons e l ih =>
    have h' : BrakeFailsTrip l := fun x hx => h x (.tail _ hx)
    unfold findEntry evictWarn at *
    rw [List.eraseP_cons]
    cases hw : (e.cls == .warn)
    · simp only [cond_false, List.find?_cons]
      split
      · rfl
      · exact ih h'
    · have n : ¬(e.code = .brakeFail ∧ e.source = .motion m) := fun k => by
        rw [h e (.head _) k.1] at hw
        cases hw
      simp only [cond_true, List.find?_cons, isFor_eq_false n]

/-! ### What other reports leave of it -/

theorem changeEntry_brake {l : List AlarmEntry} (h : BrakeFailsTrip l) {c : AlarmCode} {src : Source}
    {f : AlarmEntry → AlarmEntry} (hf : ∀ e, (f e).code = e.code ∧ (f e).source = e.source ∧ (f e).cls = e.cls) :
    BrakeFailsTrip (changeEntry l c src f) ∧
      ∀ m, ¬(c = .brakeFail ∧ src = .motion m) → (CanEnter (changeEntry l c src f) m ↔ CanEnter l m) := by
  refine ⟨fun e he hc => ?_, fun m hm => ?_⟩
  · obtain ⟨x, hx, rfl⟩ := List.mem_map.1 he
    split at hc
    · next k =>
      rw [if_pos k, (hf x).2.2]
      rw [(hf x).1] at hc
      exact h x hx hc
    · next k =>
      rw [if_neg k]
      exact h x hx hc
  · exact canEnter_congr (findEntry_changeEntry (fun e => ⟨(hf e).1, (hf e).2.1⟩) hm)

theorem appendEntry_brake {a : Alarms} (h : BrakeFailsTrip a.list) (arr : Arrangement) (c : AlarmCode) (src : Source)
    (d : Option Detail) (st : AlarmState) :
    let u := (appendEntry a (newEntry a arr c src d st)).unit
    BrakeFailsTrip u.list ∧ ∀ m, ¬(c = .brakeFail ∧ src = .motion m) → (CanEnter u.list m ↔ CanEnter a.list m) := by
  have hn : (newEntry a arr c src d st).code = .brakeFail → (newEntry a arr c src d st).cls = .trip := by
    intro k
    have : c = .brakeFail := k
    subst this
    cases src <;> rfl
  have hp : ∀ l : List AlarmEntry, BrakeFailsTrip l → BrakeFailsTrip (l ++ [newEntry a arr c src d st]) := by
    intro l hl x hx hc
    rcases List.mem_append.1 hx with k | k
    · exact hl x k hc
    · rw [List.mem_singleton.1 k] at hc ⊢
      exact hn hc
  have hf : ∀ (l : List AlarmEntry) (m : Motion), ¬(c = .brakeFail ∧ src = .motion m) →
      findEntry (l ++ [newEntry a arr c src d st]) .brakeFail (.motion m) = findEntry l .brakeFail (.motion m) :=
    fun l m hm => findEntry_append (isFor_eq_false hm)
  have he : BrakeFailsTrip (evictWarn a.list) := fun x hx => h x (List.mem_of_mem_eraseP hx)
  unfold appendEntry
  split
  · exact ⟨hp _ h, fun m hm => canEnter_congr (hf a.list m hm)⟩
  · split
    · exact ⟨h, fun m _ => Iff.rfl⟩
    · exact ⟨hp _ he, fun m hm => canEnter_congr ((hf _ m hm).trans (findEntry_evictWarn h m))⟩

/-- A report of another code or source leaves the entry of BRAKE-FAIL of a motion as it is. -/
theorem unitAfter_brake (arr : Arrangement) {a : Alarms} (r : Report) (h : BrakeFailsTrip a.list) :
    BrakeFailsTrip (unitAfter arr a r).list ∧
      ∀ m, ¬r.OfBrake m → (CanEnter (unitAfter arr a r).list m ↔ CanEnter a.list m) := by
  rcases r with ⟨c, src, d⟩ | ⟨c, src, d⟩ | ⟨c, src⟩
  · show BrakeFailsTrip (raiseHeld a arr c src d).unit.list ∧ ∀ m, ¬(c = .brakeFail ∧ src = .motion m) →
      (CanEnter (raiseHeld a arr c src d).unit.list m ↔ _)
    unfold raiseHeld
    split
    · split
      · exact ⟨h, fun m _ => Iff.rfl⟩
      · exact appendEntry_brake h _ _ _ _ _
    · split
      · exact changeEntry_brake h fun e => ⟨rfl, rfl, rfl⟩
      · split
        · exact ⟨h, fun m _ => Iff.rfl⟩
        · exact changeEntry_brake h fun e => ⟨rfl, rfl, rfl⟩
  · show BrakeFailsTrip (raiseMomentary a arr c src d).unit.list ∧ ∀ m, ¬(c = .brakeFail ∧ src = .motion m) →
      (CanEnter (raiseMomentary a arr c src d).unit.list m ↔ _)
    unfold raiseMomentary
    split
    · exact appendEntry_brake h _ _ _ _ _
    · exact changeEntry_brake h fun e => ⟨rfl, rfl, rfl⟩
  · show BrakeFailsTrip (conditionGone a c src).unit.list ∧ ∀ m, ¬(c = .brakeFail ∧ src = .motion m) →
      (CanEnter (conditionGone a c src).unit.list m ↔ _)
    unfold conditionGone
    split
    · exact ⟨h, fun m _ => Iff.rfl⟩
    · split
      · exact changeEntry_brake h fun e => ⟨rfl, rfl, rfl⟩
      · exact ⟨fun e he => h e (List.mem_of_mem_filter he), fun m hm => canEnter_congr (findEntry_removeEntry hm)⟩
      · exact ⟨h, fun m _ => Iff.rfl⟩

theorem takeReports_brake (rs : List Report) {s : State} (h : BrakeFailsTrip s.alarms.list) :
    BrakeFailsTrip (takeReports rs s).alarms.list ∧
      ∀ m, (∀ r ∈ rs, ¬r.OfBrake m) → (CanEnter (takeReports rs s).alarms.list m ↔ CanEnter s.alarms.list m) := by
  induction rs generalizing s with
  | nil => exact ⟨h, fun _ _ => Iff.rfl⟩
  | cons r rs ih =>
    obtain ⟨a1, a2⟩ := unitAfter_brake s.sequencer.record.arrangement r h
    rw [← Report.take_alarms] at a1 a2
    obtain ⟨b1, b2⟩ := ih (s := r.take s) a1
    exact ⟨b1, fun m hm => (b2 m fun x hx => hm x (.tail _ hx)).trans (a2 m (hm r (.head _)))⟩

/-- In a lawful list the entry found is the only one. -/
theorem canEnter_iff {s : State} (h : AlarmListLaw s) (m : Motion) : CanEnter s.alarms.list m ↔
    ∀ e ∈ s.alarms.list, e.code = .brakeFail → e.source = .motion m → e.state = .clearedUnack := by
  constructor
  · intro k e he hc hs
    obtain ⟨l₁, l₂, hl⟩ := List.append_of_mem he
    have hu := h.2.1
    rw [hl, List.map_append, List.map_cons] at hu
    refine k e ?_
    rw [hl]
    have := findEntry_append_cons (l₁ := l₁) (l₂ := l₂) (e := e) fun x hx hxc hxs =>
      (List.nodup_append.1 hu).2.2 (x.code, x.source)
        (List.mem_map_of_mem (f := fun e : AlarmEntry => (e.code, e.source)) hx) (e.code, e.source) (.head _)
        (by rw [hxc, hxs])
    rwa [hc, hs] at this
  · intro k e he
    obtain ⟨k1, k2, k3⟩ := findEntry_mem he
    exact k e k1 k2 k3

/-! ### The raise itself -/

/-- BRAKE-FAIL of a motion raised: the motion is stopped and its brake dropped where the entry is appended or re-raised,
and both stand where it is active (R149, R155). -/
theorem raiseBrakeFail_stops (m : Motion) (s : State) :
    let t := raiseBrakeFail m s
    (CanEnter s.alarms.list m → t.shaper.motions.get m = (s.shaper.motions.get m).stopped ∧
      t.gate.brakes.get m = dropBrake (s.gate.brakes.get m)) ∧
    (¬CanEnter s.alarms.list m → t.shaper.motions.get m = s.shaper.motions.get m ∧
      t.gate.brakes.get m = s.gate.brakes.get m) := by
  have ap : (raiseHeld s.alarms s.sequencer.record.arrangement .brakeFail (.motion m) none).applied = true ↔
      CanEnter s.alarms.list m := by
    unfold raiseHeld CanEnter
    cases findEntry s.alarms.list .brakeFail (.motion m) with
    | none =>
      have : (appendEntry s.alarms (newEntry s.alarms s.sequencer.record.arrangement .brakeFail (.motion m) none
          .activeUnack)).applied = true := by
        unfold appendEntry
        split
        · rfl
        · split
          · next h => cases (show AlarmClass.trip = .warn from h)
          · rfl
      simp [this, Alarms.hasLost, alarmClass]
    | some e =>
      dsimp only
      by_cases k : e.state = .clearedUnack
      · simp [k]
      · by_cases k' : e.detail = none <;> simp [k, k']
  have ha : (onlyMotion m).any = true := (PerMotion.any_iff _).2 ⟨m, by simp [onlyMotion]⟩
  have ho : (onlyMotion m).get m = true := by simp [onlyMotion]
  constructor <;> intro h <;> unfold raiseBrakeFail reportRaise applyClass
  · simp [ap.2 h, affectedMotions, alarmClass, tripEffects_eq ha, ho, takeReport_shaper, takeReport_gate]
  · simp [Bool.eq_false_iff.2 fun k => h (ap.1 k), takeReport_shaper, takeReport_gate]

/-! ### What a period expiry forms -/

/-- A release is asked of a brake exactly as the notice of its motion carries it. -/
theorem periodNotices_get (s : State) (m : Motion) :
    (periodNotices s).get m =
      { target := (formMotion s m).target
        output := (sharePeriod s (PerMotion.of (formMotion s))).outputs.get m
        release := decide ((formMotion s m).target ≠ 0 ∧
          ((s.gate.brakes.get m).state = .set ∨ (s.gate.brakes.get m).state = .setting))
        association := (s.shaper.motions.get m).association } := by
  unfold periodNotices noticesOf
  simp only [PerMotion.get_of, releaseRequested]
  congr 1
  by_cases h : (formMotion s m).target = 0 <;> cases (s.gate.brakes.get m).state <;> simp [h]

/-- The brake of a motion after the four steps of the notification of a period expiry, with its reports. -/
def noticed (s : State) (m : Motion) : Notified :=
  notifyBrake (brakeInput s ((periodNotices s).get m) m) (s.gate.brakes.get m)

@[simp] theorem periodBlocks_brake (s : State) (m : Motion) :
    (periodBlocks s).gate.brakes.get m = (noticed s m).brake := by
  simp [periodBlocks, notifiedBrakes, noticed]

/-- The fail condition reported gone is the one that ends (R107). -/
theorem notifyBrake_gone (x : BrakeInput) (b : BrakeRecord) :
    (notifyBrake x b).gone = true ↔ b.fail = true ∧ (notifyBrake x b).brake.fail = false := by
  obtain ⟨⟨target, output, release, association⟩, _, _, _, _⟩ := x
  obtain ⟨state, _, _, _, feedback, fail, _⟩ := b
  cases state <;> cases fail <;> cases feedback <;> cases release <;>
    simp [notifyBrake, testBrake, testReleasing, testReleased, testSetting, stepCounts, failEnds, actOnRelease, toReleasing,
      toSetting, failBrake] <;> (repeat' split) <;> simp_all

/-- The stop-and-set order names the motions of the source mode of a stop (R109). -/
theorem stopAndSet_iff (mode : Mode) (m : Motion) : stopAndSet mode m = true ↔
    ∃ d, mode = .stopping .dig d ∧ m ≠ .walk ∨ mode = .stopping .walk d ∧ m = .walk := by
  unfold stopAndSet sourceMotions
  cases mode with
  | stopping source d => cases source <;> cases m <;> simp [PerMotion.get, digMotions, onlyMotion, PerMotion.of]
  | _ => simp

/-- The reports of a period expiry, in the terms of the statements. -/
theorem noticeReports_period (s : State) :
    (changeReports .overdraw .supply (bare s.shaper.overdraw) (bare (periodBlocks s).shaper.overdraw) ++
        Motion.all.flatMap fun m => noticeReports (s.gate.reportDue != .none) m (noticed s m)) =
      periodReports s (periodBlocks s) fun m => (noticed s m).raised := by
  unfold periodReports noticeReports
  congr 2
  funext m
  have g := notifyBrake_gone (brakeInput s ((periodNotices s).get m) m) (s.gate.brakes.get m)
  dsimp only
  rw [periodBlocks_brake]
  change (noticed s m).gone = true ↔ _ ∧ (noticed s m).brake.fail = false at g
  congr 1
  · have h : ((noticed s m).raised || s.gate.reportDue != .none && (noticed s m).brake.fail) = true ↔
        (noticed s m).raised = true ∨ s.gate.reportDue ≠ .none ∧ (noticed s m).brake.fail = true := by simp
    simp only [h]
  · simp only [g]

/-! ### Which motions a period expiry stops -/

theorem noticeReports_ofBrake {due : Bool} {k m : Motion} {after : Notified} (h : k ≠ m) {r : Report}
    (hr : r ∈ noticeReports due k after) : (∀ arr, ¬r.MayTrip arr m) ∧ ¬r.OfBrake m := by
  refine ⟨fun arr hm => h (noticeReports_mayTrip hr arr m hm).symm, ?_⟩
  unfold noticeReports at hr
  rcases List.mem_append.1 hr with hr | hr <;> split at hr <;> simp at hr <;> subst hr <;> simp [Report.OfBrake, h]

theorem overdraw_ofBrake {before now : Option (Option Detail)} {m : Motion} {r : Report}
    (hr : r ∈ changeReports .overdraw .supply before now) : (∀ arr, ¬r.MayTrip arr m) ∧ ¬r.OfBrake m := by
  refine ⟨fun arr => overdraw_mayTrip hr arr m, ?_⟩
  unfold changeReports at hr
  split at hr <;> split at hr <;> simp at hr <;> subst hr <;> simp [Report.OfBrake]

/-- Reports of other brakes around those of one: its motion is stopped exactly where its raise is entered. -/
theorem takeReports_notice {s : State} {due : Bool} {m : Motion} {after : Notified} {pre post : List Report}
    (hpre : ∀ r ∈ pre, (∀ arr, ¬r.MayTrip arr m) ∧ ¬r.OfBrake m) (hpost : ∀ r ∈ post, (∀ arr, ¬r.MayTrip arr m) ∧ ¬r.OfBrake m)
    (hl : BrakeFailsTrip s.alarms.list) :
    let t := takeReports (pre ++ (noticeReports due m after ++ post)) s
    let entered := (after.raised || (due && after.brake.fail)) = true ∧ CanEnter s.alarms.list m
    (entered → t.shaper.motions.get m = (s.shaper.motions.get m).stopped ∧
      t.gate.brakes.get m = dropBrake (s.gate.brakes.get m)) ∧
    (¬entered → t.shaper.motions.get m = s.shaper.motions.get m ∧ t.gate.brakes.get m = s.gate.brakes.get m) := by
  dsimp only
  rw [takeReports_append, takeReports_append]
  obtain ⟨p1, p2, -⟩ := takeReports_spares (s := s) fun r hr => (hpre r hr).1 _
  have pe := (takeReports_brake pre hl).2 m fun r hr => (hpre r hr).2
  generalize takeReports pre s = u at *
  obtain ⟨q1, q2, -⟩ := takeReports_spares (s := takeReports (noticeReports due m after) u) (rs := post) (m := m)
    fun r hr => (hpost r hr).1 _
  have g : ∀ x : State, (reportGone .brakeFail (.motion m) x).shaper = x.shaper ∧
      (reportGone .brakeFail (.motion m) x).gate = x.gate := fun x => by
    rw [reportGone_eq]
    exact ⟨rfl, rfl⟩
  have k : takeReports (noticeReports due m after) u =
      if after.gone then reportGone .brakeFail (.motion m)
          (if after.raised || (due && after.brake.fail) then raiseBrakeFail m u else u)
      else if after.raised || (due && after.brake.fail) then raiseBrakeFail m u else u := by
    unfold noticeReports
    generalize (after.raised || (due && after.brake.fail)) = z
    cases after.gone <;> cases z <;> rfl
  have k' : (takeReports (noticeReports due m after) u).shaper.motions.get m =
        (if after.raised || (due && after.brake.fail) then raiseBrakeFail m u else u).shaper.motions.get m ∧
      (takeReports (noticeReports due m after) u).gate.brakes.get m =
        (if after.raised || (due && after.brake.fail) then raiseBrakeFail m u else u).gate.brakes.get m := by
    rw [k]
    split
    · rw [(g _).1, (g _).2]
      exact ⟨rfl, rfl⟩
    · exact ⟨rfl, rfl⟩
  rw [q1, q2, k'.1, k'.2, ← pe, ← p1, ← p2]
  obtain ⟨z1, z2⟩ := raiseBrakeFail_stops m u
  refine ⟨fun h => ?_, fun h => ?_⟩
  · rw [if_pos h.1]
    exact z1 h.2
  · split
    · next hr => exact z2 fun hc => h ⟨hr, hc⟩
    · exact ⟨rfl, rfl⟩

/-- A motion is stopped by a period expiry exactly where its BRAKE-FAIL is entered (R107, R149, R155). -/
theorem notifiedPeriod_trips {s : State} (hl : AlarmListLaw s) (m : Motion) :
    let t := notifyGate (periodNotices s) (shapePeriod s)
    let entered := BrakeFailEntered s m ((periodBlocks s).gate.brakes.get m) (noticed s m).raised
    (entered → t.shaper.motions.get m = ((periodBlocks s).shaper.motions.get m).stopped ∧
      t.gate.brakes.get m = dropBrake ((periodBlocks s).gate.brakes.get m)) ∧
    (¬entered → t.shaper.motions.get m = (periodBlocks s).shaper.motions.get m ∧
      t.gate.brakes.get m = (periodBlocks s).gate.brakes.get m) := by
  have hb : BrakeFailsTrip (periodBlocks s).alarms.list := fun e he hc => by
    rw [(hl.1 e he).2, hc]
    cases e.source <;> rfl
  have he : BrakeFailEntered s m ((periodBlocks s).gate.brakes.get m) (noticed s m).raised ↔
      ((noticed s m).raised || ((s.gate.reportDue != .none) && (noticed s m).brake.fail)) = true ∧
        CanEnter (periodBlocks s).alarms.list m := by
    refine and_congr ?_ (canEnter_iff hl m).symm
    rw [periodBlocks_brake]
    unfold BrakeFailRaised
    cases (noticed s m).raised <;> cases (noticed s m).brake.fail <;> cases s.gate.reportDue <;> simp
  have h := notifiedPeriod_told s
  dsimp only
  rw [he, show notifyGate (periodNotices s) (shapePeriod s) = takeReports
    (changeReports .overdraw .supply (bare s.shaper.overdraw) (bare (periodBlocks s).shaper.overdraw) ++
      (noticeReports (s.gate.reportDue != .none) .hoist (noticed s .hoist) ++
        (noticeReports (s.gate.reportDue != .none) .drag (noticed s .drag) ++
          (noticeReports (s.gate.reportDue != .none) .swing (noticed s .swing) ++
            (noticeReports (s.gate.reportDue != .none) .walk (noticed s .walk) ++ []))))) (periodBlocks s) from h]
  let Other (r : Report) : Prop := (∀ arr, ¬r.MayTrip arr m) ∧ ¬r.OfBrake m
  have both : ∀ {a b : List Report}, (∀ r ∈ a, Other r) → (∀ r ∈ b, Other r) → ∀ r ∈ a ++ b, Other r :=
    fun h1 h2 r hr => (List.mem_append.1 hr).elim (h1 r) (h2 r)
  have od : ∀ r ∈ changeReports .overdraw .supply (bare s.shaper.overdraw) (bare (periodBlocks s).shaper.overdraw),
      Other r := fun r hr => overdraw_ofBrake hr
  have ot : ∀ k, k ≠ m → ∀ r ∈ noticeReports (s.gate.reportDue != .none) k (noticed s k), Other r :=
    fun k hk r hr => noticeReports_ofBrake hk hr
  have no : ∀ r ∈ ([] : List Report), Other r := fun r hr => nomatch hr
  cases m
  · exact takeReports_notice od
      (both (ot .drag (by decide)) (both (ot .swing (by decide)) (both (ot .walk (by decide)) no))) hb
  · rw [← List.append_assoc]
    exact takeReports_notice (both od (ot .hoist (by decide)))
      (both (ot .swing (by decide)) (both (ot .walk (by decide)) no)) hb
  · rw [← List.append_assoc, ← List.append_assoc]
    exact takeReports_notice (both (both od (ot .hoist (by decide))) (ot .drag (by decide)))
      (both (ot .walk (by decide)) no) hb
  · rw [← List.append_assoc, ← List.append_assoc, ← List.append_assoc]
    exact takeReports_notice (both (both (both od (ot .hoist (by decide))) (ot .drag (by decide))) (ot .swing (by decide)))
      no hb

/-! ### The sequencer after it stops nothing -/

/-- The SG condition is as its report gives it (R159): the part of DriveLaw that an order does not blank. -/
def SgFormed (s : State) : Prop := s.alarms.driveFault.sg = decide (s.alarms.driveReport.sg = .fault)

theorem DriveLaw.sgFormed {s : State} (h : DriveLaw s) : SgFormed s := by
  have k := h.2 .sg
  unfold SgFormed
  by_cases hs : s.alarms.driveReport.sg = .fault <;> simp_all [PerGroup.get]

/-- Motions and brakes stand, and the SG condition stays formed. -/
def StopsNothing (s t : State) : Prop :=
  t.shaper.motions = s.shaper.motions ∧ t.gate.brakes = s.gate.brakes ∧ (SgFormed s → SgFormed t)

theorem StopsNothing.refl (s : State) : StopsNothing s s := ⟨rfl, rfl, id⟩

theorem StopsNothing.trans {s t u : State} (h : StopsNothing s t) (k : StopsNothing t u) : StopsNothing s u :=
  ⟨k.1.trans h.1, k.2.1.trans h.2.1, fun x => k.2.2 (h.2.2 x)⟩

theorem refuseSequence_stopsNothing (d : Detail) (s : State) : StopsNothing s (refuseSequence d s) := by
  have h := reportMomentary_eq (c := .sequenceRefused) (src := .sequencer) (by decide) (some d) s
  have o := refuseSequence_reports d s
  refine ⟨?_, ?_, fun k => ?_⟩
  · unfold refuseSequence
    rw [h]
  · unfold refuseSequence
    rw [h]
  · unfold SgFormed
    rw [o.driveFault, o.driveReport]
    exact k

/-- An order issued has DRIVE-FAULT of HG and DG reported gone at most, which stops nothing (R160). -/
theorem issueOrder_stopsNothing (kind : Working) {s : State} (h : SgFormed s) : StopsNothing s (issueOrder kind s) := by
  have hi := (issueOrder_issued kind s).2
  have hs : ∀ r ∈ driveFaultReports s.alarms.driveFault ⟨false, false, decide (s.alarms.driveReport.sg = .fault)⟩,
      ∀ arr m, ¬r.MayTrip arr m := by
    intro r hr arr m
    have hg : s.alarms.driveFault.sg = decide (s.alarms.driveReport.sg = .fault) := h
    unfold driveFaultReports changeReports at hr
    simp only [List.flatMap_cons, List.flatMap_nil, List.append_nil, List.mem_append, PerGroup.get, hg] at hr
    rcases hr with hr | hr | hr
    · cases k : s.alarms.driveFault.hg <;> simp [bare, k] at hr
      subst hr
      exact id
    · cases k : s.alarms.driveFault.dg <;> simp [bare, k] at hr
      subst hr
      exact id
    · by_cases k : s.alarms.driveReport.sg = .fault <;> simp [bare, k] at hr
  have ho := takeReports_reports (driveFaultReports s.alarms.driveFault
      ⟨false, false, decide (s.alarms.driveReport.sg = .fault)⟩)
    { s with
      sequencer := (issueOrder kind s).sequencer
      alarms := { s.alarms with driveFault := ⟨false, false, decide (s.alarms.driveReport.sg = .fault)⟩ }
      bands := { s.bands with integrators := ⟨0, 0, s.bands.integrators.sg⟩ } }
  refine ⟨PerMotion.ext_get fun m => ?_, PerMotion.ext_get fun m => ?_, fun _ => ?_⟩
  · rw [hi]
    exact (takeReports_spares fun r hr => hs r hr _ m).1
  · rw [hi]
    exact (takeReports_spares fun r hr => hs r hr _ m).2.1
  · unfold SgFormed
    rw [hi, ho.driveFault, ho.driveReport]

theorem takeEntry_stopsNothing (request : Settled) {s : State} (h : SgFormed s) :
    StopsNothing s (takeEntry request s) := by
  unfold takeEntry
  repeat' first
    | exact ⟨rfl, rfl, id⟩
    | exact issueOrder_stopsNothing _ h
    | exact refuseSequence_stopsNothing _ s
    | split

theorem takeEntries_stopsNothing (n : Nat) {s : State} (h : SgFormed s) : StopsNothing s (takeEntries n s) := by
  induction n generalizing s with
  | zero => exact .refl s
  | succ n ih =>
    unfold takeEntries
    split
    · exact .refl s
    · next e rest _ =>
      split
      · have k : StopsNothing s (takeEntry e.request (s.withSequencer { s.sequencer with queue := rest })) :=
          takeEntry_stopsNothing e.request (s := s.withSequencer { s.sequencer with queue := rest }) h
        exact k.trans (ih (k.2.2 h))
      · exact .refl s

theorem completeStop_stopsNothing (destination : Settled) {s : State} (h : SgFormed s) :
    StopsNothing s (completeStop destination s) := by
  unfold completeStop
  repeat' first
    | exact ⟨rfl, rfl, id⟩
    | exact issueOrder_stopsNothing _ h
    | exact refuseSequence_stopsNothing _ (setMode _ s)
    | split

/-- What the sequencer does at a period end stops no motion and drops no brake (R123, R124, R119). -/
theorem periodEndAtSequencer_spares (notices : PerMotion Notice) {s : State} (h : SgFormed s) :
    StopsNothing s (periodEndAtSequencer notices s) := by
  unfold periodEndAtSequencer
  split
  · next source destination _ =>
    split
    · have k := completeStop_stopsNothing destination h
      exact k.trans (takeEntries_stopsNothing _ (k.2.2 h))
    · exact .refl s
  · exact .refl s

end Sys2Proof.Machine
end

