-- ==== Sys2Proof/Laws/Delivery.lean ====
section
/-! SUPPORT. How a request reaches its owner: no owner reads or writes the receive and send side of a port
(`ownerAnswer_withLinks`), so a request taken at a free port is the owner's answer on the state as it stands, held with
its response (`exec_request_free`). -/

namespace Sys2Proof.Machine

/-- The receive and send sides of the ports replaced. -/
def State.withLinks (s : State) (l : PerPort PortLink) : State := s.withPorts { s.ports with links := l }

/-- A step that neither reads nor writes the links. -/
def IgnoresLinks (f : State → State) : Prop := ∀ s l, f (s.withLinks l) = (f s).withLinks l

/-- An owner that neither reads nor writes the links. -/
def AnswersIgnoringLinks (f : State → Reply × State) : Prop :=
  ∀ s l, f (s.withLinks l) = ((f s).1, (f s).2.withLinks l)

/-- What ignores the links leaves them. -/
theorem IgnoresLinks.links {f : State → State} (h : IgnoresLinks f) (s : State) :
    (f s).ports.links = s.ports.links := by
  have := congrArg (fun t : State => t.ports.links) (h s s.ports.links)
  exact this

theorem AnswersIgnoringLinks.links {f : State → Reply × State} (h : AnswersIgnoringLinks f) (s : State) :
    (f s).2.ports.links = s.ports.links := by
  have := congrArg (fun t : Reply × State => t.2.ports.links) (h s s.ports.links)
  exact this

/-! ### Replacing the links -/

@[simp] theorem State.withLinks_power (s : State) (l : PerPort PortLink) : (s.withLinks l).power = s.power := rfl
@[simp] theorem State.withLinks_scanner (s : State) (l : PerPort PortLink) : (s.withLinks l).scanner = s.scanner := rfl
@[simp] theorem State.withLinks_bands (s : State) (l : PerPort PortLink) : (s.withLinks l).bands = s.bands := rfl
@[simp] theorem State.withLinks_envelope (s : State) (l : PerPort PortLink) : (s.withLinks l).envelope = s.envelope := rfl
@[simp] theorem State.withLinks_shaper (s : State) (l : PerPort PortLink) : (s.withLinks l).shaper = s.shaper := rfl
@[simp] theorem State.withLinks_gate (s : State) (l : PerPort PortLink) : (s.withLinks l).gate = s.gate := rfl
@[simp] theorem State.withLinks_sequencer (s : State) (l : PerPort PortLink) : (s.withLinks l).sequencer = s.sequencer := rfl
@[simp] theorem State.withLinks_walk (s : State) (l : PerPort PortLink) : (s.withLinks l).walk = s.walk := rfl
@[simp] theorem State.withLinks_alarms (s : State) (l : PerPort PortLink) : (s.withLinks l).alarms = s.alarms := rfl
@[simp] theorem State.withLinks_store (s : State) (l : PerPort PortLink) : (s.withLinks l).store = s.store := rfl
@[simp] theorem State.withLinks_memory (s : State) (l : PerPort PortLink) : (s.withLinks l).memory = s.memory := rfl
@[simp] theorem State.withLinks_feedbackInputs (s : State) (l : PerPort PortLink) : (s.withLinks l).feedbackInputs = s.feedbackInputs := rfl
@[simp] theorem State.withLinks_lines (s : State) (l : PerPort PortLink) : (s.withLinks l).lines = s.lines := rfl
@[simp] theorem State.withLinks_pending (s : State) (l : PerPort PortLink) : (s.withLinks l).pending = s.pending := rfl
@[simp] theorem State.withLinks_links (s : State) (l : PerPort PortLink) : (s.withLinks l).ports.links = l := rfl
@[simp] theorem State.withLinks_portA (s : State) (l : PerPort PortLink) : (s.withLinks l).ports.a = s.ports.a := rfl
@[simp] theorem State.withLinks_portC (s : State) (l : PerPort PortLink) : (s.withLinks l).ports.c = s.ports.c := rfl

/-! ### Reports -/

theorem tripEffects_withLinks (ms : PerMotion Bool) : IgnoresLinks (tripEffects ms) := by
  intro s l
  cases h : ms.any
  · rw [tripEffects_none h, tripEffects_none h]
  · rw [tripEffects_eq h, tripEffects_eq h]
    rfl

theorem takeReport_withLinks (r : Reported) : IgnoresLinks (takeReport r) := by
  intro s l
  unfold takeReport
  split <;> rfl

theorem applyClass_withLinks (r : Reported) (c : AlarmCode) (src : Source) : IgnoresLinks (applyClass r c src) := by
  intro s l
  unfold applyClass
  split
  · exact tripEffects_withLinks _ _ _
  · rfl

theorem reportRaise_withLinks (c : AlarmCode) (src : Source) (d : Option Detail) :
    IgnoresLinks (reportRaise c src d) := by
  intro s l
  show applyClass _ c src (takeReport _ (s.withLinks l)) = _
  rw [takeReport_withLinks, applyClass_withLinks]
  rfl

theorem reportMomentary_withLinks (c : AlarmCode) (src : Source) (d : Option Detail) :
    IgnoresLinks (reportMomentary c src d) := by
  intro s l
  show applyClass _ c src (takeReport _ (s.withLinks l)) = _
  rw [takeReport_withLinks, applyClass_withLinks]
  rfl

theorem reportGone_withLinks (c : AlarmCode) (src : Source) : IgnoresLinks (reportGone c src) := by
  intro s l
  show takeReport _ (s.withLinks l) = _
  rw [takeReport_withLinks]
  rfl

/-! ### The sequencer -/

theorem formDriveFault_withLinks (g : Group) : IgnoresLinks (formDriveFault g) := by
  intro s l
  have key : ∀ (before now : Bool) (y : State),
      (if before = now then s.withLinks l
        else if now then reportRaise .driveFault (.group g) none (y.withLinks l)
        else reportGone .driveFault (.group g) (y.withLinks l)) =
      (if before = now then s
        else if now then reportRaise .driveFault (.group g) none y
        else reportGone .driveFault (.group g) y).withLinks l := by
    intro before now y
    split
    · rfl
    · split
      · exact reportRaise_withLinks _ _ _ y l
      · exact reportGone_withLinks _ _ y l
  exact key _ _ (s.withAlarms _)

theorem formDriveFaults_withLinks : IgnoresLinks formDriveFaults := by
  intro s l
  simp only [formDriveFaults, formDriveFault_withLinks _ _ l]

theorem recomputeAffected_withLinks : IgnoresLinks recomputeAffected := fun s l => takeReport_withLinks _ s l

theorem issueOrder_withLinks (kind : Working) : IgnoresLinks (issueOrder kind) :=
  fun s l => formDriveFaults_withLinks ((s.withBands _).withSequencer _) l

theorem orderDone_withLinks : IgnoresLinks orderDone := by
  intro s l
  unfold orderDone
  simp only [State.withLinks_sequencer]
  have h := fun q => recomputeAffected_withLinks (s.withSequencer q) l
  have h' : ∀ q, (s.withLinks l).withSequencer q = (s.withSequencer q).withLinks l := fun _ => rfl
  simp only [h', h]
  split
  · rw [reportGone_withLinks, formDriveFaults_withLinks]
  · rw [formDriveFaults_withLinks]

theorem orderFailed_withLinks (e : EndedBy) : IgnoresLinks (orderFailed e) := by
  intro s l
  unfold orderFailed
  show formDriveFaults (reportRaise _ _ _ (recomputeAffected ((s.withSequencer _).withLinks l))) = _
  rw [recomputeAffected_withLinks, reportRaise_withLinks, formDriveFaults_withLinks]
  rfl

theorem takeEntry_withLinks (request : Settled) : IgnoresLinks (takeEntry request) := by
  intro s l
  have h1 := issueOrder_withLinks .dig s l
  have h2 := issueOrder_withLinks .walk s l
  have h3 := fun d => reportMomentary_withLinks .sequenceRefused .sequencer (some d) s l
  have hp : walkPermitOk (s.withLinks l) = walkPermitOk s := rfl
  have hq : (s.withLinks l).sequencer = s.sequencer := rfl
  have hw : (s.withLinks l).walk = s.walk := rfl
  have hm : ∀ m, setMode m (s.withLinks l) = (setMode m s).withLinks l := fun _ => rfl
  unfold takeEntry refuseSequence
  simp only [hp, hq, hw, hm, h1, h2, h3]
  repeat' first | rfl | split

theorem takeEntries_withLinks (n : Nat) : IgnoresLinks (takeEntries n) := by
  induction n with
  | zero => exact fun s l => rfl
  | succ n ih =>
    intro s l
    have hq : (s.withLinks l).sequencer = s.sequencer := rfl
    have hm : mayTake (s.withLinks l) = mayTake s := rfl
    unfold takeEntries
    rw [hq, hm]
    split
    · rfl
    · split
      · next e rest _ _ =>
        show takeEntries n (takeEntry e.request ((s.withSequencer _).withLinks l)) = _
        rw [takeEntry_withLinks, ih]
      · rfl

theorem serviceQueue_withLinks : IgnoresLinks serviceQueue := fun s l => takeEntries_withLinks _ s l

theorem takePark_withLinks (p : Port) : IgnoresLinks (takePark p) := by
  intro s l
  unfold takePark
  have hq : (s.withLinks l).sequencer = s.sequencer := rfl
  simp only [hq]
  split
  · rfl
  · rfl
  · exact serviceQueue_withLinks (s.withSequencer _) l

/-! ### The owners -/

theorem refuse_withLinks (c : ResultCode) : AnswersIgnoringLinks (refuse c) := fun _ _ => rfl

theorem acceptWrite_withLinks (a : Bool) (w : RecordWrite) : AnswersIgnoringLinks (acceptWrite a w) := fun _ _ => rfl

theorem takeReadStatus_withLinks (p : Port) : AnswersIgnoringLinks (takeReadStatus p) := by
  intro s l
  unfold takeReadStatus
  split <;> rfl

theorem takeReadMeasurements_withLinks : AnswersIgnoringLinks takeReadMeasurements := by
  intro s l
  have h : (s.withLinks l).scanner = s.scanner := rfl
  unfold takeReadMeasurements
  rw [h]
  split <;> rfl

theorem settingBytes_withLinks (s : State) (l : PerPort PortLink) (g : SettingGroup) (which : Byte) :
    settingBytes (s.withLinks l) g which = settingBytes s g which := by
  cases g <;> rfl

theorem takeReadSetting_withLinks (group which : Byte) : AnswersIgnoringLinks (takeReadSetting group which) := by
  intro s l
  unfold takeReadSetting
  split
  · rfl
  · rw [settingBytes_withLinks]
    split <;> rfl

theorem takeReadAlarms_withLinks (p : Port) (start count : Byte) :
    AnswersIgnoringLinks (takeReadAlarms p start count) := by
  intro s l
  unfold takeReadAlarms
  split
  · rfl
  · cases p <;> rfl

theorem takeReadZone_withLinks (table position : Byte) : AnswersIgnoringLinks (takeReadZone table position) := by
  intro s l
  have h : (s.withLinks l).envelope = s.envelope := rfl
  unfold takeReadZone
  rw [h]
  simp only
  split
  · rfl
  · split
    · rfl
    · split <;> rfl

theorem freshFrame_withLinks (mark : Bool) (refs : PerMotion Int) : IgnoresLinks (freshFrame mark refs) := by
  intro s l
  have h : (s.withLinks l).ports.a = s.ports.a := rfl
  unfold freshFrame
  simp only [h]
  split
  · show (reportGone _ _ ((s.withPortA _).withLinks l)).withShaper _ = _
    have := reportGone_withLinks .operatorStale .portA
      (s.withPortA { s.ports.a with
        freshness := .fresh, lastMark := some mark, holdTimer := true,
        staleCondition := s.ports.a.staleCondition && !(refs.map fun _ x => decide (x = 0)).every }) l
    simp only [State.withPortA, State.withLinks, State.withPorts] at this ⊢
    simp only [this]
    rfl
  · rfl

theorem takeMotionRequest_withLinks (mark : Byte) (refs : PerMotion Half) :
    AnswersIgnoringLinks (takeMotionRequest mark refs) := by
  intro s l
  have h : (s.withLinks l).ports.a = s.ports.a := rfl
  unfold takeMotionRequest
  rw [h]
  split
  · rfl
  · split
    · rfl
    · simp only [freshFrame_withLinks _ _ s l]
      rfl

theorem takeModeRequest_withLinks (p : Port) (mode : Byte) : AnswersIgnoringLinks (takeModeRequest p mode) := by
  intro s l
  have ha : ∀ r, appendRequest r p (s.withLinks l) = ((appendRequest r p s).1, (appendRequest r p s).2.withLinks l) := by
    intro r
    have hq : (s.withLinks l).sequencer = s.sequencer := rfl
    unfold appendRequest
    simp only [hq]
    split
    · rfl
    · split
      · rfl
      · exact congrArg (Prod.mk _) (serviceQueue_withLinks (s.withSequencer _) l)
  have hj : ∀ r, judgeModeRequest r p (s.withLinks l) =
      ((judgeModeRequest r p s).1, (judgeModeRequest r p s).2.withLinks l) := by
    intro r
    have hw : walkRequestRefused (s.withLinks l) = walkRequestRefused s := rfl
    have hb : (s.withLinks l).bands = s.bands := rfl
    unfold judgeModeRequest
    cases r <;> simp only [takePark_withLinks p s l, ha, hw, hb] <;> split <;> (try rfl) <;> split <;> rfl
  unfold takeModeRequest
  split
  · rfl
  · simp only [hj]
    split <;> rfl

theorem takeTransferReport_withLinks (mark result : Byte) :
    AnswersIgnoringLinks (takeTransferReport mark result) := by
  intro s l
  have hj : ∀ k d, judgeReport k d (s.withLinks l) = ((judgeReport k d s).1, (judgeReport k d s).2.withLinks l) := by
    intro k d
    have hq : (s.withLinks l).sequencer = s.sequencer := rfl
    unfold judgeReport
    simp only [hq, orderDone_withLinks s l, serviceQueue_withLinks _ l, orderFailed_withLinks _ s l]
    split
    · split
      · cases d <;> rfl
      · rfl
    · split <;> rfl
    · rfl
  unfold takeTransferReport
  split
  · simp only [hj]
    split <;> rfl
  · rfl

theorem takeDriveState_withLinks (values : PerGroup Byte) : AnswersIgnoringLinks (takeDriveState values) := by
  intro s l
  have ht : ∀ r, takeReadiness r (s.withLinks l) = (takeReadiness r s).withLinks l := by
    intro r
    unfold takeReadiness loseService
    have h : lostMotions (s.withLinks l) r = lostMotions s r := rfl
    simp only [h]
    split
    · have hd : dropBrakes (lostMotions s r) (zeroMotions (lostMotions s r)
          ((s.withLinks l).withShaper { (s.withLinks l).shaper with readiness := r })) =
          (dropBrakes (lostMotions s r) (zeroMotions (lostMotions s r)
            (s.withShaper { s.shaper with readiness := r }))).withLinks l := by
        unfold zeroMotions dropBrakes
        simp only
        split <;> rfl
      rw [hd]
      exact formDriveFaults_withLinks (State.withAlarms _ _) l
    · exact formDriveFaults_withLinks
        ((s.withShaper { s.shaper with readiness := r }).withAlarms { s.alarms with driveReport := r }) l
  unfold takeDriveState
  split
  · rfl
  · simp only [ht]
    rfl

theorem takeStopAll_withLinks (p : Port) : AnswersIgnoringLinks (takeStopAll p) :=
  fun s l => congrArg (Prod.mk _) (reportMomentary_withLinks _ _ _ s l)

theorem takeClearOverrun_withLinks : AnswersIgnoringLinks takeClearOverrun :=
  fun s l => congrArg (Prod.mk _) (takeReport_withLinks _ s l)

theorem takeAckAlarm_withLinks (code source : Byte) : AnswersIgnoringLinks (takeAckAlarm code source) := by
  intro s l
  have h : (s.withLinks l).alarms = s.alarms := rfl
  unfold takeAckAlarm
  rw [h]
  split
  · exact congrArg (Prod.mk _) (takeReport_withLinks _ s l)
  · split
    · split
      · exact congrArg (Prod.mk _) (takeReport_withLinks _ s l)
      · rfl
    · rfl

theorem takeWriteProfile_withLinks (profile presence : Byte) (fields : ProfileFields Half) :
    AnswersIgnoringLinks (takeWriteProfile profile presence fields) := by
  intro s l
  have h : storeBusy (s.withLinks l) = storeBusy s := rfl
  have hx : (s.withLinks l).shaper = s.shaper := rfl
  have hq : (s.withLinks l).sequencer = s.sequencer := rfl
  unfold takeWriteProfile
  rw [h, hx, hq]
  split
  · rfl
  · simp only
    split
    · rfl
    · split
      · rfl
      · split
        · rfl
        · split <;> rfl

theorem takeWriteCalibration_withLinks (channel : Byte) (body : CalBody) :
    AnswersIgnoringLinks (takeWriteCalibration channel body) := by
  intro s l
  have h : storeBusy (s.withLinks l) = storeBusy s := rfl
  have hq : (s.withLinks l).sequencer = s.sequencer := rfl
  unfold takeWriteCalibration acceptCalibration
  rw [h, hq]
  split
  · rfl
  · split
    · rfl
    · cases body <;> simp only <;> split <;> (try rfl)
      split <;> rfl

theorem takeZeroChannel_withLinks (channel : Byte) (value : Word) :
    AnswersIgnoringLinks (takeZeroChannel channel value) := by
  intro s l
  have h : storeBusy (s.withLinks l) = storeBusy s := rfl
  have hq : (s.withLinks l).sequencer = s.sequencer := rfl
  have hz : ∀ e v, zeroChannel e v (s.withLinks l) = (zeroChannel e v s).withLinks l := by
    intro e v
    have hx : (s.withLinks l).scanner = s.scanner := rfl
    unfold zeroChannel
    simp only [hx]
    split
    · rfl
    · exact congrArg (startWrite _) (reportGone_withLinks _ _ (s.withScanner _) l)
  unfold takeZeroChannel
  rw [h, hq]
  split
  · rfl
  · split
    · rfl
    · split
      · rfl
      · simp only [hz]

theorem takeEditZone_withLinks (position : Byte) (entry : ZoneBody) :
    AnswersIgnoringLinks (takeEditZone position entry) := by
  intro s l
  have h : (s.withLinks l).envelope = s.envelope := rfl
  unfold takeEditZone acceptEntry
  rw [h]
  split
  · rfl
  · rfl
  · split
    · rfl
    · split
      · rfl
      · split
        · rfl
        · split <;> rfl

theorem takeRestart_withLinks : AnswersIgnoringLinks takeRestart := by
  intro s l
  have h : storeBusy (s.withLinks l) = storeBusy s := rfl
  have hq : (s.withLinks l).sequencer = s.sequencer := rfl
  have hr : restartAll (s.withLinks l) = (restartAll s).withLinks l := by
    unfold restartAll
    simp only [hq]
    split
    · rw [← reportRaise_withLinks]
      rfl
    · rfl
  unfold takeRestart
  rw [h, hq, hr]
  split
  · rfl
  · split <;> rfl

/-- No owner reads or writes the links. -/
theorem ownerAnswer_withLinks (p : Port) (r : Request) : AnswersIgnoringLinks (ownerAnswer p r) := by
  cases r with
  | unknownKind _ => exact fun _ _ => rfl
  | badLength _ _ => exact fun _ _ => rfl
  | readStatus => exact takeReadStatus_withLinks p
  | motionRequest mark refs => exact takeMotionRequest_withLinks mark refs
  | modeRequest mode => exact takeModeRequest_withLinks p mode
  | stopAll => exact takeStopAll_withLinks p
  | ackAlarm code source => exact takeAckAlarm_withLinks code source
  | readAlarms start count => exact takeReadAlarms_withLinks p start count
  | clearOverrun => exact takeClearOverrun_withLinks
  | readMeasurements => exact takeReadMeasurements_withLinks
  | readReferences => exact fun _ _ => rfl
  | transferReport mark result => exact takeTransferReport_withLinks mark result
  | driveState values => exact takeDriveState_withLinks values
  | readSetting group which => exact takeReadSetting_withLinks group which
  | writeProfile profile presence fields => exact takeWriteProfile_withLinks profile presence fields
  | writeAssociation names =>
    intro s l
    have h : storeBusy (s.withLinks l) = storeBusy s := rfl
    simp only [ownerAnswer, takeWriteAssociation, h]
    split
    · rfl
    · split <;> rfl
  | writeCalibration channel body => exact takeWriteCalibration_withLinks channel body
  | writeSupplyBands t1 t2 t3 =>
    intro s l
    have h : storeBusy (s.withLinks l) = storeBusy s := rfl
    simp only [ownerAnswer, takeWriteSupplyBands, h]
    split
    · rfl
    · split <;> rfl
  | writeBoomBands g h o heavyCap =>
    intro s l
    have h : storeBusy (s.withLinks l) = storeBusy s := rfl
    simp only [ownerAnswer, takeWriteBoomBands, h]
    split
    · rfl
    · split <;> rfl
  | writeCurrentTrip levels counts =>
    intro s l
    have h : storeBusy (s.withLinks l) = storeBusy s := rfl
    simp only [ownerAnswer, takeWriteCurrentTrip, h]
    split <;> rfl
  | writeSharing body =>
    intro s l
    have h : storeBusy (s.withLinks l) = storeBusy s := rfl
    simp only [ownerAnswer, takeWriteSharing, h]
    split
    · rfl
    · split <;> rfl
  | writeWalk restFrom restTo gain trip =>
    intro s l
    have h : storeBusy (s.withLinks l) = storeBusy s := rfl
    simp only [ownerAnswer, takeWriteWalk, h]
    split <;> rfl
  | writeGate confirm =>
    intro s l
    have h : storeBusy (s.withLinks l) = storeBusy s := rfl
    simp only [ownerAnswer, takeWriteGate, h]
    split <;> rfl
  | writeSequencer timeout =>
    intro s l
    have h : storeBusy (s.withLinks l) = storeBusy s := rfl
    simp only [ownerAnswer, takeWriteSequencer, h]
    split <;> rfl
  | zeroChannel channel value => exact takeZeroChannel_withLinks channel value
  | clearMarks => exact fun _ _ => rfl
  | readZone table position => exact takeReadZone_withLinks table position
  | editBegin =>
    intro s l
    have h : (s.withLinks l).envelope = s.envelope := rfl
    simp only [ownerAnswer, takeEditBegin, h]
    split <;> rfl
  | editZone position entry => exact takeEditZone_withLinks position entry
  | editCommit =>
    intro s l
    have h : (s.withLinks l).envelope = s.envelope := rfl
    have hq : (s.withLinks l).sequencer = s.sequencer := rfl
    have hb : storeBusy (s.withLinks l) = storeBusy s := rfl
    simp only [ownerAnswer, takeEditCommit, h, hq, hb]
    split
    · rfl
    · rfl
    · split
      · rfl
      · split <;> rfl
  | editDiscard =>
    intro s l
    have h : (s.withLinks l).envelope = s.envelope := rfl
    simp only [ownerAnswer, takeEditDiscard, h]
    split <;> rfl
  | restart => exact takeRestart_withLinks

/-! ### Delivery -/

theorem judgeRequest_withLinks (p : Port) (r : Request) : AnswersIgnoringLinks (judgeRequest p r) := by
  intro s l
  unfold judgeRequest
  split
  · rfl
  · rfl
  · split
    · exact ownerAnswer_withLinks p r s l
    · rfl

/-- A station request's command is the completion of its frame. -/
theorem exec_request {c : Instr} {p : Port} {r : Request} (h : requestOf c = some (p, r)) (s : State) :
    exec c s = runningEvent (completeFrame p r) s := by
  cases c <;> simp only [requestOf, Option.some.injEq, Prod.mk.injEq, reduceCtorEq] at h <;>
    (obtain ⟨rfl, rfl⟩ := h; rfl)

/-- A frame that completes at a port that holds no request: the answer of the port and the owner, held (R168 to
R171). -/
theorem completeFrame_free {p : Port} {s : State} (h : (s.ports.links.get p).held = none) (r : Request) :
    completeFrame p r s =
      holdAnswer p r (kindOf r ||| 0x80) (judgeRequest p r s).1.result (judgeRequest p r s).1.data
        (judgeRequest p r s).2 := by
  have hl := (judgeRequest_withLinks p r).links s
  have hd : dropFrame p s = s.withLinks (s.ports.links.set p { s.ports.links.get p with frame := none }) := rfl
  have hj := judgeRequest_withLinks p r s (s.ports.links.set p { s.ports.links.get p with frame := none })
  unfold completeFrame
  simp only [h, Option.isSome_none, Bool.false_eq_true, if_false]
  unfold takeRequest
  rw [hd, hj]
  simp only [holdAnswer, hl, State.withLink, State.withLinks, State.withPorts, responseTo, PerPort.get_set_self,
    PerPort.set_set]

/-- A request whose frame completes at a port of a running part that holds none: what its command does. -/
theorem exec_request_free {c : Instr} {p : Port} {r : Request} (h : requestOf c = some (p, r)) {s : State}
    (free : PortFree p s) :
    exec c s = .next (settle (holdAnswer p r (kindOf r ||| 0x80) (judgeRequest p r s).1.result
      (judgeRequest p r s).1.data (judgeRequest p r s).2)) := by
  rw [exec_request h, runningEvent, if_pos free.1, completeFrame_free free.2]

end Sys2Proof.Machine
end

