-- ==== Sys2Proof/Laws/Records.lean ====
section
/-! SUPPORT. What one event makes of one record, in the terms of Safety.lean: an encoder and an analog channel at a scan
(`scanEncoder_scanned`, `scanAnalog_scanned`), a band record at a scan (`debounce_debounced`), a brake at a period end
notification (`notifyBrake_set`, `_releasing`, `_released`, `_setting`) and at a drop order (`dropBrake_dropped`), a mode and a motion at a trip. -/

namespace Sys2Proof.Machine

/-! ### Channels (R3 to R12) -/

theorem encoderLow_le_high (e : EncoderId) : encoderLow e ≤ encoderHigh e := by cases e <;> decide

theorem analogLow_le_high (a : AnalogId) : analogLow a ≤ analogHigh a := by cases a <;> decide

/-- A number clamped is the lower end below it, the upper end above it, and itself between them. -/
theorem clampInt_eq {lo hi : Int} (h : lo ≤ hi) (v : Int) :
    clampInt lo hi v = if v < lo then lo else if hi < v then hi else v := by
  unfold clampInt
  split
  · omega
  · split <;> omega

/-- The scaled value is the one R5 to R7 give, wherever the scale is not 0. -/
theorem encoderScaled_scales (e : EncoderId) (cal : EncoderCal) (count : Word) (h : 0 < cal.scale) :
    EncoderScales e cal count (encoderScaled e cal count) := by
  have hp : (0 : Int) < cal.scale := by exact_mod_cast h
  have floor (x : Int) : Int.fdiv x cal.scale * cal.scale ≤ x ∧ x < (Int.fdiv x cal.scale + 1) * cal.scale := by
    rw [Int.fdiv_eq_ediv_of_nonneg _ hp.le]
    exact ⟨Int.ediv_mul_le _ hp.ne', Int.lt_ediv_add_one_mul_self _ hp⟩
  cases e <;> simp only [EncoderScales, encoderScaled, countsFrom] <;> exact floor _

theorem scanEncoder_scanned (e : EncoderId) (r : EncoderRecord) :
    EncoderScanned e (encoderScaled e r.cal r.count) r (scanEncoder e r) := by
  simp only [EncoderScanned, scanEncoder, encoderValue, scanMarks, stepExceeded]
  rw [← clampInt_eq (encoderLow_le_high e)]
  refine ⟨trivial, trivial, trivial, by simp, rfl, rfl, by simp, by simp, by simp⟩

/-- A conversion passes exactly where no limit fails (R10). -/
theorem limitFailed_eq_none (cal : AnalogCal) (raw : Sample) : limitFailed cal raw = none ↔ PassesLimits cal raw := by
  unfold limitFailed PassesLimits
  split
  · simp; omega
  · split
    · simp; omega
    · simp; omega

theorem limitFailed_of_fails {cal : AnalogCal} {raw : Sample} {d : AnalogState} (h : FailsLimit cal raw d) :
    limitFailed cal raw = some d := by
  cases d with
  | valid => exact h.elim
  | faultLow => exact if_pos h
  | faultHigh => exact (if_neg h.2.2).trans (if_pos ⟨h.1, h.2.1⟩)

theorem scanAnalog_scanned (a : AnalogId) (raw : Sample) (r : AnalogRecord) :
    AnalogScanned a raw (Int.tdiv (((raw.toNat : Int) - r.cal.offset) * r.cal.gain) 4096) r (scanAnalog a raw r) := by
  simp only [AnalogScanned, scanAnalog, analogValue, scanMarks, analogScaled]
  rw [← clampInt_eq (analogLow_le_high a)]
  refine ⟨trivial, trivial, ?_, ?_, ?_, ?_, ?_, rfl, rfl, ?_, ?_, by simp⟩
  · intro h1 h2
    simp [plausibility, h1, (limitFailed_eq_none _ _).2 h2]
  · intro h1 d h2
    simp [plausibility, h1, limitFailed_of_fails h2]
  · intro h1 h2
    obtain ⟨d, hd⟩ := Option.ne_none_iff_exists'.1 (mt (limitFailed_eq_none _ _).1 h2)
    cases hs : r.state <;> simp_all [plausibility]
  · intro h1 h2 h3
    rw [(limitFailed_eq_none _ _).2 h2]
    cases hs : r.state <;> simp_all [plausibility, Config.recoveryScans]
  · intro h1 h2 h3
    rw [(limitFailed_eq_none _ _).2 h2]
    cases hs : r.state <;> simp [plausibility, Config.recoveryScans, Nat.not_lt.2 h3]
  · simp only [Bool.or_eq_true, Bool.and_eq_true, beq_iff_eq]
    exact or_congr Iff.rfl (and_congr Iff.rfl decide_eq_true_iff)
  · simp only [Bool.or_eq_true, Bool.and_eq_true, beq_iff_eq]
    exact or_congr Iff.rfl (and_congr Iff.rfl decide_eq_true_iff)

/-! ### Bands (R19 to R23) -/

theorem debounce_debounced {β : Type} [DecidableEq β] (rank : β → Nat) (worse better : Nat) (c : β) (r : BandRecord β) :
    Debounced rank worse better (some c) r (debounce rank worse better c r) := by
  have hn : nextRun r c = if r.candidate = some c then min 255 (r.run + 1) else 1 := rfl
  simp only [Debounced, debounce, ← hn]
  by_cases h1 : worse ≤ nextRun r c <;> by_cases h2 : better ≤ nextRun r c <;>
    rcases Nat.lt_trichotomy (rank r.band) (rank c) with h | h | h <;>
    cases hv : r.valid <;> simp [h1, h2, h, Nat.lt_asymm]

theorem restartDebounce_debounced {β : Type} [DecidableEq β] (rank : β → Nat) (worse better : Nat) (r : BandRecord β) :
    Debounced rank worse better none r (restartDebounce r) := ⟨rfl, rfl, rfl, rfl⟩

/-! ### Brakes (R102 to R109) -/

theorem dropBrake_dropped (b : BrakeRecord) : Dropped b (dropBrake b) := by
  unfold Dropped dropBrake
  cases b.state <;> rfl

/-- A notification at a brake in SET: with a release it becomes RELEASING. -/
theorem notifyBrake_set (x : BrakeInput) (b : BrakeRecord) (h : b.state = .set) :
    notifyBrake x b =
      { brake := actOnRelease x { b with fail := b.fail && b.feedback }
        raised := false
        gone := b.fail && !b.feedback } := by
  obtain ⟨state, count, idle, remembered, feedback, fail, filtering⟩ := b
  subst h
  cases feedback <;> cases fail <;> rfl

/-- A notification at a brake in RELEASING is its tests after its count. -/
theorem notifyBrake_releasing (x : BrakeInput) (b : BrakeRecord) (h : b.state = .releasing)
    (hx : x.notice.release = false) :
    notifyBrake x b =
      { brake := (testReleasing x { b with count := min 65535 (b.count + 1) }).brake
        raised := (testReleasing x { b with count := min 65535 (b.count + 1) }).failed
        gone := false } := by
  have hs : (testReleasing x { b with count := min 65535 (b.count + 1) }).brake.state ≠ .set := by
    simp only [testReleasing, failBrake, toSetting]
    split
    · simp
    · split
      · simp
      · split <;> simp [h]
  have hf : failEnds (testReleasing x { b with count := min 65535 (b.count + 1) }).brake = false := by
    simp [failEnds, hs]
  simp [notifyBrake, stepCounts, testBrake, actOnRelease, h, hx, Config.stateCountMax] at hf ⊢
  simp [hf]

/-- A notification at a brake in RELEASED: its idle count, and SETTING at the idle-set time or in the stop-and-set
order. -/
theorem notifyBrake_released (x : BrakeInput) (b : BrakeRecord) (h : b.state = .released)
    (hx : x.notice.release = false) :
    let idle := if x.notice.idle then min 2400 (b.idle + 1) else 0
    notifyBrake x b =
      if x.idleSet ≤ idle ∨ x.named = true ∧ x.notice.idle = true then
        ⟨{ b with state := .setting, count := 0, idle := idle }, false, false⟩
      else ⟨{ b with idle := idle }, false, false⟩ := by
  intro idle
  obtain ⟨state, count, idleCount, remembered, feedback, fail, filtering⟩ := b
  subst h
  have hs : stepCounts x.notice ⟨.released, count, idleCount, remembered, feedback, fail, filtering⟩ =
      ⟨.released, count, idle, remembered, feedback, fail, filtering⟩ := rfl
  by_cases hc : x.idleSet ≤ idle ∨ x.named = true ∧ x.notice.idle = true <;>
    simp [notifyBrake, hs, testBrake, testReleased, toSetting, hc, failEnds, actOnRelease, hx]

/-- A notification at a brake in SETTING: counted, tested, and where that leaves it SET its fail condition ends. -/
theorem notifyBrake_setting (x : BrakeInput) (b : BrakeRecord) (h : b.state = .setting) :
    let asked := b.remembered || x.notice.release
    let n := min 65535 (b.count + 1)
    notifyBrake x b =
      if b.feedback = false then
        if asked = true ∧ x.notice.target ≠ 0 then
          ⟨{ b with state := .releasing, count := 0, remembered := false }, false, false⟩
        else
          ⟨actOnRelease x { b with state := .set, count := n, remembered := false, fail := false }, false, b.fail⟩
      else if x.confirm ≤ n then
        ⟨{ b with count := n, remembered := asked, fail := true }, !b.fail, false⟩
      else ⟨{ b with count := n, remembered := asked }, false, false⟩ := by
  intro asked n
  obtain ⟨⟨target, output, release, association⟩, delay, idleSet, confirm, named⟩ := x
  obtain ⟨state, count, idleCount, remembered, feedback, fail, filtering⟩ := b
  subst h
  cases feedback with
  | false =>
    by_cases ht : target = 0 <;> cases remembered <;> cases release <;> cases fail <;>
      simp [notifyBrake, stepCounts, testBrake, testSetting, toReleasing, Config.stateCountMax, ht, failEnds,
        actOnRelease, asked, n]
  | true =>
    by_cases hc : confirm ≤ min 65535 (count + 1) <;> cases release <;>
      simp [notifyBrake, stepCounts, testBrake, testSetting, failBrake, Config.stateCountMax, hc, failEnds,
        actOnRelease, asked, n]

/-! ### A trip (R74, R96, R130) -/

theorem modeAfterTrip_trippedTo (m : Mode) : TrippedTo m (modeAfterTrip m) := by cases m <;> rfl

theorem zeroed_stoppedAtOnce (r : MotionRecord) : StoppedAtOnce r { r with permit := false }.zeroed :=
  ⟨rfl, rfl, rfl, rfl, rfl, rfl, rfl, rfl, rfl, rfl, rfl⟩

end Sys2Proof.Machine
end

