-- ==== Sys2Proof/Laws/Drive.lean ====
section
/-! SUPPORT. What a readiness report does, said once: the blocks it forms (`formedReadiness_formed`), and exactly the
reports of DRIVE-FAULT that follow (`takeReadiness_told`). -/

namespace Sys2Proof.Machine

/-- The blocks as a readiness report forms them, before its reports (R67, R68, R159). -/
def formedReadiness (r : PerGroup Readiness) (s : State) : State :=
  let ready := loseService (lostMotions s r) (s.withShaper { s.shaper with readiness := r })
  (ready.withAlarms { ready.alarms with driveReport := r }).withDriveFault
    (r.map fun g _ => driveFaultPresent (orderPending s.sequencer) r g)

theorem lostMotions_iff (s : State) (r : PerGroup Readiness) (m : Motion) :
    (lostMotions s r).get m = true ↔ LosesService s r m := by
  have h := inService_iff s m
  have k : motionInService s.sequencer r m = true ↔ MayServe { s with shaper := { s.shaper with readiness := r } } m :=
    inService_iff { s with shaper := { s.shaper with readiness := r } } m
  simp only [lostMotions, PerMotion.get_of, Bool.and_eq_true, Bool.not_eq_true', ← Bool.not_eq_true, h, k,
    decide_eq_true_eq, LosesService]
  tauto

/-- A loss of service is the motions zeroed, the references published again, and the brakes dropped. -/
theorem loseService_eq {ms : PerMotion Bool} (h : ms.any = true) (s : State) :
    loseService ms s = { s with
      shaper := { s.shaper with
        motions := s.shaper.motions.map fun m q => if ms.get m then q.zeroed else q
        references := { s.shaper.references with
          outputs := (s.shaper.motions.map fun m q => if ms.get m then q.zeroed else q).map fun _ q => q.output } }
      gate := { s.gate with brakes := s.gate.brakes.map fun m b => if ms.get m then dropBrake b else b }
      walk := if ms.walk then { s.walk with walkLeft := 0, walkRight := 0 } else s.walk } := by
  unfold loseService
  rw [if_pos h]
  cases hw : ms.walk <;>
    simp [zeroMotions, hw, republish, handWalkOutput, dropBrakes, State.withShaper, State.withGate, State.withWalk,
      outputsOf]

theorem loseService_none {ms : PerMotion Bool} (h : ms.any = false) (s : State) : loseService ms s = s := by
  simp [loseService, h]

theorem loseService_sequencer (ms : PerMotion Bool) (s : State) : (loseService ms s).sequencer = s.sequencer := by
  cases h : ms.any
  · rw [loseService_none h]
  · rw [loseService_eq h]

theorem loseService_alarms (ms : PerMotion Bool) (s : State) : (loseService ms s).alarms = s.alarms := by
  cases h : ms.any
  · rw [loseService_none h]
  · rw [loseService_eq h]

/-- What a readiness report forms is what R67, R68 and R159 name, motion by motion and group by group. -/
theorem formedReadiness_formed (s : State) (r : PerGroup Readiness) : ReadinessFormed s (formedReadiness r s) r := by
  have hl := lostMotions_iff s r
  have hf : ∀ g, (r.map fun g _ => driveFaultPresent (orderPending s.sequencer) r g).get g = true ↔
      r.get g = .fault ∧ (g = .sg ∨ s.sequencer.record.order ≠ .pending) := by
    intro g
    cases g <;> simp [PerGroup.map, PerGroup.get, driveFaultPresent, orderPending]
  unfold formedReadiness
  cases ha : (lostMotions s r).any
  · have hn : ∀ m, ¬LosesService s r m := fun m h => by
      rw [(PerMotion.any_iff _).2 ⟨m, (hl m).2 h⟩] at ha
      cases ha
    rw [loseService_none ha]
    exact ⟨fun m h => absurd h (hn m), fun _ _ => ⟨rfl, rfl⟩, ⟨fun ⟨m, h⟩ => absurd h (hn m), fun _ => rfl⟩,
      ⟨fun h => absurd h (hn _), fun _ => ⟨rfl, rfl⟩⟩, hf, rfl⟩
  · obtain ⟨k, hk⟩ := (PerMotion.any_iff _).1 ha
    simp only [loseService_eq ha]
    refine ⟨fun m h => ?_, fun m h => ?_, ⟨fun _ m => ?_, fun h => absurd ((hl k).1 hk) (h k)⟩, ?_, hf, ?_⟩
    · simp [State.withDriveFault, State.withAlarms, State.withShaper, (hl m).2 h, MotionRecord.zeroed, dropBrake_dropped]
    · simp [State.withDriveFault, State.withAlarms, State.withShaper, mt (hl m).1 h]
    · simp [State.withDriveFault, State.withAlarms, State.withShaper]
    · rw [← hl .walk]
      cases hw : (lostMotions s r).walk <;>
        simp [PerMotion.get, hw, State.withDriveFault, State.withAlarms, State.withShaper]
    · cases hw : (lostMotions s r).walk <;> simp [State.withDriveFault, State.withAlarms, State.withShaper]

/-- A readiness report is the blocks it forms, and exactly the reports of DRIVE-FAULT (R159). -/
theorem takeReadiness_told (r : PerGroup Readiness) (s : State) :
    Told (driveFaultReports s.alarms.driveFault (formedReadiness r s).alarms.driveFault) (formedReadiness r s)
      (takeReadiness r s) := by
  have hq := loseService_sequencer (lostMotions s r) (s.withShaper { s.shaper with readiness := r })
  have ha := loseService_alarms (lostMotions s r) (s.withShaper { s.shaper with readiness := r })
  unfold takeReadiness formedReadiness
  simp only
  generalize loseService _ _ = u at *
  have h := formDriveFaults_told (u.withAlarms { u.alarms with driveReport := r })
  have hs : (u.withAlarms { u.alarms with driveReport := r }).sequencer = s.sequencer := hq
  have hd : (u.withAlarms { u.alarms with driveReport := r }).alarms.driveFault = s.alarms.driveFault := by
    show u.alarms.driveFault = _
    rw [ha]
    rfl
  simp only [hs, hd] at h
  exact h

end Sys2Proof.Machine
end

