-- ==== Sys2Proof/Laws/Lost.lean ====
section
/-! SUPPORT. The WARN conditions present without an entry (R152): what a report makes of them (`unitAfter_lostLaw`), and
that only its own report of it gone ends one (`unitAfter_lost`). -/

namespace Sys2Proof.Machine

/-- The law of the conditions present without an entry, as AlarmListLaw has it. -/
def LostLaw (a : Alarms) : Prop :=
  (∀ p ∈ a.lost, alarmClass p.1 p.2 = .warn ∧ ∀ e ∈ a.list, e.code = p.1 → e.source ≠ p.2) ∧ a.lost.Nodup

/-- A new entry brings no entry of another code and source. -/
theorem absent_append {l : List AlarmEntry} {p : AlarmCode × Source} {n : AlarmEntry}
    (h : ∀ e ∈ l, e.code = p.1 → e.source ≠ p.2) (hn : ¬(n.code = p.1 ∧ n.source = p.2)) :
    ∀ e ∈ l ++ [n], e.code = p.1 → e.source ≠ p.2 := by
  intro e he hc hs
  rcases List.mem_append.1 he with k | k
  · exact h e k hc hs
  · rw [List.mem_singleton.1 k] at hc hs
    exact hn ⟨hc, hs⟩

/-- An entry changed in its place keeps its code and source, so it brings no entry of another. -/
theorem absent_changeEntry {l : List AlarmEntry} {p : AlarmCode × Source} (h : ∀ e ∈ l, e.code = p.1 → e.source ≠ p.2)
    (c : AlarmCode) (src : Source) {f : AlarmEntry → AlarmEntry} (hf : ∀ e, (f e).code = e.code ∧ (f e).source = e.source) :
    ∀ e ∈ changeEntry l c src f, e.code = p.1 → e.source ≠ p.2 := by
  intro e he
  obtain ⟨x, hx, rfl⟩ := List.mem_map.1 he
  have := h x hx
  split <;> simp_all

/-- Dropping or evicting an entry forgets no condition. -/
theorem mem_lose {a : Alarms} {p : AlarmCode × Source} (h : p ∈ a.lost) (e : Option AlarmEntry) : p ∈ (a.lose e).lost := by
  cases e with
  | none => exact h
  | some e =>
    simp only [Alarms.lose, Option.elim, lostAfter]
    split
    · exact h
    · exact List.mem_insert_of_mem h

/-- Entering a condition forgets no other. -/
theorem mem_forget {a : Alarms} {p : AlarmCode × Source} (h : p ∈ a.lost) {c : AlarmCode} {src : Source}
    (hn : ¬(c = p.1 ∧ src = p.2)) : p ∈ (a.forget c src).lost :=
  List.mem_filter.2 ⟨h, by
    simp only [bne_iff_ne, ne_eq]
    rintro rfl
    exact hn ⟨rfl, rfl⟩⟩

/-- A WARN condition present without an entry stays so under every report but its own gone and a momentary raise of it
(R152). -/
theorem unitAfter_lost (arr : Arrangement) {a : Alarms} {p : AlarmCode × Source} (hw : alarmClass p.1 p.2 = .warn)
    (hl : p ∈ a.lost) (hn : ∀ e ∈ a.list, e.code = p.1 → e.source ≠ p.2) {r : Report} (hg : r ≠ .gone p.1 p.2)
    (hm : ∀ d, r ≠ .momentary p.1 p.2 d) :
    p ∈ (unitAfter arr a r).lost ∧ ∀ e ∈ (unitAfter arr a r).list, e.code = p.1 → e.source ≠ p.2 := by
  have hap : ∀ (c : AlarmCode) (src : Source) (d : Option Detail) (st : AlarmState), ¬(c = p.1 ∧ src = p.2) →
      let u := (appendEntry a (newEntry a arr c src d st)).unit
      p ∈ u.lost ∧ ∀ e ∈ u.list, e.code = p.1 → e.source ≠ p.2 := by
    intro c src d st hne
    unfold appendEntry
    split
    · exact ⟨mem_forget hl hne, absent_append hn hne⟩
    · split
      · exact ⟨mem_lose hl _, hn⟩
      · exact ⟨mem_lose hl _, absent_append (fun e he => hn e (List.mem_of_mem_eraseP he)) hne⟩
  have hch : ∀ (c : AlarmCode) (src : Source) (f : AlarmEntry → AlarmEntry),
      (∀ e, (f e).code = e.code ∧ (f e).source = e.source) →
      p ∈ (a.withList (changeEntry a.list c src f)).lost ∧
        ∀ e ∈ (a.withList (changeEntry a.list c src f)).list, e.code = p.1 → e.source ≠ p.2 :=
    fun c src f hf => ⟨hl, absent_changeEntry hn c src hf⟩
  rcases r with ⟨c, src, d⟩ | ⟨c, src, d⟩ | ⟨c, src⟩ <;> unfold unitAfter
  · dsimp only
    unfold raiseHeld
    split
    · split
      · exact ⟨hl, hn⟩
      · next k =>
        refine hap _ _ _ _ ?_
        rintro ⟨rfl, rfl⟩
        exact k (by simp [Alarms.hasLost, hw, hl])
    · split
      · exact hch _ _ _ fun e => ⟨rfl, rfl⟩
      · split
        · exact ⟨hl, hn⟩
        · exact hch _ _ _ fun e => ⟨rfl, rfl⟩
  · dsimp only
    unfold raiseMomentary
    split
    · refine hap _ _ _ _ ?_
      rintro ⟨rfl, rfl⟩
      exact hm d rfl
    · exact hch _ _ _ fun e => ⟨rfl, rfl⟩
  · dsimp only
    unfold conditionGone
    split
    · refine ⟨mem_forget hl ?_, hn⟩
      rintro ⟨rfl, rfl⟩
      exact hg rfl
    · split
      · exact hch _ _ _ fun e => ⟨rfl, rfl⟩
      · exact ⟨hl, fun e he => hn e (List.mem_of_mem_filter he)⟩
      · exact ⟨hl, hn⟩

/-- An entry of a list without repeats is not in it once the oldest WARN entry, which it is, is evicted. -/
theorem absent_evictWarn {l : List AlarmEntry} {w : AlarmEntry} (h : oldestWarn l = some w)
    (hd : (l.map fun e => (e.code, e.source)).Nodup) : ∀ e ∈ evictWarn l, e.code = w.code → e.source ≠ w.source := by
  obtain ⟨hc, l₁, l₂, rfl, h₁⟩ := List.find?_eq_some_iff_append.1 h
  rw [evictWarn_append_cons (by simpa using hc) (by simpa using h₁)]
  simp only [List.map_append, List.map_cons, List.nodup_append, List.nodup_cons] at hd
  intro e he k k'
  have hk : (e.code, e.source) = (w.code, w.source) := Prod.ext k k'
  rcases List.mem_append.1 he with m | m
  · exact hd.2.2 _ (List.mem_map.2 ⟨e, m, rfl⟩) _ (.head _) hk
  · exact hd.2.1.1 (List.mem_map.2 ⟨e, m, hk⟩)

/-- The law once an entry is dropped or evicted, in the unit then standing: its condition joins the others where it is
present. -/
theorem LostLaw.lose {a b : Alarms} (hd : a.lost.Nodup)
    (h : ∀ p ∈ a.lost, alarmClass p.1 p.2 = .warn ∧ ∀ e ∈ b.list, e.code = p.1 → e.source ≠ p.2) {e : Option AlarmEntry}
    (hb : b.lost = (a.lose e).lost)
    (he : ∀ w, e = some w → alarmClass w.code w.source = .warn ∧ ∀ x ∈ b.list, x.code = w.code → x.source ≠ w.source) :
    LostLaw b := by
  unfold LostLaw
  rw [hb]
  cases e with
  | none => exact ⟨h, hd⟩
  | some w =>
    simp only [Alarms.lose, Option.elim, lostAfter]
    split
    · exact ⟨h, hd⟩
    · refine ⟨fun p hp => ?_, hd.insert⟩
      rcases List.mem_insert_iff.1 hp with rfl | k
      · exact he w rfl
      · exact h p k

/-- Every report keeps the law, in a list of the classes of the code table and without repeats. -/
theorem unitAfter_lostLaw (arr : Arrangement) {a : Alarms} (hc : ∀ e ∈ a.list, e.cls = alarmClass e.code e.source)
    (hd : (a.list.map fun e => (e.code, e.source)).Nodup) (h : LostLaw a) (r : Report) : LostLaw (unitAfter arr a r) := by
  obtain ⟨h1, h2⟩ := h
  have hap : ∀ (c : AlarmCode) (src : Source) (d : Option Detail) (st : AlarmState), findEntry a.list c src = none →
      LostLaw (appendEntry a (newEntry a arr c src d st)).unit := by
    intro c src d st hn
    unfold appendEntry
    split
    · refine ⟨fun p hp => ?_, h2.filter _⟩
      obtain ⟨hp, hne⟩ := List.mem_filter.1 hp
      refine ⟨(h1 p hp).1, absent_append (h1 p hp).2 ?_⟩
      rintro ⟨k, k'⟩
      exact absurd (Prod.ext k.symm k'.symm) (by simpa using hne)
    · split
      · next hw => exact LostLaw.lose h2 h1 (e := some (newEntry a arr c src d st)) rfl (by
          rintro w ⟨⟩
          exact ⟨hw, (findEntry_eq_none _ _ _).1 hn⟩)
      · next hw =>
        have hne : ∀ p : AlarmCode × Source, alarmClass p.1 p.2 = .warn → ¬(c = p.1 ∧ src = p.2) := by
          rintro p k ⟨rfl, rfl⟩
          exact hw k
        refine LostLaw.lose h2 (e := oldestWarn a.list) (fun p hp => ⟨(h1 p hp).1, absent_append
          (fun e he => (h1 p hp).2 e (List.mem_of_mem_eraseP he)) (hne p (h1 p hp).1)⟩) rfl fun w hw' => ?_
        have hcw : alarmClass w.code w.source = .warn := by
          rw [← hc w (List.mem_of_find?_eq_some hw')]
          simpa using List.find?_some hw'
        exact ⟨hcw, absent_append (p := (w.code, w.source)) (absent_evictWarn hw' hd) (hne _ hcw)⟩
  have hch : ∀ (c : AlarmCode) (src : Source) (f : AlarmEntry → AlarmEntry),
      (∀ e, (f e).code = e.code ∧ (f e).source = e.source) → LostLaw (a.withList (changeEntry a.list c src f)) :=
    fun c src f hf => ⟨fun p hp => ⟨(h1 p hp).1, absent_changeEntry (h1 p hp).2 c src hf⟩, h2⟩
  rcases r with ⟨c, src, d⟩ | ⟨c, src, d⟩ | ⟨c, src⟩ <;> unfold unitAfter
  · dsimp only
    unfold raiseHeld
    split
    · next hf =>
      split
      · exact ⟨h1, h2⟩
      · exact hap _ _ _ _ hf
    · split
      · exact hch _ _ _ fun e => ⟨rfl, rfl⟩
      · split
        · exact ⟨h1, h2⟩
        · exact hch _ _ _ fun e => ⟨rfl, rfl⟩
  · dsimp only
    unfold raiseMomentary
    split
    · next hf => exact hap _ _ _ _ hf
    · exact hch _ _ _ fun e => ⟨rfl, rfl⟩
  · dsimp only
    unfold conditionGone
    split
    · exact ⟨fun p hp => h1 p (List.mem_of_mem_filter hp), h2.filter _⟩
    · split
      · exact hch _ _ _ fun e => ⟨rfl, rfl⟩
      · exact ⟨fun p hp => ⟨(h1 p hp).1, fun e he => (h1 p hp).2 e (List.mem_of_mem_filter he)⟩, h2⟩
      · exact ⟨h1, h2⟩

end Sys2Proof.Machine
end

