-- ==== Sys2Proof/Laws/PerInstr.lean ====
section
/-! SUPPORT. What is said of every command as syntax, one lemma for each: a station request's command fits a frame. -/

namespace Sys2Proof.Laws.Frames

open Sys2Proof.Machine

/-- The request of a well-formed command has a payload that a frame allows (R166), and a kind of the request catalogue
unless it is the command that says it has none (R170). -/
def Statement (i : Instr) : Prop :=
  i.WellFormed → ∀ (p : Port) (r : Request), requestOf i = some (p, r) →
    (payloadOf r).length ≤ Config.maxPayload ∧ ((∀ kind, r ≠ .unknownKind kind) → isRequestKind (kindOf r) = true)

/-- A command that is no station request says nothing of a frame. -/
theorem of_none {i : Instr} (h : requestOf i = none) : Statement i := by
  intro _ p r hr
  simp [h] at hr

/-- A station request's command, by its one request. -/
theorem of_some {i : Instr} {q : Port} {x : Request} (h : requestOf i = some (q, x))
    (hl : i.WellFormed → (payloadOf x).length ≤ Config.maxPayload)
    (hk : (∀ kind, x ≠ .unknownKind kind) → isRequestKind (kindOf x) = true) : Statement i := by
  intro hw p r hr
  obtain ⟨rfl, rfl⟩ := Prod.mk.inj (Option.some.inj (h.symm.trans hr))
  exact ⟨hl hw, hk⟩

/-- The payload of an EDIT-ZONE is within a frame, whatever its entry (R189). -/
theorem editZone_length (position : Byte) (entry : ZoneBody) (h : entry.wellFormed = true) :
    (payloadOf (.editZone position entry)).length ≤ Config.maxPayload := by
  match entry with
  | .unused => simp [payloadOf, Config.maxPayload]
  | .keepOut b m => simp [payloadOf, be16, Config.maxPayload]
  | .slow b presence c => simp [payloadOf, be16, Config.maxPayload]
  | .warnOnly b => simp [payloadOf, be16, Config.maxPayload]
  | .misfit [] => simp [payloadOf, Config.maxPayload]
  | .misfit (k :: rest) =>
    simp only [ZoneBody.wellFormed, Bool.and_eq_true, decide_eq_true_eq] at h
    simpa [payloadOf, Nat.succ_le_iff] using h.2

/-- The payload of a CALIBRATION write is within a frame in either shape (R189). -/
theorem writeCalibration_length (channel : Byte) (body : CalBody) :
    (payloadOf (.writeCalibration channel body)).length ≤ Config.maxPayload := by
  cases body <;> simp [payloadOf, be16, be32, Config.maxPayload]

/-! ### The commands, in the order of the table -/

theorem powerOn : Statement (Instr.powerOn) := of_none rfl
theorem powerLoss : Statement (Instr.powerLoss) := of_none rfl
theorem externalReset : Statement (Instr.externalReset) := of_none rfl
theorem settingsLoadEnd : Statement (Instr.settingsLoadEnd) := of_none rfl
theorem encoderEdge (encoder : EncoderId) (forward : Bool) : Statement (Instr.encoderEdge encoder forward) := of_none rfl
theorem scanCompletion (conversions : PerAnalog Sample) : Statement (Instr.scanCompletion conversions) := of_none rfl
theorem periodExpiry : Statement (Instr.periodExpiry) := of_none rfl
theorem feedbackInputEdge (motion : Motion) : Statement (Instr.feedbackInputEdge motion) := of_none rfl
theorem feedbackChange (motion : Motion) : Statement (Instr.feedbackChange motion) := of_none rfl
theorem holdTimerExpiry : Statement (Instr.holdTimerExpiry) := of_none rfl
theorem transferTimerExpiry : Statement (Instr.transferTimerExpiry) := of_none rfl
theorem secondsTick : Statement (Instr.secondsTick) := of_none rfl
theorem storeWriteCompletion : Statement (Instr.storeWriteCompletion) := of_none rfl
theorem commitRecordWriteCompletion : Statement (Instr.commitRecordWriteCompletion) := of_none rfl
theorem commitCompletion : Statement (Instr.commitCompletion) := of_none rfl
theorem gapTimerExpiry (port : Port) : Statement (Instr.gapTimerExpiry port) := of_none rfl
theorem badFrameDiscard (port : Port) : Statement (Instr.badFrameDiscard port) := of_none rfl
theorem frameWhileHeldDiscard (port : Port) : Statement (Instr.frameWhileHeldDiscard port) := of_none rfl
theorem responseStart (port : Port) : Statement (Instr.responseStart port) := of_none rfl
theorem responseComplete (port : Port) : Statement (Instr.responseComplete port) := of_none rfl
theorem unknownKindRequest (port : Port) (kind : Byte) : Statement (Instr.unknownKindRequest port kind) :=
  of_some rfl (fun _ => Nat.zero_le _) (fun h => absurd rfl (h kind))
theorem readStatus (port : Port) : Statement (Instr.readStatus port) :=
  of_some rfl (fun _ => Nat.le_of_ble_eq_true rfl) (fun _ => rfl)
theorem motionRequest (port : Port) (mark : Byte) (refs : PerMotion Half) :
    Statement (Instr.motionRequest port mark refs) :=
  of_some rfl (fun _ => Nat.le_of_ble_eq_true rfl) (fun _ => rfl)
theorem modeRequest (port : Port) (mode : Byte) : Statement (Instr.modeRequest port mode) :=
  of_some rfl (fun _ => Nat.le_of_ble_eq_true rfl) (fun _ => rfl)
theorem stopAll (port : Port) : Statement (Instr.stopAll port) :=
  of_some rfl (fun _ => Nat.le_of_ble_eq_true rfl) (fun _ => rfl)
theorem ackAlarm (port : Port) (code : Byte) (source : Byte) : Statement (Instr.ackAlarm port code source) :=
  of_some rfl (fun _ => Nat.le_of_ble_eq_true rfl) (fun _ => rfl)
theorem readAlarms (port : Port) (start : Byte) (count : Byte) :
    Statement (Instr.readAlarms port start count) :=
  of_some rfl (fun _ => Nat.le_of_ble_eq_true rfl) (fun _ => rfl)
theorem clearOverrun (port : Port) : Statement (Instr.clearOverrun port) :=
  of_some rfl (fun _ => Nat.le_of_ble_eq_true rfl) (fun _ => rfl)
theorem readMeasurements (port : Port) : Statement (Instr.readMeasurements port) :=
  of_some rfl (fun _ => Nat.le_of_ble_eq_true rfl) (fun _ => rfl)
theorem readReferences (port : Port) : Statement (Instr.readReferences port) :=
  of_some rfl (fun _ => Nat.le_of_ble_eq_true rfl) (fun _ => rfl)
theorem transferReport (port : Port) (mark : Byte) (result : Byte) :
    Statement (Instr.transferReport port mark result) :=
  of_some rfl (fun _ => Nat.le_of_ble_eq_true rfl) (fun _ => rfl)
theorem driveState (port : Port) (values : PerGroup Byte) : Statement (Instr.driveState port values) :=
  of_some rfl (fun _ => Nat.le_of_ble_eq_true rfl) (fun _ => rfl)
theorem readSetting (port : Port) (group : Byte) (which : Byte) :
    Statement (Instr.readSetting port group which) :=
  of_some rfl (fun _ => Nat.le_of_ble_eq_true rfl) (fun _ => rfl)
theorem writeSettingProfile (port : Port) (profile : Byte) (presence : Byte) (fields : ProfileFields Half) :
    Statement (Instr.writeSettingProfile port profile presence fields) :=
  of_some rfl (fun _ => Nat.le_of_ble_eq_true rfl) (fun _ => rfl)
theorem writeSettingAssociation (port : Port) (names : PerMotion Byte) :
    Statement (Instr.writeSettingAssociation port names) :=
  of_some rfl (fun _ => Nat.le_of_ble_eq_true rfl) (fun _ => rfl)
theorem writeSettingCalibration (port : Port) (channel : Byte) (body : CalBody) :
    Statement (Instr.writeSettingCalibration port channel body) :=
  of_some rfl (fun _ => writeCalibration_length channel body) (fun _ => rfl)
theorem writeSettingSupplyBands (port : Port) (t1 : Half) (t2 : Half) (t3 : Half) :
    Statement (Instr.writeSettingSupplyBands port t1 t2 t3) :=
  of_some rfl (fun _ => Nat.le_of_ble_eq_true rfl) (fun _ => rfl)
theorem writeSettingBoomBands (port : Port) (g : Half) (h : Half) (o : Half) (heavyCap : Half) :
    Statement (Instr.writeSettingBoomBands port g h o heavyCap) :=
  of_some rfl (fun _ => Nat.le_of_ble_eq_true rfl) (fun _ => rfl)
theorem writeSettingCurrentTrip (port : Port) (levels : PerGroup Half) (counts : PerGroup Byte) :
    Statement (Instr.writeSettingCurrentTrip port levels counts) :=
  of_some rfl (fun _ => Nat.le_of_ble_eq_true rfl) (fun _ => rfl)
theorem writeSettingSharing (port : Port) (body : SharingBody) :
    Statement (Instr.writeSettingSharing port body) :=
  of_some rfl (fun _ => Nat.le_of_ble_eq_true rfl) (fun _ => rfl)
theorem writeSettingWalk (port : Port) (restFrom : Half) (restTo : Half) (gain : Byte) (trip : Byte) :
    Statement (Instr.writeSettingWalk port restFrom restTo gain trip) :=
  of_some rfl (fun _ => Nat.le_of_ble_eq_true rfl) (fun _ => rfl)
theorem writeSettingGate (port : Port) (confirm : Byte) : Statement (Instr.writeSettingGate port confirm) :=
  of_some rfl (fun _ => Nat.le_of_ble_eq_true rfl) (fun _ => rfl)
theorem writeSettingSequencer (port : Port) (timeout : Byte) :
    Statement (Instr.writeSettingSequencer port timeout) :=
  of_some rfl (fun _ => Nat.le_of_ble_eq_true rfl) (fun _ => rfl)
theorem zeroChannel (port : Port) (channel : Byte) (value : Word) :
    Statement (Instr.zeroChannel port channel value) :=
  of_some rfl (fun _ => Nat.le_of_ble_eq_true rfl) (fun _ => rfl)
theorem clearMarks (port : Port) : Statement (Instr.clearMarks port) :=
  of_some rfl (fun _ => Nat.le_of_ble_eq_true rfl) (fun _ => rfl)
theorem readZone (port : Port) (table : Byte) (position : Byte) :
    Statement (Instr.readZone port table position) :=
  of_some rfl (fun _ => Nat.le_of_ble_eq_true rfl) (fun _ => rfl)
theorem editBegin (port : Port) : Statement (Instr.editBegin port) :=
  of_some rfl (fun _ => Nat.le_of_ble_eq_true rfl) (fun _ => rfl)
theorem editZone (port : Port) (position : Byte) (entry : ZoneBody) :
    Statement (Instr.editZone port position entry) :=
  of_some rfl (editZone_length position entry) (fun _ => rfl)
theorem editDiscard (port : Port) : Statement (Instr.editDiscard port) :=
  of_some rfl (fun _ => Nat.le_of_ble_eq_true rfl) (fun _ => rfl)
theorem editCommit (port : Port) : Statement (Instr.editCommit port) :=
  of_some rfl (fun _ => Nat.le_of_ble_eq_true rfl) (fun _ => rfl)
theorem restart (port : Port) : Statement (Instr.restart port) :=
  of_some rfl (fun _ => Nat.le_of_ble_eq_true rfl) (fun _ => rfl)
theorem characterReceived (port : Port) (char : Byte) : Statement (Instr.characterReceived port char) := of_none rfl

end Sys2Proof.Laws.Frames
end

