-- ==== Sys2Proof/Tests/Slice0.lean ====
section
/-! SUPPORT. Tests. The first part checks the model against values worked in the manual's own examples and rules. The
second shows, for each statement of Certificates/Slice0/Obligations.lean that has hypotheses, a concrete state and
operands that meet them together, at boundary values where clauses meet. -/

namespace Sys2Proof.Tests

open Sys2Proof.Machine

/-! ### Well-formed commands -/

/-- UNKNOWN_KIND_REQUEST carries no kind of the catalogue: 15h is its last (R188). -/
theorem test_unknown_kind_of_the_catalogue_is_ill_formed :
    (Instr.unknownKindRequest .a 0x15).wellFormed = false ∧ (Instr.unknownKindRequest .a 0x01).wellFormed = false ∧
      (Instr.unknownKindRequest .a 0x16).WellFormed ∧ (Instr.unknownKindRequest .a 0x00).WellFormed := by decide

/-- A misfit is of no length its kind requires (R189): a KEEP-OUT of 21 bytes and the unused entry of 1 are none. -/
theorem test_misfit_of_its_kinds_length_is_ill_formed :
    (Instr.editZone .c 0 (.misfit [0])).wellFormed = false ∧
      (Instr.editZone .c 0 (.misfit (1 :: List.replicate 20 0))).wellFormed = false ∧
      (Instr.editZone .c 0 (.misfit (1 :: List.replicate 12 0))).WellFormed := by decide

/-- An EDIT-ZONE is no longer than a frame allows: 96 bytes with its position (R166). -/
theorem test_entry_longer_than_a_frame_is_ill_formed :
    (Instr.editZone .c 0 (.misfit (9 :: List.replicate 95 0))).wellFormed = false ∧
      (Instr.editZone .c 0 (.misfit (9 :: List.replicate 94 0))).WellFormed := by decide

/-- No word of the table spells a command, and the state stands. -/
theorem test_no_word_spells_a_command : decodeTableWord 16 0xA501 = none ∧
    State.reset.withFetchWord 16 0xA501 = State.reset := ⟨rfl, rfl⟩

/-! ### The line (R166, R188, R189) -/

/-- The check word is the CRC-16 that gives 29B1h for the characters 1 to 9 (R166's parameters). -/
theorem test_check_word : crc16 [0x31, 0x32, 0x33, 0x34, 0x35, 0x36, 0x37, 0x38, 0x39] = 0x29B1 := by
  decide +kernel

/-- MOTION-REQUEST written out: mark 1, references 1, −1, 256 and −1000, most significant byte first. -/
theorem test_motion_request_payload :
    parseRequest 0x02 [0x01, 0x00, 0x01, 0xFF, 0xFF, 0x01, 0x00, 0xFC, 0x18] =
      .motionRequest 1 ⟨BitVec.ofInt 16 1, BitVec.ofInt 16 (-1), 256, BitVec.ofInt 16 (-1000)⟩ := by decide

/-- WRITE-SETTING of group GATE with confirm time 40, and ZERO-CHANNEL of channel 3 with value −45. -/
theorem test_setting_payloads :
    parseRequest 0x0D [0x08, 0x28] = .writeGate 40 ∧
      parseRequest 0x0E [0x03, 0xFF, 0xFF, 0xFF, 0xD3] = .zeroChannel 3 (BitVec.ofInt 32 (-45)) := by decide

/-- EDIT-ZONE of 14 bytes with kind 3 is a WARN-ONLY zone; with kind 1, a KEEP-OUT without its margins, a bad length. -/
theorem test_zone_payloads :
    parseRequest 0x12 [0x07, 0x03, 0x0B, 0xB8, 0x0C, 0xE4, 0, 0, 0x75, 0x30, 0, 0, 0x1B, 0x58] =
        .editZone 7 (.warnOnly ⟨3000, 3300, 0, 30000, 0, 7000⟩) ∧
      parseRequest 0x12 [0x07, 0x01, 0x0B, 0xB8, 0x0C, 0xE4, 0, 0, 0x75, 0x30, 0, 0, 0x1B, 0x58] =
        .badLength 0x12 [0x07, 0x01, 0x0B, 0xB8, 0x0C, 0xE4, 0, 0, 0x75, 0x30, 0, 0, 0x1B, 0x58] := by decide

/-! ### Measurement (01) -/

/-- Payout with an uneven scale: count 500000, scale 333, value 12000 gives offset 463964, and 11999 then 12999. -/
theorem test_zero_payout :
    zeroOffset .dragPayout ⟨0, 333, 2000⟩ 500000 12000 = 463964 ∧
      encoderScaled .dragPayout ⟨463964, 333, 2000⟩ 500000 = 11999 ∧
      encoderScaled .dragPayout ⟨463964, 333, 2000⟩ 503003 = 12999 := by decide

/-- Swing: count −7250, value 1800 gives offset −25250, and the angle goes through 0 to 3500. -/
theorem test_zero_swing :
    zeroOffset .swingAngle ⟨0, 36000, 2000⟩ (BitVec.ofInt 32 (-7250)) 1800 = BitVec.ofInt 32 (-25250) ∧
      encoderScaled .swingAngle ⟨BitVec.ofInt 32 (-25250), 36000, 2000⟩ (BitVec.ofInt 32 (-7250)) = 1800 ∧
      encoderScaled .swingAngle ⟨BitVec.ofInt 32 (-25250), 36000, 2000⟩ (BitVec.ofInt 32 (-26250)) = 3500 := by decide

/-- Cam position below zero: 450 counts under the offset give −45 and 315 degrees, 455 give −46 and 314. -/
theorem test_cam_below_zero :
    encoderScaled .camLeft ⟨450, 3600, 2000⟩ 0 = -45 ∧ camAngle (-45) = 315 ∧
      encoderScaled .camLeft ⟨455, 3600, 2000⟩ 0 = -46 ∧ camAngle (-46) = 314 := by decide

/-- A cam in FAULT publishes its last good position, 10, and the angle of this scan's scaled position −45 (R7, R8). -/
theorem test_cam_angle_in_fault :
    let r : EncoderRecord := { State.reset.scanner.encoders.camLeft with
      prev := 100000, lastGood := 10, cal := ⟨450, 3600, 2000⟩ }
    let s : State := { State.reset with scanner := { State.reset.scanner with
      encoders := { State.reset.scanner.encoders with camLeft := r } } }
    ∃ t snap, exec (.scanCompletion ⟨0, 0, 0, 0, 0⟩) s = .next t ∧ t.scanner.snapshot = some snap ∧
      snap.encoders.camLeft.state = .fault ∧ snap.encoders.camLeft.value = 10 ∧ snap.camLeftAngle = 315 :=
  ⟨_, _, rfl, rfl, rfl, rfl, rfl⟩

/-- An edge count wraps at 32 bits. -/
theorem test_edge_wraps :
    ∃ t, exec (.encoderEdge .camLeft false) State.reset = .next t ∧ t.scanner.encoders.camLeft.count = 0xFFFFFFFF :=
  ⟨_, rfl, rfl⟩

/-! ### Bands (02) -/

/-- The factory thresholds 920, 850 and 600 at their edges. -/
theorem test_supply_bands :
    [920, 919, 850, 849, 600, 599].map (classifySupply Config.factorySupply) =
      [.normal, .low, .low, .sag, .sag, .lost] := by decide

/-- An integrator one below its trip count trips on the next excess and starts again from 0; below the level it
decays. -/
theorem test_integrator :
    stepIntegrator false 1800 60 (-1801) 59 = (0, true) ∧ stepIntegrator false 1800 60 1800 59 = (58, false) ∧
      stepIntegrator true 1800 60 1801 59 = (0, false) := by decide

/-! ### The envelope (03) -/

/-- A sector from 3400 to 200 runs through 0. -/
theorem test_sector :
    [3399, 3400, 3599, 0, 200, 201].map (inSector ⟨3400, 200, 0, 30000, 0, 8000⟩) =
      [false, true, true, true, true, false] := by decide

/-- Margin 20 and band 300 with creep 60: the worked distances, and the margin itself. -/
theorem test_approach_cap :
    [20, 21, 200, 319, 320].map (approachCap 60 20 300) = [0, 60, 600, 996, 1000] := by decide

/-- The worked approach along the drag rope: 13400, 13320, 12500 and 11500. -/
theorem test_drag_approach :
    [13400, 13320, 12500, 11500].map (fun g =>
        zoneCap ⟨60, 60, 60⟩ ⟨1800, 9000, g⟩ .drag .negative
          (.keepOut ⟨1500, 2100, 0, 30000, 14000, 30000⟩ ⟨0, 1, 300, 2000⟩)) =
      [some 150, some 190, some 600, some 1000] := by decide

/-! ### Shaping (05, 06, 08) -/

/-- The periods k, k+4 and k+5 of the worked swing reversal. -/
theorem test_swing_reversal :
    let p : Profile := Config.factoryCommon
    rampStage p 200 (reversalStage 200 (-300) false 0) = ⟨0, 160, true, 0⟩ ∧
      rampStage p 40 (reversalStage 40 (-300) true 0) = ⟨0, 0, false, 4⟩ ∧
      rampStage p 0 (reversalStage 0 (-300) false 4) = ⟨0, 0, false, 3⟩ ∧
      rampStage p 0 (reversalStage 0 (-300) false 0) = ⟨-300, -20, false, 0⟩ := by decide

/-- The worked trims: forward 400 and backward −300 with the left cam 12 ahead and gain 10. -/
theorem test_trim :
    walkLeftOf 12 400 10 = 280 ∧ walkRightOf 12 400 10 = 400 ∧ walkLeftOf 12 (-300) 10 = -300 ∧
      walkRightOf 12 (-300) 10 = -180 := by decide

/-- A brake RELEASING at release delay 8: RELEASED at notification k + 8 and not at k + 7. -/
theorem test_release_delay :
    let x : BrakeInput := ⟨⟨500, 0, false, .common⟩, 8, 400, 40, false⟩
    (notifyBrake x ⟨.releasing, 6, 0, false, true, false, false⟩).brake.state = .releasing ∧
      (notifyBrake x ⟨.releasing, 7, 0, false, true, false, false⟩).brake.state = .released := by decide

/-! ### Start-up (11) -/

/-- Released on a memory with its factory contents, the part is in its state after reset; and that state is settled. -/
theorem test_release_of_the_factory_memory :
    exec .settingsLoadEnd { State.reset with power := .loading } = .next State.reset ∧
      settle State.reset = State.reset := by
  have h : ({ State.reset with power := .loading } : State).memory.load = Memory.factory.load := rfl
  refine ⟨?_, rfl⟩
  show Host.Outcome.next _ = _
  simp only [release, loadedBlocks, h, Memory.factory_load]
  rfl

/-- The factory PROFILE-A record at the position of PROFILE-B fails its check, and at its own passes it (R181). -/
theorem test_record_at_anothers_position_fails :
    readRecord .profileB (sealRecord .profileA Config.factoryPartial) = none ∧
      readRecord .profileA (sealRecord .profileA Config.factoryPartial) = some Config.factoryPartial := by
  decide +kernel

/-- A RESTART before the first notification after a reset leaves that notification's report owed (R112). -/
theorem test_restart_before_the_first_notification :
    ∃ t, exec (.restart .c) State.reset = .next t ∧ State.reset.gate.reportDue = .reset ∧ t.gate.reportDue = .reset :=
  ⟨_, rfl, rfl, rfl⟩

/-! ### Requests (10, 12) -/

/-- READ-SETTING of SEQUENCER with a second byte of 1 is BAD-ARGUMENT, and with 0 its working value, 8 (R188). -/
theorem test_read_setting_second_byte :
    (∃ t, exec (.readSetting .c 9 1) State.reset = .next t ∧
        t.ports.links.c.held.map (fun h => (h.response.result, h.response.data)) = some (.badArgument, [])) ∧
      ∃ t, exec (.readSetting .c 9 0) State.reset = .next t ∧
        t.ports.links.c.held.map (fun h => (h.response.result, h.response.data)) =
          some (.accepted, [nat8 Config.factoryTimeout]) :=
  ⟨⟨_, rfl, rfl⟩, ⟨_, rfl, rfl⟩⟩

/-! ### States the statements' hypotheses are met in -/

/-- After reset, with the store as given. -/
def stored (x : Store) : State := { State.reset with store := x }

/-- After reset, in a mode. -/
def inMode (m : Mode) : State := { State.reset with sequencer := { State.reset.sequencer with mode := m } }

/-- After reset, with the edit state and the store as given. -/
def editing (e : EditState) (x : Store) : State :=
  { State.reset with envelope := { State.reset.envelope with edit := e }, store := x }

/-- Loading, on a memory. -/
def loading (mem : Memory) : State := { State.reset with power := .loading, memory := mem }

/-- After reset, with Port A's own state as given. -/
def stationA (a : PortA) : State := { State.reset with ports := { State.reset.ports with a := a } }

/-- After reset, with a sequencer as given. -/
def sequenced (q : Sequencer) : State := { State.reset with sequencer := q }

/-- After reset, with an alarm list as given. -/
def listed (l : List AlarmEntry) : State := { State.reset with alarms := { State.reset.alarms with list := l } }

/-- Every supply and boom band valid: NORMAL and EMPTY. -/
def bandsGood : Bands :=
  { State.reset.bands with
    supply := ⟨.normal, true, some .normal, 255⟩, boom := ⟨.empty, true, some .empty, 255⟩, reportDue := false }

/-- In DIG: HOIST in service with its permit, its brake RELEASED, and a fresh request of −300 at output −200. -/
def hoisting : State :=
  { State.reset with
    bands := bandsGood
    shaper := { State.reset.shaper with
      readiness := ⟨.ready, .ready, .ready⟩
      motions := { State.reset.shaper.motions with
        hoist := { State.reset.shaper.motions.hoist with request := -300, permit := true, output := -200 } } }
    gate := { State.reset.gate with
      reportDue := .none
      brakes := { State.reset.gate.brakes with hoist := ⟨.released, 0, 0, false, true, false, false⟩ } }
    sequencer := { State.reset.sequencer with
      mode := .dig, record := { State.reset.sequencer.record with arrangement := .dig } }
    ports := { State.reset.ports with a := ⟨.fresh, some true, true, false, false⟩ } }

/-- A part with the alarms of reset keeps the laws of the list. -/
theorem quiet_list {s : State} (h : s.alarms = State.reset.alarms) : AlarmListLaw s := by
  unfold AlarmListLaw
  rw [h]
  refine ⟨by simp [State.reset], by decide, by decide, ?_, ?_, by simp [State.reset]⟩ <;>
    (intro m; cases m <;> simp [State.reset, PerMotion.get])

/-! ### The statements' hypotheses -/

theorem witness_StepTakesTheFrontCommand : State.reset.pending = [] := rfl

theorem witness_SupplyAndResetHoldThePart :
    State.reset.power ≠ .off ∧ ({ State.reset with power := .off } : State).power = .off ∧
      (stored (.writing (.gate 40))).power = .running ∧ (stored (.writing (.gate 40))).store = .writing (.gate 40) ∧
      (stored (.committing (.zone 23 none) [])).store = .committing (.zone 23 none) [] := by decide

theorem witness_CompletedRecordIsWritten (w : RecordWrite) (hw : w = .gate 4 ∨ w = .zone 23 none) :
    (stored (.writing w)).power = .running ∧ (stored (.writing w)).memory.zones.length = 24 ∧
      (∀ i entry, w = .zone i entry → i < 24) ∧ (stored (.writing w)).store = .writing w ∧
      (stored (.committing w [.zoneHeader ⟨1, false⟩])).store = .committing w ([.zoneHeader ⟨1, false⟩]) ∧
      (RecordWrite.gate 20).name.number < 46 ∧ (RecordWrite.sequencer 20).name.number < 46 ∧
      (RecordWrite.gate 20).name.number ≠ (RecordWrite.sequencer 20).name.number ∧
      (RecordWrite.gate 20).fieldBytes = (RecordWrite.sequencer 20).fieldBytes ∧
      (RecordWrite.zoneHeader ⟨0, false⟩).name.number = 45 := by
  refine ⟨rfl, by simp [stored, State.reset, Memory.factory, Config.zonePositions], ?_, rfl, rfl, by decide, by decide,
    by decide, rfl, rfl⟩
  rintro i entry rfl
  rcases hw with h | h <;> cases h
  decide

/-- Every store write can be in flight; and of an ASSOCIATION write every case comes about at some motion. -/
theorem witness_WrittenSettingsTakeEffect :
    (∀ w, (stored (.writing w)).power = .running ∧ (stored (.writing w)).store = .writing w) ∧
      (hoisting.shaper.motions.get .drag).association = .common ∧ (hoisting.shaper.motions.get .drag).output = 0 ∧
      (hoisting.shaper.motions.get .hoist).output ≠ 0 ∧ State.reset.scanner.encoders.camLeft.state ≠ .valid ∧
      (zeroEncoder .camLeft 0 State.reset.scanner.encoders.camLeft).state = .valid :=
  ⟨fun _ => ⟨rfl, rfl⟩, by decide⟩

theorem witness_ReleaseTakesWorkingCopies : (loading Memory.factory).power = .loading := rfl

/-- A memory with ZONE-0 and its header spoiled, one whose header's marker is set, and one with a record failing. -/
theorem witness_ReleaseFindsFailedRecords :
    (loading Memory.factory).power = .loading ∧ Memory.factory.load.zones[23]? = some (some none) ∧
      (Memory.factory.spoil (.zone 0 none)).load.zones[0]? = some none ∧
      (Memory.factory.spoil (.zoneHeader ⟨0, false⟩)).load.header = none ∧
      (Memory.factory.write (.zoneHeader ⟨7, true⟩)).load.header = some ⟨7, true⟩ ∧
      (failingSettings Memory.factory).getLast? = none ∧
      (failingSettings (Memory.factory.spoil (.gate 4))).getLast? = some .gate := by
  refine ⟨rfl, by rw [Memory.factory_load]; rfl, ?_, ?_, ?_, ?_, ?_⟩
  · rw [Memory.load_zones]
    rfl
  · simp [Memory.spoil]
  · simp [Memory.write]
  · simp [failingSettings, SettingsRecord.all, Memory.recordAt, Memory.factory_load, PerEncoder.map, PerEncoder.get,
      PerAnalog.map, PerAnalog.get]
  · simp [failingSettings, SettingsRecord.all, Memory.recordAt_spoil, RecordWrite.name]
    simp [Memory.recordAt, Memory.factory_load, PerEncoder.map, PerAnalog.map]

theorem witness_EdgesSecondsAndMarks :
    State.reset.power = .running ∧ State.reset.alarms.seconds ≤ 4294967295 ∧
      ({ State.reset.alarms with seconds := 4294967295 } : Alarms).seconds = 4294967295 ∧ Port.a ≠ .b ∧
      PortFree .c State.reset ∧ PortFree .a State.reset := ⟨rfl, by decide, rfl, by decide, ⟨rfl, rfl⟩, ⟨rfl, rfl⟩⟩

theorem witness_ScanUpdatesChannels :
    State.reset.power = .running ∧ ∀ e, 0 < (State.reset.scanner.encoders.get e).cal.scale := by
  refine ⟨rfl, fun e => ?_⟩
  cases e <;> decide

/-- A scan whose one TRIP report is of HG, in arrangement DIG: it may trip HOIST, spares SWING, and is not of all
four. -/
theorem witness_ScanPublishesAndKeeps :
    let s : State := { hoisting with
      scanner := { hoisting.scanner with reportDue := false }
      bands := { bandsGood with integrators := ⟨59, 0, 0⟩ } }
    ∃ t snap, exec (.scanCompletion ⟨4079, 2048, 2048, 2048, 2048⟩) s = .next t ∧ s.power = .running ∧
      t.scanner.snapshot = some snap ∧
      let reports := scanReports s t snap fun g => g == .hg
      (∃ r ∈ reports, r.MayTrip s.sequencer.record.arrangement .hoist) ∧
        (∀ r ∈ reports, ¬r.MayTrip s.sequencer.record.arrangement .swing) ∧
        (∀ r ∈ reports, ∃ m, ¬r.MayTrip s.sequencer.record.arrangement m) ∧
        (t.shaper.motions.get .hoist).permit = false ∧ (t.gate.brakes.get .hoist).state = .setting ∧
        t.sequencer.mode = .dig := by
  have key : ∀ r ∈ ([.raise .envelopeInvalid .envelope (some .position), .momentary .overcurrent (.group .hg) none] : List Report),
      ¬r.MayTrip .dig .swing := by
    intro r hr
    simp only [List.mem_cons, List.not_mem_nil, or_false] at hr
    rcases hr with rfl | rfl
    · exact fun h => absurd h.1 (by decide)
    · exact fun h => absurd h.2 (by decide)
  exact ⟨_, _, rfl, rfl, rfl, ⟨.momentary .overcurrent (.group .hg) none, .tail _ (.head _), by decide, by decide⟩, key,
    fun r hr => ⟨.swing, key r hr⟩, rfl, rfl, rfl⟩

/-- A running part, as every statement of a scan and of a period asks for. -/
theorem witness_running : State.reset.power = .running ∧ hoisting.power = .running := ⟨rfl, rfl⟩

/-- A scan that reports in every part of its list: a conversion under its limit, integrators that trip and that do
not, the boom over its limit, a skew at its trip, and all the encoders at the first scan after a reset. -/
theorem witness_ScanMakesReports :
    let s : State := { State.reset with
      bands := { State.reset.bands with integrators := ⟨59, 0, 0⟩ }, walk := { State.reset.walk with skew := 45 } }
    ∃ t snap, exec (.scanCompletion ⟨4079, 2048, 15, 2048, 2048⟩) s = .next t ∧ s.power = .running ∧
      t.scanner.snapshot = some snap ∧ IntegratorTrips s snap .hg ∧ ¬IntegratorTrips s snap .sg ∧
      channelReports s.scanner.reportDue (.analog .sgCurrent) (analogCondition s.scanner .sgCurrent)
        (analogCondition t.scanner .sgCurrent) = [.raise .channelFault (.analog .sgCurrent) (some .lowLimit)] ∧
      envelopeReports s.envelope t.envelope (some snap) = [.raise .envelopeInvalid .envelope (some .position)] ∧
      supplyCondition t.bands = some .supplyLow ∧ t.walk.skewCondition = true ∧
      (t.alarms.list.map AlarmEntry.code).getLast? = some .skew := by
  refine ⟨_, _, rfl, rfl, rfl, ⟨rfl, ?_, by decide⟩, fun h => ?_, rfl, rfl, rfl, rfl, rfl⟩
  · exact .inr (by decide)
  · exact absurd h.1 (by decide)

/-- The swing's two end values, at remainders 0 and cpr − 1. -/
theorem witness_SwingIsNeverClamped :
    State.reset.power = .running ∧ 0 < State.reset.scanner.encoders.swingAngle.cal.scale ∧
      EncoderScales .swingAngle Config.factoryEncoderCal.swingAngle 0 0 ∧
      EncoderScales .swingAngle Config.factoryEncoderCal.swingAngle 35999 3599 := by
  unfold EncoderScales
  decide

theorem witness_ZeroChannelReferences :
    PortFree .c State.reset ∧ State.reset.sequencer.mode = .parked ∧ State.reset.store = .idle ∧
      encoderOfNumber (0 : Byte).toNat = some .hoistPayout ∧ encoderOfNumber (4 : Byte).toNat = some .camRight ∧
      (∀ e, clampEncoderCal e (State.reset.scanner.encoders.get e).cal = (State.reset.scanner.encoders.get e).cal) ∧
      EncoderScales .hoistPayout Config.factoryEncoderCal.hoistPayout 300000 30000 ∧
      EncoderScales .camRight Config.factoryEncoderCal.camRight 10 1 := by
  refine ⟨⟨rfl, rfl⟩, rfl, rfl, rfl, rfl, fun e => by cases e <;> decide, ?_, ?_⟩ <;> (unfold EncoderScales; decide)

/-- Each port of a part after reset is free; so it is after a measurement and in every mode. -/
theorem witness_free (p : Port) : PortFree p State.reset ∧ PortFree p hoisting ∧ ∀ m, PortFree p (inMode m) := by
  cases p <;> exact ⟨⟨rfl, rfl⟩, ⟨rfl, rfl⟩, fun _ => ⟨rfl, rfl⟩⟩

/-- A scan with every converter in mid range holds no SG integrator; the others are held while an order is PENDING. -/
theorem witness_ScanStepsIntegrators :
    State.reset.power = .running ∧ AlarmListLaw State.reset ∧
      (∃ t snap, exec (.scanCompletion ⟨2048, 2048, 2048, 2048, 2048⟩) State.reset = .next t ∧
        t.scanner.snapshot = some snap ∧ snap.analogs.sgCurrent.state = .valid ∧
        State.reset.bands.integrators.sg - 1 < State.reset.bands.trip.counts.sg) ∧
      ∃ t snap, exec (.scanCompletion ⟨4079, 2048, 15, 2048, 2048⟩) { State.reset with bands := { State.reset.bands with
          integrators := ⟨59, 0, 0⟩ } } = .next t ∧ t.scanner.snapshot = some snap ∧
        snap.analogs.hgCurrent.state = .valid ∧ 1800 < snap.analogs.hgCurrent.value.natAbs ∧
        snap.analogs.sgCurrent.state ≠ .valid :=
  ⟨rfl, quiet_list rfl, ⟨_, _, rfl, rfl, rfl, by decide⟩, ⟨_, _, rfl, rfl, rfl, by decide, by decide⟩⟩

/-- R31: an order is issued with HG one step from its trip, ends before any scan, and the next scan steps HG from 0. -/
theorem witness_order_blanks_integrators :
    let s : State := { State.reset with bands := { State.reset.bands with integrators := ⟨59, 7, 3⟩ } }
    OrderLaw s ∧ ∃ t u v, exec (.modeRequest .a 1) s = .next t ∧ t.sequencer.record.order = .pending ∧
      t.bands.integrators = ⟨0, 0, 3⟩ ∧ exec (.transferReport .b 1 0) t = .next u ∧
      u.sequencer.record.order = .done ∧ u.bands.integrators = ⟨0, 0, 3⟩ ∧
      exec (.scanCompletion ⟨4079, 4079, 2048, 2048, 2048⟩) u = .next v ∧ v.bands.integrators = ⟨1, 1, 2⟩ := by
  refine ⟨?_, _, _, _, rfl, rfl, rfl, rfl, rfl, rfl, rfl, rfl⟩
  simp [OrderLaw, State.reset]

/-- A PENDING order that keeps the law, ended by a report. -/
theorem witness_order_pending :
    let s := sequenced { State.reset.sequencer with
      mode := .transferring .dig
      record := { State.reset.sequencer.record with kind := some .dig, order := .pending, timer := some 300 } }
    OrderLaw s ∧ s.sequencer.record.order = .pending ∧
      ∃ t, exec (.transferReport .b 0 0) s = .next t ∧ t.sequencer.record.order = .done := by
  refine ⟨?_, rfl, _, rfl, rfl⟩
  simp [OrderLaw, IntegratorsBlanked, sequenced, State.reset]

/-- Each band in force at a write of the thresholds, after the monitor's first event and as it. -/
theorem witness_BandWriteRestartsDebounce :
    (∀ x y z due, let s : State :=
        { stored (.writing x) with bands := { bandsGood with supply := y, boom := z, reportDue := due } }
      s.power = .running ∧ s.bands.reportDue = due ∧ s.store = .writing x) ∧
      (∀ b, effectiveSupply { bandsGood with supply := ⟨b, true, none, 0⟩ } = b) ∧
      ∀ b, effectiveBoom { bandsGood with boom := ⟨b, true, none, 0⟩ } = b :=
  ⟨fun _ _ _ _ => ⟨rfl, rfl, rfl⟩, fun _ => rfl, fun _ => rfl⟩

/-- Sectors of the three kinds at the ends of their ranges, and the ends of the circle. -/
theorem witness_SectorRunsClockwise :
    (3599 : Nat) ≤ 3599 ∧ (0 : Int) ≤ 0 ∧ (0 : Int) ≤ 3599 ∧ (3599 : Int) ≤ 3599 := by decide

/-- A zone of every range at its end, ahead of a point in each way; and the worked cap at the edges of its lines. -/
theorem witness_ApproachIsCapped :
    BoxInRange ⟨1500, 2100, 0, 30000, 14000, 30000⟩ ∧
      approach ⟨1500, 2100, 0, 30000, 14000, 30000⟩ ⟨1800, 9000, 13999⟩ .drag .negative = some 1 ∧
      approach ⟨1500, 2100, 0, 30000, 14000, 30000⟩ ⟨3599, 9000, 14000⟩ .swing .positive = some 1501 ∧
      inBox ⟨1500, 2100, 0, 30000, 14000, 30000⟩ ⟨3599, 9000, 14000⟩ = false ∧
      inBox ⟨1500, 2100, 0, 30000, 14000, 30000⟩ (movedBy ⟨3599, 9000, 14000⟩ .swing .positive 1501) = true ∧
      inBox ⟨1500, 2100, 0, 30000, 14000, 30000⟩ (movedBy ⟨3599, 9000, 14000⟩ .swing .positive 1500) = false ∧
      (1501 : Int) < 3600 ∧ (1 : Nat) ≤ 300 ∧ (60 : Nat) ≤ 1000 ∧ (20 : Int) ≤ (20 : Nat) ∧ ((20 : Nat) : Int) < 21 ∧
      (319 : Int) < (20 : Nat) + (300 : Nat) ∧ ((20 : Nat) : Int) + (300 : Nat) ≤ 320 ∧
      (996 : Int) * (300 : Nat) ≤ (319 - (20 : Nat)) * 1000 ∧ (319 - ((20 : Nat) : Int)) * 1000 < (996 + 1) * (300 : Nat) := by
  unfold BoxInRange
  decide

/-- The buffer open and closed, a zone in order, one reversed by its fields, and the unused entry. -/
theorem witness_EditRequestsAndCommitBegin :
    (∀ e, PortFree .c (editing e .idle) ∧ (editing e .idle).envelope.edit = e) ∧ (23 : Byte).toNat ≤ 23 ∧
      rawEntry .unused = some none ∧
      rawEntry (.warnOnly ⟨0, 0, 0, 30000, 0, 30000⟩) = some (some (.warnOnly ⟨0, 0, 0, 30000, 0, 30000⟩)) ∧
      boxOrdered (zoneBox (clampZone (.warnOnly ⟨0, 0, 0, 30000, 0, 30000⟩))) = true ∧
      boxOrdered (zoneBox (clampZone (.warnOnly ⟨0, 0, 1, 0, 0, 30000⟩))) = false ∧
      (editing .open .idle).sequencer.mode = .parked ∧ (editing .open .idle).store = .idle ∧
      (editing .open .idle).envelope.buffer.length = 24 :=
  ⟨fun _ => ⟨⟨rfl, rfl⟩, rfl⟩, by decide⟩

/-- A commit at its last write, before the first scan and after it, with a DIG request waiting: it is taken, and its
order issued. -/
theorem witness_CommitCompletionReplacesTheTable :
    ∀ snap, snap = none ∨ snap = some (takeSnapshot State.reset.scanner.encoders State.reset.scanner.analogs 1) →
      let s : State := { editing .committing (.committing (.zoneHeader ⟨1, false⟩) []) with
        scanner := { State.reset.scanner with snapshot := snap }
        sequencer := { State.reset.sequencer with queue := [⟨.dig, .a⟩] } }
      s.power = .running ∧ s.store = .committing (.zoneHeader ⟨1, false⟩) [] ∧ s.scanner.snapshot = snap ∧
        s.envelope.table.length = 24 ∧ s.envelope.buffer.length = 24 ∧
        ∃ t, exec .commitCompletion s = .next t ∧ t.sequencer.mode = .transferring .dig ∧ t.sequencer.queue = [] :=
  by rintro _ (rfl | rfl) <;> exact ⟨rfl, rfl, rfl, rfl, rfl, _, rfl, rfl, rfl⟩

theorem witness_FreshnessFollowsRequestsAndTimer :
    (PortFree .a State.reset ∧ State.reset.ports.a.freshness = .never) ∧
      (PortFree .a hoisting ∧ hoisting.ports.a.lastMark ≠ some false) ∧ hoisting.power = .running ∧
      hoisting.ports.a.holdTimer = true := ⟨⟨⟨rfl, rfl⟩, rfl⟩, ⟨⟨rfl, rfl⟩, by decide⟩, rfl, rfl⟩

theorem witness_RepeatedMotionRequestChangesNothing :
    PortFree .a hoisting ∧ hoisting.ports.a.freshness ≠ .never ∧ hoisting.ports.a.lastMark = some true :=
  ⟨⟨rfl, rfl⟩, by decide, rfl⟩

/-- Of every group a write that is accepted. -/
theorem witness_SettingWritesBegin :
    PortFree .c State.reset ∧ State.reset.store = .idle ∧ State.reset.sequencer.mode = .parked ∧
      profileOfCode 2 = some .b ∧ (127 : Byte).toNat < 128 ∧
      profileRecord .common (rawProfile 127 ⟨20, 40, 1000, 60, 4, 8, 400⟩) =
        some (.profileCommon ⟨20, 40, 1000, 60, 4, 8, 400⟩) ∧
      ¬LowersCeiling hoisting.shaper (withRecord hoisting.shaper.profiles
        (clampRecord (.profileCommon ⟨20, 40, 1000, 60, 4, 8, 400⟩))) ∧
      associationOf ⟨0, 1, 2, 0⟩ = some ⟨.common, .a, .b, .common⟩ ∧
      encoderOfNumber (4 : Byte).toNat = some .camRight ∧ analogOfNumber (5 : Byte).toNat = some .hgCurrent ∧
      min 4095 (4094 : Half).toNat < min 4095 (65535 : Half).toNat ∧
      (min 1499 (2 : Half).toNat < min 1499 (65535 : Half).toNat ∧ min 1499 (1 : Half).toNat < min 1499 (2 : Half).toNat ∧
        1 ≤ (1 : Half).toNat) ∧
      (min 1999 (0 : Half).toNat < min 1999 (1998 : Half).toNat ∧
        min 1999 (1998 : Half).toNat < min 1999 (65535 : Half).toNat) ∧
      rawShedOrder ⟨0, 0, 0, ⟨0, 0, 0, 0⟩, 4, 3, 2, 1, 0⟩ = some [.walk, .swing, .drag, .hoist] := by
  refine ⟨⟨rfl, rfl⟩, ?_⟩
  rw [← lowersCeiling_iff]
  decide

/-- A busy store, and a part outside PARKED, with requests that ask for them. -/
theorem witness_WritesAreRefusedWithoutEffect :
    PortFree .c (stored (.writing (.gate 4))) ∧ (stored (.writing (.gate 4))).store ≠ .idle ∧
      requestOf (.writeSettingGate .c 4) = some (.c, .writeGate 4) ∧ asksForStore (.writeGate 4) = true ∧
      (stored (.writing (.gate 4))).sequencer.mode = .parked ∧
      asksForStoreParked (stored (.writing (.gate 4))) .restart = true ∧ (2 : Byte).toNat ≤ 2 ∧ (127 : Byte).toNat < 128 ∧
      PortFree .c hoisting ∧
      hoisting.sequencer.mode ≠ .parked ∧ hoisting.store = .idle ∧ asksForStoreParked hoisting (.zeroChannel 4 0) = true ∧
      profileRecord .a (rawProfile 4 ⟨0, 0, 999, 0, 0, 0, 0⟩) =
        some (.profileA ⟨none, none, some 999, none, none, none, none⟩) ∧ profileOfCode 1 = some .a ∧
      (let s : State := { hoisting with shaper := { hoisting.shaper with
          motions := hoisting.shaper.motions.map fun _ r => { r with association := .a } } };
        PortFree .c s ∧ s.sequencer.mode ≠ .parked ∧ s.store = .idle ∧
        LowersCeiling s.shaper (withRecord s.shaper.profiles
          (clampRecord (.profileA ⟨none, none, some 999, none, none, none, none⟩)))) :=
  ⟨⟨rfl, rfl⟩, by decide, rfl, rfl, rfl, rfl, by decide, by decide, ⟨rfl, rfl⟩, by decide, rfl, rfl, rfl, rfl, ⟨rfl, rfl⟩,
    by decide, rfl, .hoist, .a, .inl rfl, by decide⟩

/-- The first value past each range, and thresholds, limits and a shed order out of order by one. -/
theorem witness_BadArgumentsAreRefused :
    (∀ p, PortFree p State.reset) ∧ State.reset.store = .idle ∧ State.reset.sequencer.mode = .parked ∧
      2 < (3 : Byte).toNat ∧ 128 ≤ (128 : Byte).toNat ∧ (126 : Byte).getLsbD 0 = false ∧ 4 < (5 : Byte).toNat ∧
      (4 : Byte).toNat < 5 ∧ 9 < (10 : Byte).toNat ∧ min 4095 (65535 : Half).toNat ≤ min 4095 (4095 : Half).toNat ∧
      (1 : Byte) ≠ 0 ∧ min 1499 (1500 : Half).toNat ≤ min 1499 (1499 : Half).toNat ∧ (0 : Half).toNat = 0 ∧
      min 1999 (2000 : Half).toNat ≤ min 1999 (1999 : Half).toNat ∧ 3 < (4 : Byte).toNat ∧
      ¬([3, 2, 3, 0].take (3 : Byte).toNat : List Byte).Nodup ∧ 1 < (2 : Byte).toNat :=
  ⟨fun p => by cases p <;> exact ⟨rfl, rfl⟩, rfl, rfl, by decide⟩

/-- A period that a motion ends with its permit set and its brake RELEASED. -/
theorem witness_PeriodRampsOutputs :
    hoisting.power = .running ∧ ∃ t, exec .periodExpiry hoisting = .next t ∧
      (hoisting.gate.brakes.get .hoist).state = .released ∧ (t.shaper.motions.get .hoist).permit = true ∧
      (t.shaper.motions.get .hoist).output = -220 ∧ (hoisting.gate.brakes.get .drag).state ≠ .released ∧
      (hoisting.shaper.motions.get .hoist).output.natAbs ≤ (motionProfile hoisting.shaper .hoist).ceiling :=
  ⟨rfl, _, rfl, rfl, rfl, rfl, by decide, by decide⟩

/-- The cap of HOIST in the negative direction is its ceiling where no zone, boom band or limit restrains it. -/
theorem witness_StagesFollowTheRequest :
    motionCap hoisting .hoist (-300) = 1000 ∧ CapTerm hoisting .hoist (-300) 1000 ∧
      RequestFormed hoisting .hoist (-300) ∧
      (hoisting.gate.brakes.get .hoist).state = .released ∧ (hoisting.shaper.motions.get .hoist).dwell = 0 ∧
      (hoisting.shaper.motions.get .hoist).output.sign = (hoisting.shaper.motions.get .hoist).request.sign :=
  ⟨by decide, .inl rfl, ⟨fun _ => ⟨fun _ _ => rfl, fun h => absurd ⟨⟨⟨.inl rfl, rfl, rfl, by decide⟩, rfl, rfl⟩, rfl⟩ h⟩,
    by simp [hoisting]⟩, rfl, rfl, rfl⟩

/-- R86, R89: with the brake SET the target is formed all the same, the output is 0 and the brake is asked to release;
with a dwell count left at output 0 the target is 0 and the count falls. -/
theorem witness_StagesFollowTheRequest_elsewhere :
    let s (b : BrakeState) (o : Int) (dwell : Nat) : State := { hoisting with
      gate := { hoisting.gate with brakes := { hoisting.gate.brakes with hoist := ⟨b, 0, 0, false, false, false, false⟩ } }
      shaper := { hoisting.shaper with motions := { hoisting.shaper.motions with
        hoist := { hoisting.shaper.motions.hoist with output := o, dwell := dwell } } } }
    (∃ t, exec .periodExpiry (s .set 0 0) = .next t ∧ t.shaper.motions.hoist.target = -300 ∧
      t.shaper.motions.hoist.output = 0 ∧ t.gate.brakes.hoist.state = .releasing) ∧
    (∃ t, exec .periodExpiry (s .set 0 5) = .next t ∧ t.shaper.motions.hoist.target = 0 ∧
      t.shaper.motions.hoist.dwell = 4 ∧ t.gate.brakes.hoist.state = .set) ∧
    ∃ t, exec .periodExpiry (s .released 10 0) = .next t ∧ t.shaper.motions.hoist.target = 0 ∧
      t.shaper.motions.hoist.output = 0 ∧ t.shaper.motions.hoist.dwell = 4 := ⟨⟨_, rfl, rfl, rfl, rfl⟩,
    ⟨_, rfl, rfl, rfl, rfl⟩, _, rfl, rfl, rfl, rfl⟩

/-- R83: a WALK in STOPPING from WALK toward DIG, a cam out of rest and its last direction given, is asked for creep in
that direction; toward PARKED it is asked for nothing. -/
theorem witness_walk_is_finished (x : Direction) :
    let s (d : Settled) : State := { hoisting with
      sequencer := { hoisting.sequencer with
        mode := .stopping .walk d, record := { hoisting.sequencer.record with arrangement := .walk } }
      shaper := { hoisting.shaper with motions := { hoisting.shaper.motions with
        walk := { hoisting.shaper.motions.walk with permit := true, lastDirection := some x } } }
      gate := { hoisting.gate with brakes := { hoisting.gate.brakes with
        walk := ⟨.released, 0, 0, false, true, false, false⟩ } } }
    RequestFormed (s .dig) .walk (x.sign * 60) ∧ RequestFormed (s .parked) .walk 0 ∧
      (∃ t, exec .periodExpiry (s .dig) = .next t ∧ t.shaper.motions.walk.target = x.sign * 60 ∧
        t.shaper.motions.walk.output = x.sign * 20) ∧
      ∃ t, exec .periodExpiry (s .parked) = .next t ∧ t.shaper.motions.walk.target = 0 := by
  refine ⟨⟨by simp, fun source d h => ?_⟩, ⟨by simp, fun source d h => ?_⟩, ⟨_, rfl, ?_, ?_⟩, _, rfl, ?_⟩
  · cases h
    refine ⟨fun y _ h => ?_, fun h => ?_⟩
    · cases h
      rfl
    · rcases h with h | h
      · exact absurd ⟨rfl, rfl, rfl, ⟨⟨.inr ⟨_, rfl⟩, rfl, rfl, rfl, by simp [hoisting, State.reset]⟩, rfl, rfl⟩, rfl⟩ h
      · cases h
  · cases h
    exact ⟨fun _ h => absurd h.2.1 (by decide), fun _ => rfl⟩
  all_goals cases x <;> rfl

/-- Demands at the budget and one above it. -/
theorem witness_SharingHoldsThenSheds :
    demandOf ⟨600, 550, 350, 700⟩ ⟨1000, 0, 0, 0⟩ ≤ 600 ∧ 599 < demandOf ⟨600, 550, 350, 700⟩ ⟨1000, 0, 0, 0⟩ ∧
      (shareSupply ⟨600, 550, 350, 700⟩ [.hoist] 599 ⟨40, 40, 40, 40⟩ ⟨1000, 0, 0, 0⟩ ⟨1000, 0, 0, 0⟩).outputs.hoist = 998 := by
  decide

/-- Outside STOPPING, a brake that fails to release: its BRAKE-FAIL is entered and stops HOIST, and DRAG is as formed. -/
theorem witness_PeriodPublishes :
    let b : BrakeRecord := ⟨.releasing, 65535, 0, false, false, false, false⟩
    let s : State := { hoisting with
      gate := { hoisting.gate with brakes := { hoisting.gate.brakes with hoist := b } }
      alarms := { hoisting.alarms with driveReport := ⟨.ready, .ready, .ready⟩ } }
    s.power = .running ∧ BrakeLaw s ∧ AlarmListLaw s ∧ DriveLaw s ∧ (∀ source d, s.sequencer.mode ≠ .stopping source d) ∧
      BrakeFailEntered s .hoist { b with state := .setting, count := 0, fail := true } true ∧
      ¬BrakeFailEntered s .drag (s.gate.brakes.get .drag) false ∧
      ∃ t, exec .periodExpiry s = .next t ∧ (t.shaper.motions.get .hoist).permit = false ∧
        t.alarms.list.map AlarmEntry.code = [.brakeFail] := by
  refine ⟨rfl, fun m => by cases m <;> decide, ?_, ⟨rfl, fun g => ?_⟩, by simp [hoisting], ⟨.inl rfl, by simp [hoisting, State.reset]⟩,
    fun h => ?_, _, rfl, rfl, rfl⟩
  · refine ⟨by simp [hoisting, State.reset], by decide, by decide, fun m => ?_, fun m => ?_, by simp [hoisting, State.reset]⟩ <;>
      (cases m <;> simp [hoisting, State.reset, PerMotion.get])
  · cases g <;> simp [hoisting, State.reset, PerGroup.get]
  · rcases h.1 with h | h
    · cases h
    · exact absurd h.2 (by decide)

/-- The 40th period above the budget raises OVERDRAW, and the 40th at or below it has it reported gone. -/
theorem witness_overdraw_appears_and_ends :
    let s (present : Bool) (budget : Nat) : State := { hoisting with
      bands := { bandsGood with budgets := ⟨budget, budget, budget⟩ }
      shaper := { hoisting.shaper with overdraw := present, overdrawCount := 39 } }
    (∃ t, exec .periodExpiry (s false 0) = .next t ∧ t.shaper.overdraw = true ∧
      t.alarms.list.map AlarmEntry.code = [.overdraw]) ∧
    ∃ t, exec .periodExpiry (s true 5000) = .next t ∧ t.shaper.overdraw = false ∧
      changeReports .overdraw .supply (bare true) (bare t.shaper.overdraw) = [.gone .overdraw .supply] :=
  ⟨⟨_, rfl, rfl, rfl⟩, _, rfl, rfl, rfl⟩

/-- A part at work; and after a reset, a feedback that shows released in SET at the first notification, raised there. -/
theorem witness_PeriodNotifiesBrakes :
    (hoisting.power = .running ∧ BrakeLaw hoisting ∧ AlarmListLaw hoisting) ∧
      let s : State := { State.reset with gate := { State.reset.gate with
        brakes := { State.reset.gate.brakes with walk := ⟨.set, 0, 0, false, true, true, false⟩ } } }
      s.power = .running ∧ BrakeLaw s ∧ AlarmListLaw s ∧ s.gate.reportDue ≠ .none ∧
        ∃ t, exec .periodExpiry s = .next t ∧ (t.gate.brakes.get .walk).fail = true ∧
          t.alarms.list.map AlarmEntry.code = [.brakeFail] :=
  ⟨⟨rfl, fun m => by cases m <;> decide, quiet_list rfl⟩, rfl, fun m => by cases m <;> decide, quiet_list rfl,
    by decide, _, rfl, rfl, rfl⟩

/-- Filters running in SET with released shown, in RELEASED with it not shown, and in SET with it not shown. -/
theorem witness_FeedbackIsFilteredAndSupervised :
    (State.reset.power = .running ∧ ({ State.reset with power := .off } : State).power ≠ .running) ∧
      ∀ b level, let s : State := { State.reset with
          gate := { State.reset.gate with
            brakes := { State.reset.gate.brakes with hoist := ⟨b, 0, 0, false, !level, false, true⟩ } }
          feedbackInputs := { State.reset.feedbackInputs with hoist := level } }
        s.power = .running ∧ (s.gate.brakes.get .hoist).filtering = true ∧ (s.gate.brakes.get .hoist).state = b ∧
          s.feedbackInputs.get .hoist = level :=
  ⟨by decide, fun _ _ => ⟨rfl, rfl, rfl, rfl⟩⟩

theorem witness_ParkRequestStops (p : Port) (m : Mode) :
    PortFree p (inMode m) ∧ (inMode m).sequencer.mode = m ∧ (inMode m).envelope.edit ≠ .committing ∧
      PortFree p (editing .committing .idle) ∧ (editing .committing .idle).sequencer.mode = .parked := by
  cases p <;> exact ⟨⟨rfl, rfl⟩, rfl, by simp [inMode, State.reset], ⟨rfl, rfl⟩, rfl⟩

/-- A DIG refused under LOST; in STOPPING with good bands, either request allowed, behind three entries, behind four, and
behind an equal one. -/
theorem witness_ModeRequestsAreQueued (request : Settled) (h : request ≠ .parked) :
    (let s : State := { hoisting with bands := { bandsGood with supply := ⟨.lost, true, none, 0⟩ } };
      PortFree .a s ∧ effectiveSupply s.bands = .lost) ∧
    ∀ q, let s : State := { sequenced { State.reset.sequencer with mode := .stopping .dig .walk, queue := q } with
        bands := bandsGood }
      PortFree .a s ∧ (request = .dig → effectiveSupply s.bands ≠ .lost) ∧
        (request = .walk → MayWalk s ∧ s.sequencer.mode ≠ .walk) ∧ isSettled s.sequencer.mode = false ∧
        (q = [⟨request, .a⟩] → s.sequencer.queue.getLast?.map QueueEntry.request = some request) ∧
        (q = List.replicate 3 ⟨.parked, .a⟩ → s.sequencer.queue.length < 4 ∧
          s.sequencer.queue.getLast?.map QueueEntry.request ≠ some request) ∧
        (q = List.replicate 4 ⟨.parked, .a⟩ → 4 ≤ s.sequencer.queue.length ∧
          s.sequencer.queue.getLast?.map QueueEntry.request ≠ some request) := by
  refine ⟨⟨⟨rfl, rfl⟩, rfl⟩, fun q => ⟨⟨rfl, rfl⟩, fun _ => by simp [effectiveSupply, bandsGood], fun _ => ⟨⟨⟨rfl, rfl⟩,
    ⟨rfl, .inl rfl⟩, by simp [sequenced, State.reset], by simp [sequenced, State.reset]⟩, by simp [sequenced]⟩, rfl, ?_, ?_, ?_⟩⟩
  · rintro rfl; rfl
  · rintro rfl; exact ⟨by decide +revert, by simpa [sequenced] using Ne.symm h⟩
  · rintro rfl; exact ⟨by decide +revert, by simpa [sequenced] using Ne.symm h⟩

theorem witness_ModeRequestsAreTaken :
    PortFree .a hoisting ∧ hoisting.sequencer.queue = [] ∧ hoisting.envelope.edit ≠ .committing ∧
      effectiveSupply hoisting.bands ≠ .lost ∧ MayWalk hoisting ∧ hoisting.sequencer.mode = .dig ∧
      isSettled hoisting.sequencer.mode = true :=
  ⟨⟨rfl, rfl⟩, rfl, by decide, by decide,
    ⟨⟨rfl, rfl⟩, ⟨rfl, .inl rfl⟩, by simp [hoisting, State.reset], by decide⟩, rfl, rfl⟩

/-- A DIG asked in PARKED with the arrangement WALK and a cam out of rest: the entry it leaves. -/
theorem witness_dig_not_at_rest :
    let s : State := { hoisting with sequencer := { State.reset.sequencer with
      record := { State.reset.sequencer.record with arrangement := .walk } } }
    PortFree .a s ∧ s.sequencer.queue = [] ∧ s.envelope.edit ≠ .committing ∧ effectiveSupply s.bands ≠ .lost ∧
      s.sequencer.mode = .parked ∧ s.walk.bothInRest = false ∧ AlarmListLaw s ∧ s.alarms.list.length < 32 ∧
      ∃ t, exec (.modeRequest .a 1) s = .next t ∧ t.sequencer.mode = .parked ∧
        t.alarms.list.map AlarmEntry.detail = [some .notAtRest] :=
  ⟨⟨rfl, rfl⟩, rfl, by decide, by decide, rfl, rfl, quiet_list rfl, by decide, _, rfl, rfl, rfl⟩

/-- A stop of each kind with everything SET and still. -/
theorem witness_StoppingCompletes (source : Working) (d : Settled) :
    let s : State := { State.reset with
      gate := { State.reset.gate with reportDue := .none }
      sequencer := { State.reset.sequencer with mode := .stopping source d } }
    s.power = .running ∧ s.sequencer.mode = .stopping source d ∧ s.sequencer.queue = [] ∧ s.gate.reportDue = .none ∧
      AlarmListLaw s ∧ s.alarms.list.length ≤ 30 ∧
      (∀ m, (s.gate.brakes.get m).state = .set ∧ (s.gate.brakes.get m).fail = false) ∧
      ∀ m, (s.shaper.motions.get m).output = 0 ∧ (formMotion s m).target = 0 := by
  refine ⟨rfl, rfl, rfl, rfl, quiet_list rfl, Nat.zero_le _, fun m => by cases m <;> exact ⟨rfl, rfl⟩,
    fun m => ?_⟩
  cases m <;> cases source <;> cases d <;> exact ⟨rfl, rfl⟩

/-- A stop that is complete with a DIG entry waiting behind it takes the entry; one with a brake still lifted stays. -/
theorem witness_a_stop_ends_or_stays :
    let s (b : BrakeState) : State := { State.reset with
      gate := { State.reset.gate with brakes := State.reset.gate.brakes.map fun _ r => { r with state := b } }
      sequencer := { State.reset.sequencer with mode := .stopping .dig .parked, queue := [⟨.dig, .a⟩] } }
    (∃ t, exec .periodExpiry (s .set) = .next t ∧ t.sequencer.mode = .transferring .dig ∧ t.sequencer.queue = [] ∧
      ∀ m, (t.gate.brakes.get m).state = .set ∧ (formMotion (s .set) m).target = 0 ∧
        (sharePeriod (s .set) (PerMotion.of (formMotion (s .set)))).outputs.get m = 0) ∧
    ∃ t, exec .periodExpiry (s .released) = .next t ∧ t.sequencer.mode = .stopping .dig .parked ∧
      t.sequencer.queue = [⟨.dig, .a⟩] ∧ (t.gate.brakes.get .hoist).state ≠ .set :=
  ⟨⟨_, rfl, rfl, rfl, fun m => by cases m <;> exact ⟨rfl, rfl, rfl⟩⟩, _, rfl, rfl, rfl, by decide⟩

/-- A PENDING order toward each destination, and the reports that end none. -/
theorem witness_TransferOrdersEnd (d : Settled) (kind : Working) (failed : Bool) :
    let s := sequenced { State.reset.sequencer with
      mode := .transferring d
      record := { State.reset.sequencer.record with kind := some kind, order := .pending, failedMark := failed } }
    PortFree .b s ∧ s.sequencer.mode = .transferring d ∧ s.sequencer.record.order = .pending ∧
      s.sequencer.record.kind = some kind ∧ AlarmListLaw s ∧ s.sequencer.queue = [] ∧ s.power = .running ∧
      s.sequencer.record.mark = false ∧ 1 < (2 : Byte).toNat ∧ (1 : Byte).toNat ≤ 1 ∧
      ∀ o e, let r : ArrangementRecord := { State.reset.sequencer.record with order := o, endedBy := e }
        r.order = o ∧ r.endedBy = e :=
  ⟨⟨rfl, rfl⟩, rfl, rfl, rfl, quiet_list rfl, rfl, rfl, rfl, by decide, by decide, fun _ _ => ⟨rfl, rfl⟩⟩

/-- With a WALK request waiting behind an order toward PARKED that is reported DONE, it is taken and, the permit NG,
refused. -/
theorem witness_entries_taken_after_DONE :
    let s := sequenced { State.reset.sequencer with
      mode := .transferring .parked, queue := [⟨.walk, .a⟩]
      record := { State.reset.sequencer.record with kind := some .dig, order := .pending } }
    PortFree .b s ∧ ∃ t, exec (.transferReport .b 0 0) s = .next t ∧ t.sequencer.queue = [] ∧
      t.sequencer.mode = .parked ∧ t.alarms.list.map AlarmEntry.code = [.sequenceRefused] :=
  ⟨⟨rfl, rfl⟩, _, rfl, rfl, rfl, rfl⟩

/-- An order toward WALK done with HG reporting FAULT: DRIVE-FAULT, blanked until then, appears and affects WALK. -/
theorem witness_drive_fault_after_DONE :
    let s : State := { sequenced { State.reset.sequencer with
        mode := .transferring .walk, record := { State.reset.sequencer.record with kind := some .walk, order := .pending } } with
      alarms := { State.reset.alarms with driveReport := ⟨.fault, .ready, .ready⟩ } }
    ∃ t, exec (.transferReport .b 0 0) s = .next t ∧ t.sequencer.mode = .walk ∧
      t.alarms.list.map (fun e => (e.code, e.affected)) = [(.driveFault, onlyMotion .walk)] := ⟨_, rfl, rfl, rfl⟩

/-- No motion, one motion and all four; the walk in and out of the set; and a TRIP code with no entry, with one in
CLEARED-UNACK and with an active one, and a code of another class. -/
theorem witness_TripTakesEffectAtOnce :
    (∀ st, let e := newEntry State.reset.alarms .dig .brakeFail (.motion .walk) none st
      alarmClass e.code e.source = .trip ∧ (∀ x ∈ (listed []).alarms.list, x.code = e.code → x.source ≠ e.source) ∧
        e ∈ (listed [e]).alarms.list ∧ e.state = st) ∧ alarmClass .skew (.motion .walk) ≠ .trip ∧
      (∀ m, noMotions.get m = false) ∧ (∃ m, (onlyMotion .walk).get m = true) ∧ (onlyMotion .walk).walk = true ∧
      (∃ m, (onlyMotion .walk).get m = false) ∧ (∀ m, allMotions.get m = true) ∧ digMotions.walk = false :=
  ⟨fun _ => ⟨rfl, by simp [listed], by simp [listed], rfl⟩, by decide, fun m => by cases m <;> rfl, ⟨.walk, rfl⟩, rfl,
    ⟨.hoist, rfl⟩, fun m => by cases m <;> rfl, rfl⟩

/-- A list of two entries whose second is the one reported, in each state. -/
theorem witness_AlarmListFollowsReports (st : AlarmState) :
    let a := (newEntry State.reset.alarms .dig .zoneWarn .envelope (some (.zone 7)) .activeUnack)
    let e := (newEntry State.reset.alarms .dig .skew (.motion .walk) none st)
    (listed [a, e]).alarms.list = [a] ++ e :: [] ∧ e.state = st ∧ e.detail ≠ some .walk ∧
      (∀ x ∈ [a] ++ [], x.code = e.code → x.source ≠ e.source) ∧
      (∀ x ∈ (listed [a, e]).alarms.list, x.code = .supplyLow ∨ x.code = .supplyLost → x.source ≠ .supply) ∧
      (listed [a, e]).alarms.list.length < 32 ∧ alarmClass .supplyLow .supply = .warn ∧
      alarmClass .supplyLost .supply ≠ .warn ∧ a.cls = .warn ∧ 32 ≤ (listed (List.replicate 32 a)).alarms.list.length :=
  ⟨rfl, rfl, by simp [newEntry], by simp [newEntry], by simp [listed, newEntry], by simp [listed], rfl,
    by decide, rfl, by simp [listed]⟩

/-- R152's worked example: ZONE-WARN evicted from a full list and OVERDRAW dropped are remembered, and a new zone of
ZONE-WARN meanwhile changes nothing. -/
theorem test_lost_conditions_stay_unlisted :
    let zoneWarn := newEntry State.reset.alarms .dig .zoneWarn .envelope (some (.zone 7)) .activeAck
    let skew := newEntry State.reset.alarms .dig .skew (.motion .walk) none .activeUnack
    let t := takeReports [.raise .brakeFail (.motion .swing) none, .raise .overdraw .supply none]
      (listed (zoneWarn :: List.replicate 31 skew))
    t.alarms.lost = [(.overdraw, .supply), (.zoneWarn, .envelope)] ∧ t.alarms.overrun = true ∧
      t.alarms.list.length = 32 ∧ t.alarms.list[31]?.map AlarmEntry.code = some .brakeFail ∧
      takeReports [.raise .zoneWarn .envelope (some (.zone 9))] t = t :=
  ⟨rfl, rfl, rfl, rfl, rfl⟩

/-- Gone and raised again, a condition that had lost its entry is entered. -/
theorem witness_lost_condition_is_raised_afresh :
    let s : State := { State.reset with alarms := { State.reset.alarms with lost := [(.zoneWarn, .envelope)] } }
    let new : Report := .raise .zoneWarn .envelope (some (.zone 9))
    AlarmListLaw s ∧ alarmClass .zoneWarn .envelope = .warn ∧ (.zoneWarn, .envelope) ∈ s.alarms.lost ∧
      (∀ e ∈ s.alarms.list, e.code = .zoneWarn → e.source ≠ .envelope) ∧
      (∀ r ∈ [new, .gone .overdraw .supply], r ≠ .gone .zoneWarn .envelope ∧ ∀ d, r ≠ .momentary .zoneWarn .envelope d) ∧
      takeReports [new, .gone .overdraw .supply] s = s ∧
      (takeReports [.gone .zoneWarn .envelope, new] s).alarms.list.map AlarmEntry.code = [.zoneWarn] := by
  refine ⟨⟨by simp [State.reset], by decide, by decide, fun m => ?_, fun m => ?_, by simp [State.reset],
    by simp [State.reset, alarmClass], by simp⟩, rfl, .head _, by simp [State.reset], by simp, rfl, rfl⟩ <;>
  cases m <;> simp [State.reset, PerMotion.get]

theorem witness_RestrainingRaiseIsListed :
    AlarmListLaw State.reset ∧ inCodeTable .skew (.motion .walk) = true ∧ alarmClass .skew (.motion .walk) ≠ .warn :=
  ⟨quiet_list rfl, rfl, by decide⟩

theorem witness_StopAllStopsEverything :
    PortFree .a hoisting ∧ PortFree .c hoisting ∧ AlarmListLaw hoisting := ⟨⟨rfl, rfl⟩, ⟨rfl, rfl⟩, quiet_list rfl⟩

/-- ALL, an entry named, one that is not in the list, and a code past the last. -/
theorem witness_AcknowledgementFollowsTheTable :
    PortFree .a (listed [newEntry State.reset.alarms .dig .skew (.motion .walk) none .activeUnack]) ∧
      alarmCodeOfCode 8 = some .skew ∧ sourceOfCode 3 = some (.motion .walk) ∧ sourceOfCode 23 = some .portC ∧
      alarmCodeOfCode 17 = some .settingsCheck ∧ alarmCodeOfCode 18 = none ∧ sourceOfCode 24 = none ∧
      ¬((0xFF : Byte) = 0xFF ∧ (0 : Byte) = 0xFF) ∧ alarmCodeOfCode 0xFF = none :=
  ⟨⟨rfl, rfl⟩, by decide⟩

/-- With its drives reported READY, a report that takes HOIST's group away. -/
theorem witness_DriveStateIsTaken :
    let s : State := { hoisting with alarms := { hoisting.alarms with driveReport := ⟨.ready, .ready, .ready⟩ } }
    PortFree .b s ∧ DriveLaw s ∧ AlarmListLaw s ∧ readinessOfCode 2 = some .fault ∧ readinessOfCode 1 = some .notReady ∧
      readinessOfCode 0 = some .ready ∧ (s.shaper.motions.get .hoist).output ≠ 0 ∧ MayServe s .hoist ∧
      ∃ t, exec (.driveState .b ⟨2, 1, 0⟩) s = .next t ∧ t.alarms.driveFault.get .hg = true ∧ t.shaper.readiness.hg ≠ .ready := by
  refine ⟨⟨rfl, rfl⟩, ⟨rfl, fun g => ?_⟩, ⟨by simp [hoisting, State.reset], by decide, by decide, fun m => ?_, fun m => ?_,
    by simp [hoisting, State.reset]⟩, rfl, rfl, rfl, by decide, ⟨.inl rfl, rfl, rfl, by decide⟩, _, rfl, rfl, by decide⟩
  · cases g <;> simp [hoisting, State.reset, PerGroup.get]
  · cases m <;> simp [hoisting, State.reset, PerMotion.get]
  · cases m <;> simp [hoisting, State.reset, PerMotion.get]

/-- HOIST and SWING turn with their permits set, and HG reports FAULT: HOIST loses its service and is tripped, SWING,
which no DRIVE-FAULT affects, keeps its permit, its output and its brake, and the marks tell of the list change. -/
theorem witness_drive_fault_spares :
    let lifted : BrakeRecord := ⟨.released, 0, 0, false, true, false, false⟩
    let s : State := { hoisting with
      shaper := { hoisting.shaper with motions := { hoisting.shaper.motions with
        swing := { hoisting.shaper.motions.swing with permit := true, output := 150 } } }
      gate := { hoisting.gate with brakes := { hoisting.gate.brakes with swing := lifted } }
      alarms := { hoisting.alarms with driveReport := ⟨.ready, .ready, .ready⟩ } }
    LosesService s ⟨.fault, .ready, .ready⟩ .hoist ∧ ¬LosesService s ⟨.fault, .ready, .ready⟩ .swing ∧ BrakeLaw s ∧
      ∃ t, exec (.driveState .b ⟨2, 0, 0⟩) s = .next t ∧ DriveFaultTrips s t .hoist ∧ ¬DriveFaultTrips s t .swing ∧
        t.shaper.motions.hoist.permit = false ∧ t.shaper.motions.hoist.output = 0 ∧ t.gate.brakes.hoist.state = .setting ∧
        t.shaper.motions.swing.permit = true ∧ t.shaper.motions.swing.output = 150 ∧ t.gate.brakes.swing = lifted ∧
        t.shaper.references.outputs = ⟨0, 0, 150, 0⟩ ∧ t.ports.a.listChanged = true := by
  refine ⟨⟨by decide, ⟨.inl rfl, rfl, rfl, by simp [hoisting, State.reset]⟩, fun h => ?_⟩, fun h => h.2.2 ?_, fun m => ?_, _,
    rfl, ⟨.hg, rfl, rfl, rfl, by simp [hoisting, State.reset]⟩, fun h => ?_, rfl, rfl, rfl, rfl, rfl, rfl, rfl, rfl⟩
  · exact absurd h.2.2.1 (by decide)
  · exact ⟨.inl rfl, rfl, by simp [hoisting, State.reset]⟩
  · cases m <;> decide
  · obtain ⟨g, h1, -, h2, -⟩ := h
    cases g
    · cases h2
    · cases h1
    · cases h1

/-- A report that ends DRIVE-FAULT of HG, its entry acknowledged: no entry of it is left. -/
theorem witness_drive_fault_ends :
    let e := newEntry State.reset.alarms .dig .driveFault (.group .hg) none .activeAck
    let s : State := { State.reset with
      shaper := { State.reset.shaper with readiness := ⟨.fault, .ready, .ready⟩ }
      alarms := { State.reset.alarms with
        list := [e], driveReport := ⟨.fault, .ready, .ready⟩, driveFault := ⟨true, false, false⟩ } }
    PortFree .b s ∧ DriveLaw s ∧ AlarmListLaw s ∧ readinessOfCode 0 = some .ready ∧
      ∃ t, exec (.driveState .b ⟨0, 0, 0⟩) s = .next t ∧ t.alarms.driveFault.get .hg = false ∧
        s.alarms.driveFault.get .hg = true ∧ t.alarms.list = [] := by
  refine ⟨⟨rfl, rfl⟩, ⟨rfl, fun g => ?_⟩, ⟨?_, by decide, by decide, fun m => ?_, fun m => ?_, ?_⟩, rfl, _, rfl, rfl, rfl, rfl⟩
  · cases g <;> simp [State.reset, PerGroup.get]
  · simp [newEntry, inCodeTable]
  · cases m <;> simp [State.reset, PerMotion.get, newEntry, alarmClass]
  · cases m <;> simp [State.reset, PerMotion.get, newEntry, alarmClass]
  · simp [State.reset, newEntry, alarmClass]

/-- A port holding a request, and a request on a port that may not carry it. -/
theorem witness_PortRefusesBeforeOwners :
    PortFree .b State.reset ∧ (0x15 < (0x16 : Byte).toNat) ∧ (0 : Byte).toNat = 0 ∧
      requestOf (.restart .b) = some (.b, .restart) ∧ mayCarry .b .restart = false ∧
      (let s := holdAnswer .b .readStatus 0x81 .accepted [] State.reset;
        s.power = .running ∧ (s.ports.links.get .b).held.isSome = true) :=
  ⟨⟨rfl, rfl⟩, by decide, rfl, rfl, rfl, rfl, rfl⟩

/-- The first and the last arguments of the reads, and the first past them. -/
theorem witness_ReadsAnswerTheState :
    PortFree .c State.reset ∧ 1 ≤ (1 : Byte).toNat ∧ (8 : Byte).toNat ≤ 8 ∧ (31 : Byte).toNat ≤ 31 ∧
      8 < (9 : Byte).toNat ∧ 31 < (32 : Byte).toNat ∧ State.reset.scanner.snapshot = none ∧
      groupOfCode 9 = some .sequencer ∧ State.reset.envelope.table[(23 : Byte).toNat]? = some ⟨none, false⟩ ∧
      (editing .open .idle).envelope.buffer[(23 : Byte).toNat]? = some ⟨none, false⟩ ∧ 23 < (24 : Byte).toNat ∧
      (∃ snap, (scannerScan ⟨0, 0, 0, 0, 0⟩ State.reset).scanner.snapshot = some snap) :=
  ⟨⟨rfl, rfl⟩, by decide, by decide, by decide, by decide, by decide, rfl, rfl, rfl, rfl, by decide, ⟨_, rfl⟩⟩

/-- The factory COMMON shown with every field present, a SLOW entry with one cap absent, and the ends of lists of codes:
BLIND is the envelope condition 2, SETTINGS-CHECK the alarm code 17, PORT-C the source 23, SEQUENCER the record 20. -/
theorem witness_RecordsReadBack :
    profileOfCode 0 = some .common ∧ (127 : Byte).getLsbD 6 = (shownProfile State.reset.shaper.profiles .common).idleSet.isSome ∧
      (127 : Byte).getLsbD 7 = false ∧ encoderOfNumber (4 : Byte).toNat = some .camRight ∧
      analogOfNumber (9 : Byte).toNat = some .supplyVoltage ∧ SettingGroup.gate ≠ .profile ∧
      SettingGroup.gate ≠ .calibration ∧ (1 : Byte) ≠ 0 ∧ conditionCode .blind = 2 ∧
      AlarmCode.listed[17]? = some .settingsCheck ∧ Source.listed[23]? = some .portC ∧
      SettingsRecord.all[20]? = some .sequencer ∧
      rawEntry (.slow ⟨0, 0, 0, 0, 0, 0⟩ 5 ⟨700, 0, 400⟩) =
        some (some (.slow ⟨0, 0, 0, 0, 0, 0⟩ ⟨some 700, none, some 400⟩)) := by decide

/-- The steps of a port: each stage of a frame, with a length at its end and one past it, and a request held. -/
theorem witness_PortStepsChangeTheLinkAlone :
    (∀ h, ({ frame := none, held := some h, sending := [] } : PortLink).held = some h) ∧
      (∀ f, let s : State := { State.reset with ports := { State.reset.ports with
          links := State.reset.ports.links.set .b ⟨f, none, []⟩ } }
        s.power = .running ∧ (s.ports.links.get .b).frame = f) ∧
      (96 : Byte).toNat ≤ 96 ∧ ¬(97 : Byte).toNat ≤ 96 :=
  ⟨fun _ => rfl, fun _ => ⟨rfl, rfl⟩, by decide, by decide⟩

theorem witness_PayloadsReadBack :
    lengthFits (.writeCalibration 4 (.encoder 0 360 1)) = true ∧ lengthFits (.writeCalibration 5 (.encoder 0 360 1)) = false ∧
      lengthFits (parseRequest 0x0D [9, 20]) = true := by decide

/-- Port B: a MODE-REQUEST without its byte, of a kind that is not Port B's, and a DRIVE-STATE of two bytes. -/
theorem witness_wrong_length (kind : Byte) (payload : List Byte)
    (h : kind = 0x03 ∧ payload = [] ∨ kind = 0x0B ∧ payload = [0, 0]) :
    PortFree .b State.reset ∧ Coherent State.reset ∧ isRequestKind kind = true ∧ payload.length ≤ 96 ∧
      (kind ∈ kindsOf .b ↔ kind = 0x0B) ∧
      ∀ r, lengthFits r = true → kindOf r = kind → payloadOf r ≠ payload := by
  have hc : Coherent State.reset := by
    refine ⟨fun m => ?_, ?_, fun _ => ⟨fun m => ?_, fun m => ?_, ?_, ?_, ?_, ?_⟩, fun h => absurd rfl h⟩
    · rw [← inService_iff]; cases m <;> decide
    · rw [← walkPermitOk_iff]; decide
    · rw [← brakeEnergised_iff]; cases m <;> decide
    · rw [← brakeEnergised_iff, ← inService_iff]; cases m <;> decide
    all_goals decide
  refine ⟨⟨rfl, rfl⟩, hc, ?_⟩
  rcases h with ⟨rfl, rfl⟩ | ⟨rfl, rfl⟩ <;> refine ⟨by decide, by decide, by decide, fun r hr hk => ?_⟩ <;>
    cases r <;> first | (simp [kindOf, lengthFits] at hk hr; done) | simp_all [payloadOf, kindOf, lengthFits]

theorem witness_FramesDeliverRequests :
    State.reset.power = .running ∧ (State.reset.ports.links.get .c).frame = none ∧
      requestOf (.writeSettingSequencer .c 20) = some (.c, .writeSequencer 20) ∧
      lengthFits (.writeSequencer 20) = true ∧ isRequestKind 0x16 = false ∧ (List.replicate 96 (0 : Byte)).length ≤ 96 := by
  decide

/-- A wrong check word: the characters of a frame of no payload, with the check of another kind. -/
theorem witness_wrong_check : (0 : Half) ≠ frameCheck 0x01 0 [] := by decide +kernel

theorem witness_RestartKeepsAndClears :
    PortFree .c State.reset ∧ State.reset.sequencer.mode = .parked ∧ State.reset.store = .idle := ⟨⟨rfl, rfl⟩, rfl, rfl⟩

/-! ### The laws every step keeps, in a part at work -/

/-- The hoisting part with what follows from the rest formed and its drives reported, and a period to come. -/
def lawful : State :=
  settle { hoisting with
    shaper := { hoisting.shaper with references := { hoisting.shaper.references with outputs := ⟨-200, 0, 0, 0⟩ } }
    alarms := { hoisting.alarms with driveReport := ⟨.ready, .ready, .ready⟩ }
    pending := [.periodExpiry] }

/-- A step of it answers a next state with another output. -/
theorem witness_step : ∃ t, step lawful = .next t ∧ (t.shaper.motions.get .hoist).output = -220 := ⟨_, rfl, rfl⟩

theorem witness_CoherenceIsKept : Coherent lawful := by
  refine ⟨fun m => ?_, ?_, fun _ => ⟨fun m => ?_, fun m => ?_, ?_, ?_, ?_, ?_⟩, fun h => absurd rfl h⟩
  · rw [← inService_iff]; cases m <;> decide
  · rw [← walkPermitOk_iff]; decide
  · rw [← brakeEnergised_iff]; cases m <;> decide
  · rw [← brakeEnergised_iff, ← inService_iff]; cases m <;> decide
  all_goals decide

theorem witness_AlarmAndPermitLawsAreKept : AlarmListLaw lawful ∧ PermitLaw lawful := by
  constructor
  · refine ⟨by simp [lawful, settle, hoisting, State.reset], by decide, by decide, fun m => ?_, fun m => ?_, ?_⟩
    · rw [← classFlag_iff]; cases m <;> decide
    · rw [← classFlag_iff]; cases m <;> decide
    · rw [← hornSounds_iff]; decide
  · intro m h
    rw [← tripAffects_iff] at h
    cases m <;> exact absurd h (by decide)

theorem witness_RangeLawsAreKept : ProfileLaw lawful ∧ TableLaw lawful ∧ MeasuredLaw lawful := by
  refine ⟨?_, ⟨by decide, by decide, by decide, ?_, ?_, ?_, ?_, ?_⟩, ?_, ?_, ?_⟩
  · simp [ProfileLaw, ProfileInRange, PartialInRange, Within, lawful, settle, hoisting, State.reset, Memory.factory,
      Config.factoryCommon, Config.factoryPartial, Store.records]
  · simp [lawful, settle, hoisting, State.reset]
  · simp [lawful, settle, hoisting, State.reset]
  · simp [lawful, settle, hoisting, State.reset]
  · have h : lawful.memory.load = Memory.factory.load := rfl
    rw [h, Memory.factory_load]
    simp
  · simp [lawful, settle, hoisting, State.reset, Store.records]
  · intro e; cases e <;> exact ⟨⟨by decide, by decide⟩, ⟨by decide, by decide⟩⟩
  · intro a; cases a <;> exact ⟨⟨by decide, by decide⟩, ⟨by decide, by decide⟩⟩
  · simp [Between, lawful, settle, hoisting, State.reset]

theorem witness_OutputAndPublishedLawsAreKept : OutputLaw lawful ∧ PublishedLaw lawful := by
  refine ⟨fun m h => ?_, fun m => by cases m <;> rfl, ⟨by decide, .inl rfl⟩, ⟨by decide, .inl rfl⟩⟩
  cases m with
  | hoist => exact ⟨⟨.inl rfl, rfl, rfl, by decide⟩, rfl, rfl⟩
  | drag => exact absurd rfl h
  | swing => exact absurd rfl h
  | walk => exact absurd rfl h

theorem witness_QueueAndOrderLawsAreKept : QueueLaw lawful ∧ OrderLaw lawful := by
  refine ⟨⟨by decide, by simp [lawful, settle, hoisting, State.reset]⟩, ?_, ?_, ?_, ?_, ?_, ?_⟩ <;>
    simp [lawful, settle, hoisting, State.reset]

theorem witness_BrakeFreshnessAndDriveLawsAreKept : BrakeLaw lawful ∧ FreshnessLaw lawful ∧ DriveLaw lawful := by
  refine ⟨fun m => by cases m <;> decide, ⟨by decide, by decide, fun h => absurd rfl h, by decide, by decide, fun m => ?_⟩, rfl,
    fun g => ?_⟩
  · cases m <;> exact ⟨by decide, by decide⟩
  · cases g <;> simp [lawful, settle, hoisting, State.reset, PerGroup.get]

end Sys2Proof.Tests
end

section
/-! What a scan completion leaves where only its reports act, and the two statements of the measurement channels that
rest on it: the snapshot and the frame of SCAN_COMPLETION (R1, R2, R18, R38, R74, R108, R130, R135, R155), and the
swing's range (R6). -/

namespace Sys2Proof.Machine

/-! ### The command -/

theorem exec_scanCompletion_running (conversions : PerAnalog Sample) {s : State} (h : s.power = .running) :
    exec (.scanCompletion conversions) s = .next (settle (scanAll conversions s)) := if_pos h

/-! ### The snapshot (R2, R7, R8, R11) -/

theorem scanSnapshot_encoder (conversions : PerAnalog Sample) (x : Scanner) (e : EncoderId) :
    (scanSnapshot conversions x).encoders.get e = sampleEncoder ((scanChannels conversions x).encoders.get e) :=
  PerEncoder.get_map _ _ _

theorem scanSnapshot_analog (conversions : PerAnalog Sample) (x : Scanner) (a : AnalogId) :
    (scanSnapshot conversions x).analogs.get a = sampleAnalog ((scanChannels conversions x).analogs.get a) :=
  PerAnalog.get_map _ _ _

theorem scanChannels_encoder (conversions : PerAnalog Sample) (x : Scanner) (e : EncoderId) :
    (scanChannels conversions x).encoders.get e = scanEncoder e (x.encoders.get e) := PerEncoder.get_map _ _ _

theorem scanChannels_analog (conversions : PerAnalog Sample) (x : Scanner) (a : AnalogId) :
    (scanChannels conversions x).analogs.get a = scanAnalog a (conversions.get a) (x.analogs.get a) :=
  PerAnalog.get_map _ _ _

theorem camAngle_eq_emod (position : Int) : (camAngle position : Int) = position % 360 :=
  Int.toNat_of_nonneg (Int.emod_nonneg _ (by decide))

/-! ### What reports leave of a motion and its brake (R96, R108) -/

/-- Drop orders touch neither the feedback nor the fail condition, and only a lifted brake changes its state. -/
theorem dropped_keeps {b b' : BrakeRecord} (h : dropped b b') :
    b'.feedback = b.feedback ∧ b'.fail = b.fail ∧ (b'.state = b.state ∨ b'.state = .setting ∧ Lifted b) := by
  obtain ⟨state, _, _, _, _, _, _⟩ := b
  rcases h with rfl | rfl <;> cases state <;> simp [dropBrake, Lifted]

theorem OnlyReports.brake {s t : State} (h : OnlyReports s t) (m : Motion) :
    (t.gate.brakes.get m).feedback = (s.gate.brakes.get m).feedback ∧
    (t.gate.brakes.get m).fail = (s.gate.brakes.get m).fail ∧
    ((t.gate.brakes.get m).state = (s.gate.brakes.get m).state ∨
      (t.gate.brakes.get m).state = .setting ∧ Lifted (s.gate.brakes.get m)) := by
  rcases h.motion m with ⟨-, h⟩ | ⟨-, h⟩
  · rw [h]
    exact ⟨rfl, rfl, .inl rfl⟩
  · exact dropped_keeps h

theorem OnlyReports.output {s t : State} (h : OnlyReports s t) (m : Motion) :
    (t.shaper.motions.get m).output = (s.shaper.motions.get m).output ∨
    (t.shaper.motions.get m).output = 0 ∧ (t.shaper.motions.get m).permit = false := by
  rcases h.motion m with ⟨h, -⟩ | ⟨h, -⟩ <;> rw [h]
  · exact .inl rfl
  · exact .inr ⟨rfl, rfl⟩

/-- Reports publish other outputs and nothing else of the shaper's own (R96). -/
theorem OnlyReports.shaper_keeps {s t : State} (h : OnlyReports s t) :
    t.shaper.weights = s.shaper.weights ∧ t.shaper.shedOrder = s.shaper.shedOrder ∧
    t.shaper.overdraw = s.shaper.overdraw ∧ t.shaper.overdrawCount = s.shaper.overdrawCount ∧
    t.shaper.references.shed = s.shaper.references.shed ∧ t.shaper.references.period = s.shaper.references.period ∧
    t.shaper.period = s.shaper.period := by
  rw [h.shaper]
  exact ⟨rfl, rfl, rfl, rfl, rfl, rfl, rfl⟩

/-- The tracker's quantities are no report's business. -/
theorem OnlyReports.walk_eq {s t : State} (h : OnlyReports s t) :
    t.walk = { s.walk with walkLeft := t.walk.walkLeft, walkRight := t.walk.walkRight } := by
  rcases h.walk with ⟨-, h⟩ | ⟨-, h⟩ <;> rw [h]

/-! ### The scanned blocks -/

/-- A snapshot leaves the side references and the settings of the tracker (R135). -/
theorem scannedWalk_keeps (snap : Snapshot) (w : WalkTracker) :
    (scannedWalk snap w).walkLeft = w.walkLeft ∧ (scannedWalk snap w).walkRight = w.walkRight ∧
    (scannedWalk snap w).settings = w.settings := by
  unfold scannedWalk trackWalk
  simp only
  split <;> exact ⟨rfl, rfl, rfl⟩

/-- The scanned blocks, read off the state a scan completion leaves: its reports change nothing of them but the side
references. -/
theorem scannedBlocks_of_scanAll (conversions : PerAnalog Sample) (s : State) :
    let t := scanAll conversions s
    { s with
      scanner := t.scanner, envelope := t.envelope, bands := t.bands
      walk := { t.walk with walkLeft := s.walk.walkLeft, walkRight := s.walk.walkRight } } =
    scannedBlocks conversions s := by
  have h := scanAll_reports conversions s
  obtain ⟨hl, hr, -⟩ := scannedWalk_keeps (scanSnapshot conversions s.scanner) s.walk
  simp only
  rw [h.scanner, h.envelope, h.bands, h.walk_eq, ← hl, ← hr]
  rfl

/-- The reports of a scan are read off the four blocks alone. -/
theorem scanReports_congr {s t u : State} {snap : Snapshot} {trips : Group → Bool} (hs : t.scanner = u.scanner)
    (he : t.envelope = u.envelope) (hb : t.bands = u.bands) (hw : t.walk.skewCondition = u.walk.skewCondition) :
    scanReports s t snap trips = scanReports s u snap trips := by
  simp only [scanReports, hs, he, hb, hw]

/-! ### The integrators (R29 to R31) -/

theorem stepIntegrator_trips_iff (held : Bool) (level count : Nat) (i : Int) (n : Nat) :
    (stepIntegrator held level count i n).2 = true ↔
      held = false ∧ count ≤ if level < i.natAbs then n + 1 else n - 1 := by
  unfold stepIntegrator
  cases held
  · by_cases h : count ≤ if level < i.natAbs then n + 1 else n - 1 <;> simp only [h] <;> simp
  · simp

/-- A group's integrator is held while its channel is in FAULT and, but for SG, while an order is PENDING (R31). -/
theorem scanIntegrator_trips_iff (s : State) (snap : Snapshot) (g : Group) :
    (scanIntegrator s.bands (orderPending s.sequencer) snap g).2 = true ↔ IntegratorTrips s snap g := by
  have held : (blanked (orderPending s.sequencer) g || (snap.analogs.get (currentChannel g)).state != .valid) = false ↔
      (snap.analogs.get (currentChannel g)).state = .valid ∧ (g = .sg ∨ s.sequencer.record.order ≠ .pending) := by
    cases g <;> simp [blanked, orderPending, and_comm]
  rw [scanIntegrator, stepIntegrator_trips_iff, held, and_assoc]
  rfl

/-! ### The reports of a scan and what they spare -/

/-- The groups whose integrator trips at a scan completion, as the Band Monitor forms them (R30). -/
def integratorTrips (conversions : PerAnalog Sample) (s : State) (g : Group) : Bool :=
  (scanIntegrator s.bands (orderPending s.sequencer) (scanSnapshot conversions s.scanner) g).2

/-- The reports of a scan completion, read off the scanned blocks. -/
def reportsOfScan (conversions : PerAnalog Sample) (s : State) : List Report :=
  scanReports s (scannedBlocks conversions s) (scanSnapshot conversions s.scanner) (integratorTrips conversions s)

theorem scanAll_eq_takeReports (conversions : PerAnalog Sample) (s : State) :
    scanAll conversions s = takeReports (reportsOfScan conversions s) (scannedBlocks conversions s) :=
  scanAll_told conversions s

/-- A motion that no report of the scan may trip keeps its record and its brake, and so the side references of WALK. -/
theorem scanAll_spares {conversions : PerAnalog Sample} {s : State} {m : Motion}
    (h : ∀ r ∈ reportsOfScan conversions s, ¬r.MayTrip s.sequencer.record.arrangement m) :
    (scanAll conversions s).shaper.motions.get m = s.shaper.motions.get m ∧
      (scanAll conversions s).gate.brakes.get m = s.gate.brakes.get m ∧
      (m = .walk → (scanAll conversions s).walk = scannedWalk (scanSnapshot conversions s.scanner) s.walk) := by
  rw [scanAll_eq_takeReports]
  exact takeReports_spares h

/-- Where no report of the scan affects all four motions, the sequencer stands (R130). -/
theorem scanAll_sequencer {conversions : PerAnalog Sample} {s : State}
    (h : ∀ r ∈ reportsOfScan conversions s, ∃ m, ¬r.MayTrip s.sequencer.record.arrangement m) :
    (scanAll conversions s).sequencer = s.sequencer := by
  rw [scanAll_eq_takeReports]
  exact takeReports_sequencer h

/-! ### The range of an encoder channel (R6, R12) -/

/-- The swing's value is a remainder of the counts per revolution brought to 3600 parts, so it stays below 3600 (R6). -/
theorem swing_scales_within {cal : EncoderCal} {count : Word} {v : Int} (scale : 0 < cal.scale)
    (h : EncoderScales .swingAngle cal count v) : 0 ≤ v ∧ v ≤ 3599 := by
  have pos : (0 : Int) < cal.scale := by exact_mod_cast scale
  obtain ⟨low, high⟩ := h
  have nonneg := Int.emod_nonneg (count - cal.offset).toInt pos.ne'
  have below := Int.emod_lt_of_pos (count - cal.offset).toInt pos
  have above : (0 : Int) < (v + 1) * cal.scale := by omega
  have less : v * cal.scale < 3600 * cal.scale := by omega
  have := (mul_pos_iff_of_pos_right pos).1 above
  have := lt_of_mul_lt_mul_right less pos.le
  omega

/-- A value within its channel's range is not clamped and sets no mark (R12). -/
theorem EncoderScanned.of_within {e : EncoderId} {v : Int} {before after : EncoderRecord}
    (h : EncoderScanned e v before after) (low : encoderLow e ≤ v) (high : v ≤ encoderHigh e) :
    after.scaled = v ∧ after.marks.below = before.marks.below ∧ after.marks.above = before.marks.above := by
  obtain ⟨-, -, -, -, scaled, -, below, above, -⟩ := h
  rw [if_neg low.not_gt, if_neg high.not_gt] at scaled
  refine ⟨scaled, Bool.eq_iff_iff.2 ?_, Bool.eq_iff_iff.2 ?_⟩
  · simpa [low.not_gt] using below
  · simpa [high.not_gt] using above

/-! ### The statements -/

/-- Settles O12: the snapshot is the one of the scanned records; a scan is the reports of the four scanned blocks
(`scanAll_reports`), and which reports those are decides what is spared (`scanAll_told`). -/
theorem scanPublishesAndKeeps : Obligations.ScanPublishesAndKeeps := by
  unfold Obligations.ScanPublishesAndKeeps
  refine ⟨fun s conversions running => ?_, fun s conversions running => ?_, fun s conversions running => ?_⟩
  · have hx : (scanAll conversions s).scanner = scanChannels conversions s.scanner :=
      (scanAll_reports conversions s).scanner
    refine ⟨_, scanSnapshot conversions s.scanner, exec_scanCompletion_running conversions running, ?_⟩
    simp only [settle_scanner, hx]
    refine ⟨rfl, rfl, rfl, fun e => scanSnapshot_encoder _ _ e, fun a => ?_, camAngle_eq_emod _, camAngle_eq_emod _⟩
    rw [scanSnapshot_analog, scanChannels_analog]
    rfl
  · have h := scanAll_reports conversions s
    obtain ⟨shWeights, shOrder, shOverdraw, shCount, shShed, shNumber, shPeriod⟩ := h.shaper_keeps
    refine ⟨_, exec_scanCompletion_running conversions running, ?_⟩
    simp only [settle_motion]
    refine ⟨congrArg (·.reportDue) h.scanner, congrArg (·.reportDue) h.bands, congrArg (·.reportDue) h.walk_eq, ?_,
      congrArg (·.reportDue) h.gate, h.power, h.store, h.memory, h.feedbackInputs, h.pending, h.links, h.portA, h.portC,
      fun e => ?_, fun a => ?_, congrArg (·.table) h.envelope, congrArg (·.tableFailed) h.envelope,
      congrArg (·.generation) h.envelope, congrArg (·.buffer) h.envelope, congrArg (·.edit) h.envelope,
      congrArg (·.thresholds) h.bands, congrArg (·.boomSettings) h.bands, congrArg (·.trip) h.bands,
      congrArg (·.budgets) h.bands, h.profiles, h.readiness, shPeriod, shWeights, shOrder, shOverdraw, shCount, shShed,
      shNumber, congrArg (·.confirm) h.gate, h.record, h.timeout, ?_, h.seconds, h.driveReport, h.driveFault,
      ?_, fun m => ⟨h.request m, h.output m, h.brake m⟩⟩
    · simp only [settle_envelope, settle_scanner, h.envelope, h.scanner]
      exact scannedEnvelope_told _ _ _
    · simp only [settle_scanner, h.scanner, scannedBlocks, scanChannels_encoder]
      exact ⟨rfl, rfl⟩
    · simp only [settle_scanner, h.scanner, scannedBlocks, scanChannels_analog]
      rfl
    · exact (congrArg (·.settings) h.walk_eq).trans (scannedWalk_keeps _ _).2.2
    · rcases h.mode with h | h
      · exact .inl h
      · exact .inr (h ▸ modeAfterTrip_trippedTo _)
  · have h := scanAll_reports conversions s
    have same : scanReports s (settle (scanAll conversions s)) (scanSnapshot conversions s.scanner)
        (integratorTrips conversions s) = reportsOfScan conversions s :=
      scanReports_congr h.scanner h.envelope h.bands (congrArg (·.skewCondition) h.walk_eq)
    refine ⟨_, scanSnapshot conversions s.scanner, integratorTrips conversions s,
      exec_scanCompletion_running conversions running, congrArg (·.snapshot) h.scanner, scanIntegrator_trips_iff s _, ?_⟩
    rw [same]
    refine ⟨?_, fun m hm => ?_, fun hm => ?_, fun hr => ?_⟩
    · exact congrArg settle ((scanAll_eq_takeReports conversions s).trans
        (congrArg (takeReports (reportsOfScan conversions s)) (scannedBlocks_of_scanAll conversions s).symm))
    · obtain ⟨motion, brake, -⟩ := scanAll_spares hm
      rw [settle_motion, motion]
      exact ⟨rfl, brake⟩
    · obtain ⟨-, -, walk⟩ := scanAll_spares hm
      obtain ⟨left, right, -⟩ := scannedWalk_keeps (scanSnapshot conversions s.scanner) s.walk
      rw [settle_walk, walk rfl]
      exact ⟨left, right⟩
    · rw [← scanAll_sequencer hr]
      rfl

/-- Settles O14: the scan's value is the formula's, the formula's is in range, and in range nothing is clamped. -/
theorem swingIsNeverClamped : Obligations.SwingIsNeverClamped := by
  unfold Obligations.SwingIsNeverClamped
  refine ⟨fun _ _ _ => swing_scales_within, fun s conversions running scale => ?_⟩
  let r := s.scanner.encoders.swingAngle
  have scales := encoderScaled_scales .swingAngle r.cal r.count scale
  obtain ⟨low, high⟩ := swing_scales_within scale scales
  obtain ⟨scaled, below, above⟩ := (scanEncoder_scanned .swingAngle r).of_within low high
  have after : (scanAll conversions s).scanner.encoders.swingAngle = scanEncoder .swingAngle r :=
    congrArg (·.encoders.swingAngle) (scanAll_reports conversions s).scanner
  refine ⟨_, exec_scanCompletion_running conversions running, ?_⟩
  rw [settle_scanner, after]
  exact ⟨scaled ▸ scales, below, above⟩

end Sys2Proof.Machine
end

section
/-!
The proof of the statement on sectors (03): the circular difference of two swing angles, by which of them is the
greater, and the model's test of a sector by these differences.
-/
namespace Sys2Proof.Machine

/-! ### The circular difference (R39) -/

/-- From an angle up to a greater or equal one, the way clockwise does not pass 0. -/
theorem swingDiff_of_le {x y : Int} (le : y ≤ x) (low : 0 ≤ y) (high : x ≤ 3599) : swingDiff x y = x - y :=
  Int.emod_eq_of_lt (by omega) (by omega)

/-- From an angle to a lesser one, the way clockwise passes 0 once. -/
theorem swingDiff_of_lt {x y : Int} (lt : x < y) (low : 0 ≤ x) (high : y ≤ 3599) :
    swingDiff x y = x - y + 3600 :=
  (Int.add_emod_right ..).symm.trans (Int.emod_eq_of_lt (by omega) (by omega))

/-! ### The sector (R39) -/

theorem inSector_iff {box : ZoneBox Nat} {θ : Int} :
    inSector box θ = true ↔
      box.sectorFrom = box.sectorTo ∨ swingDiff θ box.sectorFrom ≤ swingDiff box.sectorTo box.sectorFrom := by
  simp [inSector]

/-- Settles O19: the sector's end and the angle each lie on the way clockwise from its from before 0 or past it, and
the test compares the two ways. -/
theorem sectorRunsClockwise : Obligations.SectorRunsClockwise := by
  unfold Obligations.SectorRunsClockwise
  intro box θ fromHigh toHigh low high
  rw [inSector_iff]
  have angleBefore (le : (box.sectorFrom : Int) ≤ θ) := swingDiff_of_le le (by omega) high
  have anglePast (lt : θ < box.sectorFrom) := swingDiff_of_lt lt low (by omega)
  obtain lt | eq | lt := lt_trichotomy box.sectorFrom box.sectorTo
  · have toBefore : swingDiff box.sectorTo box.sectorFrom = _ := swingDiff_of_le (by omega) (by omega) (by omega)
    omega
  · simp [eq]
  · have toPast : swingDiff box.sectorTo box.sectorFrom = _ := swingDiff_of_lt (by omega) (by omega) (by omega)
    omega

end Sys2Proof.Machine
end

section
/-!
The proof of the statement on a repeated MOTION-REQUEST (04): the port passes the request to its owner, and the owner
answers a repetition on the state as it stands (R71, R170).
-/
namespace Sys2Proof.Machine

@[simp] theorem markOfCode_bool8 (mark : Bool) : markOfCode (bool8 mark) = some mark := by
  cases mark <;> rfl

/-- The code of a freshness state that is not NEVER (R188). -/
theorem freshnessCode_of_ne_never {f : Freshness} (h : f ≠ .never) : freshnessCode f = if f = .fresh then 1 else 2 := by
  cases f with
  | never => exact absurd rfl h
  | fresh => rfl
  | stale => rfl

/-- Port A carries a MOTION-REQUEST of every mark and references, so its owner judges it (R170). -/
theorem judgeRequest_motionRequest (mark : Byte) (refs : PerMotion Half) (s : State) :
    judgeRequest .a (.motionRequest mark refs) s = takeMotionRequest mark refs s := rfl

/-- The kind of the response to a MOTION-REQUEST (R171). -/
theorem responseKind_motionRequest (mark : Byte) (refs : PerMotion Half) :
    kindOf (.motionRequest mark refs) ||| 0x80 = 0x82 := by
  rw [kindOf]
  decide

/-- A repetition is answered on the state as it stands; its references are not read (R69, R71). -/
theorem takeMotionRequest_repeated {s : State} {mark : Bool} (taken : s.ports.a.freshness ≠ .never)
    (last : s.ports.a.lastMark = some mark) (refs : PerMotion Half) :
    takeMotionRequest (bool8 mark) refs s = (⟨.repeated, motionReply s⟩, s) := by
  simp only [takeMotionRequest, markOfCode_bool8]
  exact if_pos ⟨taken, last⟩

/-- Settles O25: the request is delivered to its owner (`exec_request_free`), which leaves the state to a repetition
(`takeMotionRequest_repeated`). -/
theorem repeatedMotionRequestChangesNothing : Obligations.RepeatedMotionRequestChangesNothing := by
  unfold Obligations.RepeatedMotionRequestChangesNothing
  intro s mark refs free taken last
  have delivered := exec_request_free (c := .motionRequest .a (bool8 mark) refs) rfl free
  rw [judgeRequest_motionRequest, takeMotionRequest_repeated taken last, responseKind_motionRequest, motionReply,
    freshnessCode_of_ne_never taken] at delivered
  exact delivered

end Sys2Proof.Machine
end

section
/-!
What one stage of a period expiry makes of its own part, in the terms of the statements: the overdraw count (R94), the
side references (R140), the association check (R65) and each brake's notification (R102 to R107, R109).
-/
namespace Sys2Proof.Machine

/-! ### Overdraw (R90, R94) -/

theorem demandOf_eq_demand (w : PerMotion Nat) (o : PerMotion Int) : demandOf w o = demand w o := by
  simp [demandOf, Motion.all, demand, demandTerm, PerMotion.get, Nat.add_assoc]

theorem overdrawStep_counted (present exceeds : Bool) (count : Nat) :
    OverdrawCounted exceeds present count (overdrawStep present exceeds count).1
      (overdrawStep present exceeds count).2 := by
  unfold OverdrawCounted overdrawStep Config.overdrawPeriods
  by_cases same : present = exceeds
  · rw [if_pos same]
    exact ⟨fun _ => ⟨rfl, rfl⟩, fun differ => absurd same.symm differ, fun differ => absurd same.symm differ⟩
  · rw [if_neg same]
    refine ⟨fun equal => absurd equal.symm same, fun _ below => ?_, fun _ reached => ?_⟩
    · rw [if_pos below]
      exact ⟨rfl, rfl⟩
    · rw [if_neg reached.not_gt]
      exact ⟨rfl, rfl⟩

/-! ### The side references (R140) -/

theorem walkSides_formed (skew ow : Int) (gain : Nat) :
    SidesFormed skew gain ow (walkLeftOf skew ow gain) (walkRightOf skew ow gain) := by
  have trim : (ow.natAbs - trimOf skew ow gain : Int) = (ow.natAbs - trimOf skew ow gain : Nat) :=
    (Int.ofNat_sub (Nat.min_le_left _ _)).symm
  refine ⟨fun still => by simp [still], fun left => ?_, fun right => ?_, fun level => ?_⟩
  · rw [walkLeftOf, walkRightOf, if_pos left, if_neg left.not_gt, trim]
    exact ⟨rfl, rfl⟩
  · rw [walkLeftOf, walkRightOf, if_pos right, if_neg right.not_gt, trim]
    exact ⟨rfl, rfl⟩
  · simp [walkLeftOf, walkRightOf, level]

theorem sidesFormed_zero (skew : Int) (gain : Nat) : SidesFormed skew gain 0 0 0 := by
  simpa using walkSides_formed skew 0 gain

/-! ### The motion record (R65, R79, R95) -/

theorem checkAssociation_settleMotion (r : MotionRecord) (f : Formed) (out : Int) (shed : Bool) :
    checkAssociation (settleMotion r f out shed) =
      { r with
        output := out, prevOutput := r.output, target := f.target, reversalPending := f.reversalPending, dwell := f.dwell
        lastDirection := if out = 0 then r.lastDirection else if 0 < out then some .positive else some .negative
        shed := shed
        association := if out = 0 then r.pendingAssociation.getD r.association else r.association
        pendingAssociation := if out = 0 then none else r.pendingAssociation } := by
  cases pending : r.pendingAssociation <;> by_cases still : out = 0 <;>
    simp [checkAssociation, settleMotion, pending, still, directionOf]

/-- A pending association takes force where the output is 0 (R65). -/
theorem association_joins {pending : Option ProfileName} {inForce n : ProfileName} {out : Int}
    (asked : pending = some n) (still : out = 0) :
    (if out = 0 then pending.getD inForce else inForce) = n ∧ (if out = 0 then none else pending) = none := by
  simp [asked, still]

/-- With nothing pending, or with the output not 0, the associations stand (R65). -/
theorem association_stands {pending : Option ProfileName} {inForce : ProfileName} {out : Int}
    (stands : pending = none ∨ out ≠ 0) :
    (if out = 0 then pending.getD inForce else inForce) = inForce ∧ (if out = 0 then none else pending) = pending := by
  rcases stands with none | moves
  · simp [none]
  · simp [moves]

/-! ### The brakes (R102 to R107, R109) -/

theorem Notice.idle_iff (n : Notice) : n.idle = true ↔ n.target = 0 ∧ n.output = 0 := by simp [Notice.idle]

/-- The four steps of a notification at a brake are those of the rules (`BrakeNotified`). -/
def BrakeInput.Notifies (x : BrakeInput) (b : BrakeRecord) : Prop :=
  BrakeNotified x.notice.target x.notice.output x.notice.release x.named x.releaseDelay x.idleSet x.confirm b
    (notifyBrake x b).brake (notifyBrake x b).raised

theorem notifies_set {x : BrakeInput} {b : BrakeRecord} (state : b.state = .set) : x.Notifies b := by
  rw [BrakeInput.Notifies, notifyBrake_set x b state, actOnRelease]
  cases x.notice.release <;> constructor <;> simp [toReleasing, state]

/-- The tests of RELEASING in their order: lifted, failed to lift, stopped, still waiting (R104, R109). -/
theorem notifies_releasing {x : BrakeInput} {b : BrakeRecord} (state : b.state = .releasing)
    (release : x.notice.release = false) : x.Notifies b := by
  rw [BrakeInput.Notifies, notifyBrake_releasing x b state release, testReleasing]
  by_cases lifts : x.releaseDelay ≤ min 65535 (b.count + 1) ∧ b.feedback = true
  · rw [if_pos lifts]
    constructor <;> simp [state, lifts]
  rw [if_neg lifts]
  by_cases late : x.releaseDelay + x.confirm ≤ min 65535 (b.count + 1) ∧ (!b.feedback) = true
  · rw [if_pos late]
    constructor <;> simp_all [failBrake, toSetting]
  rw [if_neg late]
  simp only [Bool.and_eq_true, Notice.idle_iff]
  split <;> constructor <;> simp_all [toSetting]

theorem notifies_released {x : BrakeInput} {b : BrakeRecord} (state : b.state = .released)
    (release : x.notice.release = false) : x.Notifies b := by
  rw [BrakeInput.Notifies, notifyBrake_released x b state release]
  simp only [Notice.idle_iff]
  generalize counted : (if x.notice.target = 0 ∧ x.notice.output = 0 then min 2400 (b.idle + 1) else 0) = idle
  by_cases sets : x.idleSet ≤ idle ∨ x.named = true ∧ x.notice.target = 0 ∧ x.notice.output = 0
  · rw [if_pos sets]
    constructor <;> simp [state, counted, sets]
  · rw [if_neg sets]
    constructor <;> simp [state, counted, sets]

/-- The tests of SETTING: set at last, or lifted again, or failed to set, or still waiting (R106). -/
theorem notifies_setting {x : BrakeInput} {b : BrakeRecord} (state : b.state = .setting)
    (toward : x.notice.release = true → x.notice.target ≠ 0) : x.Notifies b := by
  rw [BrakeInput.Notifies, notifyBrake_setting x b state]
  by_cases feedback : b.feedback = false
  · rw [if_pos feedback]
    by_cases lifts : (b.remembered || x.notice.release) = true ∧ x.notice.target ≠ 0
    · rw [if_pos lifts]
      constructor <;> simp_all
    · have release : x.notice.release = false :=
        Bool.eq_false_iff.2 fun asked => lifts ⟨by simp [asked], toward asked⟩
      rw [if_neg lifts, actOnRelease, release]
      constructor <;> simp_all
  · rw [if_neg feedback]
    split <;> constructor <;> simp_all

/-- A notice asks a release only toward a target and of a brake SET or SETTING (R89); so taken, each of the four states
answers it by the rules. -/
theorem notifies_of_asks {x : BrakeInput} {b : BrakeRecord}
    (asks : x.notice.release = true → x.notice.target ≠ 0 ∧ (b.state = .set ∨ b.state = .setting)) : x.Notifies b := by
  have unasked (lifted : ¬(b.state = .set ∨ b.state = .setting)) : x.notice.release = false :=
    Bool.eq_false_iff.2 fun asked => lifted (asks asked).2
  cases state : b.state with
  | set => exact notifies_set state
  | releasing => exact notifies_releasing state (unasked (by simp [state]))
  | released => exact notifies_released state (unasked (by simp [state]))
  | setting => exact notifies_setting state fun asked => (asks asked).1

theorem noticed_brake (s : State) (m : Motion) : BrakeNoticed s m (noticed s m).brake (noticed s m).raised := by
  have told := notifies_of_asks (x := brakeInput s ((periodNotices s).get m) m) (b := s.gate.brakes.get m)
    (by rw [periodNotices_get]; exact of_decide_eq_true)
  rw [periodNotices_get] at told
  refine ⟨stopAndSet s.sequencer.mode m, stopAndSet_iff _ m, ?_⟩
  rw [noticed, periodNotices_get]
  exact told

end Sys2Proof.Machine
end

section
/-!
The proof of the statement on publication (05): a period expiry forms its blocks (`periodBlocks_formed`), and what its
reports and the sequencer then do changes nothing of what the statement names but the motions stopped.
-/
namespace Sys2Proof.Machine

/-! ### The command -/

theorem exec_periodExpiry_running {s : State} (h : s.power = .running) :
    exec .periodExpiry s = .next (settle (periodAll s)) := if_pos h

/-! ### The blocks formed -/

theorem periodBlocks_formed (s : State) : PeriodFormed s (periodBlocks s) fun m => (noticed s m).raised where
  motion m := by simp [periodBlocks, shapedPeriod, checkAssociation_settleMotion]
  brake m := by
    rw [periodBlocks_brake]
    exact noticed_brake s m
  overdraw := by
    rw [demandOf_eq_demand]
    exact overdrawStep_counted _ _ _
  sides := walkSides_formed _ _ _
  rest := rfl

/-- The outputs that a period publishes are those of the records it forms (R95). -/
theorem periodBlocks_outputs (s : State) :
    (periodBlocks s).shaper.references.outputs = outputsOf (periodBlocks s).shaper :=
  PerMotion.ext_get fun m => by
    rw [outputsOf, PerMotion.get_map, (periodBlocks_formed s).motion m]
    rfl

/-! ### What reports and the sequencer make of them -/

/-- A period before the sequencer is the blocks formed and the reports of the statement. -/
theorem notifyGate_eq_takeReports (s : State) :
    notifyGate (periodNotices s) (shapePeriod s) =
      takeReports (periodReports s (periodBlocks s) fun m => (noticed s m).raised) (periodBlocks s) := by
  rw [← noticeReports_period]
  exact notifiedPeriod_told s

/-- Outside STOPPING the sequencer has no part in a period (R123). -/
theorem periodAll_eq_takeReports {s : State} (moving : ∀ source d, s.sequencer.mode ≠ .stopping source d) :
    periodAll s =
      takeReports (periodReports s (periodBlocks s) fun m => (noticed s m).raised) (periodBlocks s) := by
  rw [← notifyGate_eq_takeReports, periodAll, periodEndAtSequencer, (notifiedPeriod_reports s).2]
  split
  · next source d stopping => exact absurd stopping (moving source d)
  · rfl

theorem takeEntry_timeout (request : Settled) (s : State) :
    (takeEntry request s).sequencer.timeout = s.sequencer.timeout := by
  unfold takeEntry
  repeat' first
    | rfl
    | simp only [issueOrder_sequencer, refuseSequence_sequencer]
    | split

theorem takeEntries_timeout (n : Nat) (s : State) : (takeEntries n s).sequencer.timeout = s.sequencer.timeout := by
  induction n generalizing s with
  | zero => rfl
  | succ n ih =>
    unfold takeEntries
    split
    · rfl
    · split
      · rw [ih, takeEntry_timeout]
        rfl
      · rfl

theorem completeStop_timeout (destination : Settled) (s : State) :
    (completeStop destination s).sequencer.timeout = s.sequencer.timeout := by
  unfold completeStop
  cases destination with
  | parked => rfl
  | walk | dig =>
    dsimp only
    split
    · rw [issueOrder_sequencer]
    · rw [refuseSequence_sequencer]
      rfl

/-- The transfer timeout is a setting, which neither the reports of a period nor the sequencer's part in it touch. -/
theorem periodAll_timeout (s : State) : (periodAll s).sequencer.timeout = s.sequencer.timeout := by
  rw [periodAll, periodEndAtSequencer]
  have stands := congrArg Sequencer.timeout (notifiedPeriod_reports s).2
  split
  · split
    · rw [serviceQueue, takeEntries_timeout, completeStop_timeout, stands]
    · exact stands
  · exact stands

theorem OnlyReports.confirm {s t : State} (h : OnlyReports s t) : t.gate.confirm = s.gate.confirm := by rw [h.gate]

/-- A motion after a period expiry is the one formed, or that one stopped. -/
theorem periodAll_motion (s : State) (m : Motion) :
    (periodAll s).shaper.motions.get m = (periodBlocks s).shaper.motions.get m ∨
      (periodAll s).shaper.motions.get m = ((periodBlocks s).shaper.motions.get m).stopped :=
  ((periodAll_onlySequencer s).motion m).imp And.left And.left

/-- The references record holds the outputs of the records, whatever has been stopped since (R95, R96). -/
theorem periodAll_published (s : State) : (periodAll s).shaper.references.outputs = outputsOf (periodAll s).shaper := by
  rcases (periodAll_onlySequencer s).published with ⟨motions, outputs⟩ | republished
  · have motions : (periodAll s).shaper.motions = (periodBlocks s).shaper.motions := motions
    rw [outputsOf, motions]
    exact outputs.trans (periodBlocks_outputs s)
  · exact republished

/-- The side references are those of the WALK output, which are 0 where WALK has been stopped (R140, R141). -/
theorem periodAll_sides (s : State) :
    SidesFormed s.walk.skew s.walk.settings.gain (periodAll s).shaper.motions.walk.output (periodAll s).walk.walkLeft
      (periodAll s).walk.walkRight := by
  rcases (periodAll_onlySequencer s).walk with ⟨motion, walk⟩ | ⟨motion, walk⟩
  · have motion : (periodAll s).shaper.motions.walk = (periodBlocks s).shaper.motions.get .walk := motion
    have walk : (periodAll s).walk = (periodBlocks s).walk := walk
    rw [motion, walk, (periodBlocks_formed s).motion]
    exact (periodBlocks_formed s).sides
  · have motion : (periodAll s).shaper.motions.walk = (periodBlocks s).shaper.motions.walk.stopped := motion
    have walk : (periodAll s).walk = { (periodBlocks s).walk with walkLeft := 0, walkRight := 0 } := walk
    rw [motion, walk]
    exact sidesFormed_zero _ _

theorem periodAll_overdraw (s : State) :
    OverdrawCounted
      (decide (budget s.bands < demandOf s.shaper.weights (sharePeriod s (PerMotion.of (formMotion s))).outputs))
      s.shaper.overdraw s.shaper.overdrawCount (periodAll s).shaper.overdraw (periodAll s).shaper.overdrawCount := by
  obtain ⟨-, -, present, count, -⟩ := (periodAll_onlySequencer s).shaper_keeps
  have present : (periodAll s).shaper.overdraw = (periodBlocks s).shaper.overdraw := present
  have count : (periodAll s).shaper.overdrawCount = (periodBlocks s).shaper.overdrawCount := count
  rw [present, count]
  exact (periodBlocks_formed s).overdraw

/-- The sequencer's part in a period stops nothing, so that a motion is stopped exactly where its BRAKE-FAIL is entered
(R107, R149, R155). -/
theorem periodAll_trips {s : State} (list : AlarmListLaw s) (drive : DriveLaw s) (m : Motion) :
    let base := periodBlocks s
    let entered := BrakeFailEntered s m (base.gate.brakes.get m) (noticed s m).raised
    (entered → (periodAll s).shaper.motions.get m = (base.shaper.motions.get m).stopped ∧
      (periodAll s).gate.brakes.get m = dropBrake (base.gate.brakes.get m)) ∧
    (¬entered → (periodAll s).shaper.motions.get m = base.shaper.motions.get m ∧
      (periodAll s).gate.brakes.get m = base.gate.brakes.get m) := by
  have sg : SgFormed (notifyGate (periodNotices s) (shapePeriod s)) := by
    rw [SgFormed, (notifiedPeriod_reports s).1.driveFault, (notifiedPeriod_reports s).1.driveReport]
    exact drive.sgFormed
  obtain ⟨motions, brakes, -⟩ := periodEndAtSequencer_spares (periodNotices s) sg
  rw [periodAll, motions, brakes]
  exact notifiedPeriod_trips list m

/-! ### The statement -/

/-- Settles O33: the blocks a period forms are those of the statement (`periodBlocks_formed`), and what comes after
them is reports and the sequencer's part (`periodAll_onlySequencer`), which stops a motion exactly where its BRAKE-FAIL
is entered (`periodAll_trips`). -/
theorem periodPublishes : Obligations.PeriodPublishes := by
  unfold Obligations.PeriodPublishes
  refine ⟨fun s running => ?_, fun s running _ => ?_⟩
  · have only := periodAll_onlySequencer s
    obtain ⟨weights, shedOrder, -, -, shed, number, period⟩ := only.shaper_keeps
    refine ⟨_, sharePeriod s (PerMotion.of (formMotion s)), exec_periodExpiry_running running, rfl, period, number, shed,
      fun m => ?_, fun m => ?_, periodAll_sides s, periodAll_overdraw s, only.power, only.scanner, periodAll_blanks s,
      only.envelope, only.profiles, only.readiness, weights, shedOrder, only.walk_eq, only.confirm,
      periodAll_timeout s, only.seconds, only.driveReport, only.links, only.portA, only.portC, only.store, only.memory,
      only.feedbackInputs, only.pending⟩
    · rw [settle_references, periodAll_published, outputsOf, PerMotion.get_map, settle_motion]
    · have formed := (periodBlocks_formed s).motion m
      rw [settle_motion]
      rcases periodAll_motion s m with kept | stopped
      · rw [kept, formed]
        exact ⟨rfl, rfl, rfl, rfl, fun _ => association_joins, association_stands, .inl ⟨rfl, rfl, rfl, rfl, rfl⟩⟩
      · rw [stopped, formed]
        exact ⟨rfl, rfl, rfl, rfl, fun _ => association_joins, association_stands, .inr ⟨rfl, rfl, rfl, rfl, rfl⟩⟩
  · refine ⟨_, periodBlocks s, fun m => (noticed s m).raised, exec_periodExpiry_running running, periodBlocks_formed s,
      fun moving => ?_, fun list drive m => ?_⟩
    · rw [periodAll_eq_takeReports moving]
      exact ⟨rfl, (alarmsAfter_eq _ (periodBlocks s)).trans (alarmsAfter_eq _ s).symm⟩
    · obtain ⟨trips, spares⟩ := periodAll_trips list drive m
      rw [settle_motion, settle_gate]
      refine ⟨fun entered => ?_, fun spared => ?_⟩
      · obtain ⟨motion, brake⟩ := trips entered
        rw [motion, brake]
        exact ⟨zeroed_stoppedAtOnce _, dropBrake_dropped _⟩
      · obtain ⟨motion, brake⟩ := spares spared
        rw [motion, brake]
        exact ⟨rfl, rfl⟩

end Sys2Proof.Machine
end

section
/-! What a command can do, said once (`exec_stepped`): the supply and reset commands, and on a running part one of the
`Effect`s, beside which only the links of the ports change, and what every event ends with (`settle`). A law that each
of them keeps is one that every step keeps (`step_keeps`). -/

namespace Sys2Proof.Machine

/-! ### The effects -/

/-- A write carries a profile in range, or a zone in range, where it carries one. -/
def RecordWrite.CarriesInRange (w : RecordWrite) : Prop := w.CarriesProfileInRange ∧ w.CarriesZoneInRange

/-- What a command of a running part does before it settles, apart from the links of the ports, with what has been
checked where it does it. -/
inductive Effect (s : State) : State → Prop
  | stands : Effect s s
  | edge (e : EncoderId) (forward : Bool) : Effect s (s.withScanner (encoderEdge e forward s.scanner))
  | scan (conversions : PerAnalog Sample) : Effect s (scanAll conversions s)
  | period : Effect s (periodAll s)
  | inputEdge (m : Motion) : Effect s (feedbackEdge m s)
  | feedback (m : Motion) : Effect s (superviseFeedback m s)
  | hold (runs : s.ports.a.holdTimer = true) : Effect s (holdExpires s)
  | second : Effect s (tickSeconds s)
  | written {w : RecordWrite} (flight : s.store = .writing w) :
      Effect s (applyWrite w ((s.withMemory (s.memory.write w)).withStore .idle))
  | recordWritten {w next : RecordWrite} {rest : List RecordWrite} (flight : s.store = .committing w (next :: rest)) :
      Effect s ((s.withMemory (s.memory.write w)).withStore (.committing next rest))
  | committed {h : ZoneHeader} (flight : s.store = .committing (.zoneHeader h) []) :
      Effect s (finishCommit h.generation ((s.withMemory (s.memory.write (.zoneHeader h))).withStore .idle))
  | commitShown : Effect s (s.withPortC { s.ports.c with commitEnded := false })
  | listRead (p : Port) : Effect s (clearListChanged p s)
  | fresh (mark : Bool) (refs : PerMotion Half) : Effect s (freshFrame mark (refs.map fun _ x => clampReference x) s)
  | park (p : Port) : Effect s (takePark p s)
  | queued {request : Settled} (p : Port) (asked : request ≠ .parked) (room : s.sequencer.queue.length < 4) :
      Effect s (serviceQueue (s.withSequencer { s.sequencer with queue := s.sequencer.queue ++ [⟨request, p⟩] }))
  | orderDone (pending : s.sequencer.record.order = .pending) : Effect s (serviceQueue (orderDone s))
  | orderFailed (by' : EndedBy) (pending : s.sequencer.record.order = .pending) : Effect s (orderFailed by' s)
  | readiness (r : PerGroup Readiness) : Effect s (takeReadiness r s)
  | stopAll (p : Port) : Effect s (reportMomentary .stopAll (stopAllSource p) none s)
  | overrunCleared :
      Effect s (takeReport ⟨{ s.alarms with overrun := false }, s.alarms.overrun, false⟩ s)
  | acknowledged (selects : AlarmEntry → Bool) : Effect s (takeAcknowledgement selects s)
  | writeBegun {w : RecordWrite} (idle : s.store = .idle) (range : w.CarriesInRange) : Effect s (startWrite w s)
  | zeroed (e : EncoderId) (value : Int) (idle : s.store = .idle) : Effect s (zeroChannel e value s)
  | marksCleared : Effect s (s.withScanner (clearMarks s.scanner))
  | editBegun (closed : s.envelope.edit = .closed) : Effect s (s.withEnvelope (beginEdit s.envelope))
  | edited (i : Nat) {entry : Option Zone} (opened : s.envelope.edit = .open) (range : ∀ z ∈ entry, ZoneInRange z) :
      Effect s (s.withEnvelope (editPosition i entry s.envelope))
  | editDiscarded (opened : s.envelope.edit = .open) : Effect s (s.withEnvelope (discardEdit s.envelope))
  | commitBegun (opened : s.envelope.edit = .open) (parked : s.sequencer.mode = .parked) (idle : s.store = .idle) :
      Effect s (beginCommit s)
  | restarted (parked : s.sequencer.mode = .parked) (idle : s.store = .idle) : Effect s (restartAll s)

/-- What a command can do: the supply and reset commands, a feedback input of a part that does not run, or an effect of
a running part. -/
inductive Stepped (s : State) : State → Prop
  | same : Stepped s s
  | held {p : Power} (off : p ≠ .running) : Stepped s (heldInReset p s)
  | released (loading : s.power = .loading) : Stepped s (settle (release s))
  | input (off : s.power ≠ .running) (levels : PerMotion Bool) : Stepped s { s with feedbackInputs := levels }
  | ran {t : State} (running : s.power = .running) (effect : Effect s t) (links : PerPort PortLink) :
      Stepped s (settle (t.withLinks links))

/-! ### The owners -/

theorem storeBusy_iff (s : State) : storeBusy s = true ↔ s.store ≠ .idle := by simp [storeBusy]

theorem idle_of_not_storeBusy {s : State} (h : ¬storeBusy s = true) : s.store = .idle := by
  simpa [storeBusy_iff] using h

theorem within_clampNat {lo hi : Nat} (h : lo ≤ hi) (n : Nat) : Within lo hi (clampNat lo hi n) := by
  unfold Within clampNat
  omega

theorem clampProfile_inRange (p : PartialProfile) : PartialInRange (clampProfile p) := by
  have clamped {lo hi : Nat} (h : lo ≤ hi) (x : Option Nat) : ∀ n ∈ x.map (clampNat lo hi), Within lo hi n := by
    intro n hn
    obtain ⟨k, -, rfl⟩ := Option.mem_map.1 hn
    exact within_clampNat h k
  exact ⟨clamped (by decide) _, clamped (by decide) _, clamped (by decide) _, clamped (by decide) _,
    clamped (by decide) _, clamped (by decide) _, clamped (by decide) _⟩

/-- A complete profile in range is one whose fields, all present, are. -/
theorem completeProfile_inRange {x : PartialProfile} {c : Profile} (h : completeProfile x = some c)
    (range : PartialInRange x) : ProfileInRange c := by
  simp only [completeProfile, Option.bind_eq_bind, Option.bind_eq_some_iff, Option.pure_def, Option.some.injEq] at h
  obtain ⟨accel, h1, decel, h2, ceiling, h3, creep, h4, dwell, h5, delay, h6, idle, h7, rfl⟩ := h
  obtain ⟨r1, r2, r3, r4, r5, r6, r7⟩ := range
  exact ⟨r1 _ h1, r2 _ h2, r3 _ h3, r4 _ h4, r5 _ h5, r6 _ h6, r7 _ h7⟩

theorem profileWrite_inRange {p : Profiles} {n : ProfileName} {x : PartialProfile} {w : RecordWrite} {p' : Profiles}
    (h : profileWrite p n x = some (w, p')) (range : PartialInRange x) : w.CarriesInRange := by
  cases n with
  | common =>
    obtain ⟨c, hc, e⟩ := Option.map_eq_some_iff.1 h
    cases e
    exact ⟨completeProfile_inRange hc range, trivial⟩
  | a => cases h; exact ⟨range, trivial⟩
  | b => cases h; exact ⟨range, trivial⟩

/-- A zone clamped to its ranges is in range where no payout range is reversed (R36, R51). -/
theorem clampZone_inRange {z : Zone} (h : boxOrdered (zoneBox (clampZone z)) = true) : ZoneInRange (clampZone z) := by
  have le (hi n : Nat) : clampNat 0 hi n ≤ hi := (within_clampNat (Nat.zero_le hi) n).2
  have cap (x : Option Nat) : ∀ n ∈ x.map (clampNat 0 1000), n ≤ 1000 := by
    intro n hn
    obtain ⟨k, -, rfl⟩ := Option.mem_map.1 hn
    exact le _ k
  have box {b : ZoneBox Nat} (h : boxOrdered (clampBox b) = true) : BoxInRange (clampBox b) := by
    simp only [boxOrdered, Bool.and_eq_true, decide_eq_true_eq] at h
    exact ⟨le _ _, le _ _, h.1, le _ _, h.2, le _ _⟩
  cases z with
  | keepOut b m =>
    exact ⟨box h, le _ _, within_clampNat (by decide) _, le _ _, within_clampNat (by decide) _⟩
  | slow b c => exact ⟨box h, cap _, cap _, cap _⟩
  | warnOnly b => exact box h

theorem takeModeRequest_effect (p : Port) (mode : Byte) (s : State) : Effect s (takeModeRequest p mode s).2 := by
  have appended (request : Settled) (asked : request ≠ .parked) : Effect s (appendRequest request p s).2 := by
    unfold appendRequest
    simp only
    split
    · exact .stands
    · split
      · exact .stands
      · next room => exact .queued p asked (Nat.lt_of_not_le room)
  have judged (request : Settled) : Effect s (judgeModeRequest request p s).2 := by
    cases request with
    | parked => exact .park p
    | walk =>
      simp only [judgeModeRequest]
      split
      · exact .stands
      · split
        · exact .stands
        · exact appended .walk (by decide)
    | dig =>
      simp only [judgeModeRequest]
      split
      · exact .stands
      · split
        · exact .stands
        · exact appended .dig (by decide)
  unfold takeModeRequest
  split
  · exact .stands
  · next request _ =>
    simp only
    split
    · exact judged request
    · exact .stands

theorem takeTransferReport_effect (mark result : Byte) (s : State) : Effect s (takeTransferReport mark result s).2 := by
  have judged (k d : Bool) : Effect s (judgeReport k d s).2 := by
    unfold judgeReport
    simp only
    split
    · next pending =>
      split
      · cases d
        · exact .orderFailed .report pending
        · exact .orderDone pending
      · exact .stands
    · split <;> exact .stands
    · exact .stands
  unfold takeTransferReport
  split
  · next k d _ _ =>
    simp only
    split
    · exact judged k d
    · exact .stands
  · exact .stands

theorem takeAckAlarm_effect (code source : Byte) (s : State) : Effect s (takeAckAlarm code source s).2 := by
  unfold takeAckAlarm
  split
  · exact .acknowledged _
  · split
    · split
      · exact .acknowledged _
      · exact .stands
    · exact .stands

theorem takeWriteProfile_effect (profile presence : Byte) (fields : ProfileFields Half) (s : State) :
    Effect s (takeWriteProfile profile presence fields s).2 := by
  unfold takeWriteProfile
  split
  · exact .stands
  · simp only
    split
    · exact .stands
    · split
      · exact .stands
      · next idle =>
        split
        · exact .stands
        · next w _ write =>
          split
          · exact .stands
          · exact .writeBegun (idle_of_not_storeBusy idle) (profileWrite_inRange write (clampProfile_inRange _))

theorem takeWriteCalibration_effect (channel : Byte) (body : CalBody) (s : State) :
    Effect s (takeWriteCalibration channel body s).2 := by
  unfold takeWriteCalibration
  split
  · exact .stands
  · split
    · exact .stands
    · next idle =>
      have idle := idle_of_not_storeBusy idle
      cases body with
      | encoder offset scale maxStep =>
        unfold acceptCalibration
        simp only
        split
        · exact .stands
        · exact .writeBegun idle ⟨trivial, trivial⟩
      | analog offset gain low high =>
        unfold acceptCalibration
        simp only
        split
        · exact .stands
        · split
          · exact .writeBegun idle ⟨trivial, trivial⟩
          · exact .stands

theorem takeZeroChannel_effect (channel : Byte) (value : Word) (s : State) :
    Effect s (takeZeroChannel channel value s).2 := by
  unfold takeZeroChannel
  split
  · exact .stands
  · split
    · exact .stands
    · split
      · exact .stands
      · next idle => exact .zeroed _ _ (idle_of_not_storeBusy idle)

theorem takeEditZone_effect (position : Byte) (entry : ZoneBody) (s : State) :
    Effect s (takeEditZone position entry s).2 := by
  unfold takeEditZone
  split
  · exact .stands
  · exact .stands
  · next opened =>
    split
    · exact .stands
    · split
      · exact .stands
      · next z _ =>
        unfold acceptEntry
        split
        · exact .edited _ opened (by simp)
        · split
          · next ordered =>
            refine .edited _ opened fun z hz => ?_
            cases hz
            exact clampZone_inRange ordered
          · exact .stands

/-- What the owner of a request makes of the state is an effect. -/
theorem ownerAnswer_effect (p : Port) (r : Request) (s : State) : Effect s (ownerAnswer p r s).2 := by
  have write {w : RecordWrite} {a : Bool} (idle : ¬storeBusy s = true) (range : w.CarriesInRange) :
      Effect s (acceptWrite a w s).2 := .writeBegun (idle_of_not_storeBusy idle) range
  cases r with
  | unknownKind _ => exact .stands
  | badLength _ _ => exact .stands
  | readStatus =>
    simp only [ownerAnswer, takeReadStatus]
    split
    · exact .commitShown
    · exact .stands
  | motionRequest mark refs =>
    simp only [ownerAnswer, takeMotionRequest]
    split
    · exact .stands
    · split
      · exact .stands
      · exact .fresh _ _
  | modeRequest mode => exact takeModeRequest_effect p mode s
  | stopAll => exact .stopAll p
  | ackAlarm code source => exact takeAckAlarm_effect code source s
  | readAlarms start count =>
    simp only [ownerAnswer, takeReadAlarms]
    split
    · exact .stands
    · exact .listRead p
  | clearOverrun => exact .overrunCleared
  | readMeasurements =>
    simp only [ownerAnswer, takeReadMeasurements]
    split <;> exact .stands
  | readReferences => exact .stands
  | transferReport mark result => exact takeTransferReport_effect mark result s
  | driveState values =>
    simp only [ownerAnswer, takeDriveState]
    split
    · exact .stands
    · exact .readiness _
  | readSetting group which =>
    simp only [ownerAnswer, takeReadSetting]
    split
    · exact .stands
    · split <;> exact .stands
  | writeProfile profile presence fields => exact takeWriteProfile_effect profile presence fields s
  | writeAssociation names =>
    simp only [ownerAnswer, takeWriteAssociation]
    split
    · exact .stands
    · split
      · exact .stands
      · next idle _ _ _ => exact write idle ⟨trivial, trivial⟩
  | writeCalibration channel body => exact takeWriteCalibration_effect channel body s
  | writeSupplyBands t1 t2 t3 =>
    simp only [ownerAnswer, takeWriteSupplyBands]
    split
    · exact .stands
    · split
      · next idle _ => exact write idle ⟨trivial, trivial⟩
      · exact .stands
  | writeBoomBands g h o heavyCap =>
    simp only [ownerAnswer, takeWriteBoomBands]
    split
    · exact .stands
    · split
      · next idle _ => exact write idle ⟨trivial, trivial⟩
      · exact .stands
  | writeCurrentTrip levels counts =>
    simp only [ownerAnswer, takeWriteCurrentTrip]
    split
    · exact .stands
    · next idle => exact write idle ⟨trivial, trivial⟩
  | writeSharing body =>
    simp only [ownerAnswer, takeWriteSharing]
    split
    · exact .stands
    · split
      · exact .stands
      · next idle _ _ _ => exact write idle ⟨trivial, trivial⟩
  | writeWalk restFrom restTo gain trip =>
    simp only [ownerAnswer, takeWriteWalk]
    split
    · exact .stands
    · next idle => exact write idle ⟨trivial, trivial⟩
  | writeGate confirm =>
    simp only [ownerAnswer, takeWriteGate]
    split
    · exact .stands
    · next idle => exact write idle ⟨trivial, trivial⟩
  | writeSequencer timeout =>
    simp only [ownerAnswer, takeWriteSequencer]
    split
    · exact .stands
    · next idle => exact write idle ⟨trivial, trivial⟩
  | zeroChannel channel value => exact takeZeroChannel_effect channel value s
  | clearMarks => exact .marksCleared
  | readZone table position =>
    simp only [ownerAnswer, takeReadZone]
    split
    · exact .stands
    · split
      · exact .stands
      · split <;> exact .stands
  | editBegin =>
    simp only [ownerAnswer, takeEditBegin]
    split
    · next closed => exact .editBegun closed
    · exact .stands
  | editZone position entry => exact takeEditZone_effect position entry s
  | editCommit =>
    simp only [ownerAnswer, takeEditCommit]
    split
    · exact .stands
    · exact .stands
    · next opened =>
      split
      · exact .stands
      · next parked =>
        split
        · exact .stands
        · next idle => exact .commitBegun opened (not_not.1 parked) (idle_of_not_storeBusy idle)
  | editDiscard =>
    simp only [ownerAnswer, takeEditDiscard]
    split
    · exact .stands
    · exact .stands
    · next opened => exact .editDiscarded opened
  | restart =>
    simp only [ownerAnswer, takeRestart]
    split
    · exact .stands
    · next parked =>
      split
      · exact .stands
      · next idle => exact .restarted (not_not.1 parked) (idle_of_not_storeBusy idle)

theorem judgeRequest_effect (p : Port) (r : Request) (s : State) : Effect s (judgeRequest p r s).2 := by
  unfold judgeRequest
  split
  · exact .stands
  · exact .stands
  · split
    · exact ownerAnswer_effect p r s
    · exact .stands

/-! ### The commands -/

/-- An effect, with the links of the ports apart from it. -/
def LinkedEffect (s t : State) : Prop := ∃ u links, Effect s u ∧ t = u.withLinks links

theorem Effect.linked {s t : State} (h : Effect s t) : LinkedEffect s t := ⟨t, t.ports.links, h, rfl⟩

theorem withLink_linked (p : Port) (l : PortLink) (s : State) : LinkedEffect s (s.withLink p l) := ⟨s, _, .stands, rfl⟩

theorem dropFrame_linked (p : Port) (s : State) : LinkedEffect s (dropFrame p s) := withLink_linked p _ s

theorem completeFrame_linked (p : Port) (r : Request) (s : State) : LinkedEffect s (completeFrame p r s) := by
  cases free : (s.ports.links.get p).held with
  | none =>
    rw [completeFrame_free free]
    exact ⟨_, _, judgeRequest_effect p r s, rfl⟩
  | some h =>
    rw [completeFrame, free]
    exact dropFrame_linked p s

theorem receiveCharacter_linked (p : Port) (b : Byte) (s : State) : LinkedEffect s (receiveCharacter p b s) := by
  unfold receiveCharacter
  simp only
  split
  · split
    · exact withLink_linked p _ s
    · exact Effect.stands.linked
  · split
    · exact withLink_linked p _ s
    · exact dropFrame_linked p s
    · split
      · exact completeFrame_linked p _ s
      · exact dropFrame_linked p s

theorem completeWrite_effect (s : State) : Effect s (completeWrite s) := by
  unfold completeWrite
  split
  · next flight => exact .written flight
  · exact .stands

theorem completeCommitRecord_effect (s : State) : Effect s (completeCommitRecord s) := by
  unfold completeCommitRecord
  split
  · next flight => exact .recordWritten flight
  · exact .stands

theorem completeCommit_effect (s : State) : Effect s (completeCommit s) := by
  unfold completeCommit
  split
  · next flight => exact .committed flight
  · exact .stands

theorem takeFeedback_effect (m : Motion) (s : State) : Effect s (takeFeedback m s) := by
  unfold takeFeedback
  split
  · exact .feedback m
  · exact .stands

theorem holdExpires_effect (s : State) : Effect s (holdExpires s) := by
  by_cases runs : s.ports.a.holdTimer = true
  · exact .hold runs
  · rw [holdExpires, if_neg runs]
    exact .stands

theorem transferExpires_effect (s : State) : Effect s (transferExpires s) := by
  unfold transferExpires
  split
  · next pending => exact .orderFailed _ ((orderPending_iff _).1 pending)
  · exact .stands

theorem discardWhileHeld_linked (p : Port) (s : State) : LinkedEffect s (discardWhileHeld p s) := by
  unfold discardWhileHeld
  split
  · exact dropFrame_linked p s
  · exact Effect.stands.linked

theorem startResponse_linked (p : Port) (s : State) : LinkedEffect s (startResponse p s) := by
  unfold startResponse
  simp only
  split
  · split
    · exact Effect.stands.linked
    · exact withLink_linked p _ s
  · exact Effect.stands.linked

theorem endResponse_linked (p : Port) (s : State) : LinkedEffect s (endResponse p s) := by
  unfold endResponse
  simp only
  split
  · split
    · exact withLink_linked p _ s
    · exact Effect.stands.linked
  · exact Effect.stands.linked

/-- A command answers a next state, which the part has stepped to. -/
def Steps (o : Host.Outcome State Fault Refusal) (s : State) : Prop := ∃ t, o = .next t ∧ Stepped s t

theorem runningEvent_steps {f : State → State} {s : State} (h : LinkedEffect s (f s)) : Steps (runningEvent f s) s := by
  unfold runningEvent
  split
  · next running =>
    obtain ⟨u, links, effect, h⟩ := h
    exact ⟨_, rfl, h ▸ .ran running effect links⟩
  · exact ⟨s, rfl, .same⟩

theorem exec_request_steps {c : Instr} {p : Port} {r : Request} (h : requestOf c = some (p, r)) (s : State) :
    Steps (exec c s) s := by
  rw [exec_request h]
  exact runningEvent_steps (completeFrame_linked p r s)

/-- Every command in every state answers a next state, one that `Stepped` gives. -/
theorem exec_stepped (c : Instr) (s : State) : Steps (exec c s) s := by
  cases request : requestOf c with
  | some x => exact exec_request_steps request s
  | none =>
    cases c with
    | powerOn => exact ⟨_, rfl, .held (by decide)⟩
    | powerLoss => exact ⟨_, rfl, .held (by decide)⟩
    | externalReset =>
      simp only [exec, execExternalReset]
      split
      · exact ⟨_, rfl, .same⟩
      · exact ⟨_, rfl, .held (by decide)⟩
      · exact ⟨_, rfl, .held (by decide)⟩
    | settingsLoadEnd =>
      simp only [exec, execSettingsLoadEnd]
      split
      · next loading => exact ⟨_, rfl, .released loading⟩
      · exact ⟨_, rfl, .same⟩
      · exact ⟨_, rfl, .same⟩
    | encoderEdge e forward =>
      exact runningEvent_steps (f := fun s => s.withScanner (encoderEdge e forward s.scanner)) (Effect.edge e forward).linked
    | scanCompletion conversions => exact runningEvent_steps (Effect.scan conversions).linked
    | periodExpiry => exact runningEvent_steps Effect.period.linked
    | feedbackInputEdge m =>
      simp only [exec, execFeedbackInputEdge]
      split
      · next running => exact ⟨_, rfl, .ran running (.inputEdge m) s.ports.links⟩
      · next off => exact ⟨_, rfl, .input off _⟩
    | feedbackChange m => exact runningEvent_steps (takeFeedback_effect m s).linked
    | holdTimerExpiry => exact runningEvent_steps (holdExpires_effect s).linked
    | transferTimerExpiry => exact runningEvent_steps (transferExpires_effect s).linked
    | secondsTick => exact runningEvent_steps Effect.second.linked
    | storeWriteCompletion => exact runningEvent_steps (completeWrite_effect s).linked
    | commitRecordWriteCompletion => exact runningEvent_steps (completeCommitRecord_effect s).linked
    | commitCompletion => exact runningEvent_steps (completeCommit_effect s).linked
    | gapTimerExpiry p => exact runningEvent_steps (dropFrame_linked p s)
    | badFrameDiscard p => exact runningEvent_steps (dropFrame_linked p s)
    | frameWhileHeldDiscard p => exact runningEvent_steps (discardWhileHeld_linked p s)
    | responseStart p => exact runningEvent_steps (startResponse_linked p s)
    | responseComplete p => exact runningEvent_steps (endResponse_linked p s)
    | characterReceived p b => exact runningEvent_steps (receiveCharacter_linked p b s)
    | _ => cases request

theorem exec_next {c : Instr} {s t : State} (h : exec c s = .next t) : Stepped s t := by
  obtain ⟨u, hu, stepped⟩ := exec_stepped c s
  cases hu.symm.trans h
  exact stepped

/-! ### Laws -/

/-- The blocks at the release, before the store's raises: everything else about the release is reports (R184). -/
theorem release_reports (s : State) : OnlyReports (loadedBlocks s) (release s) :=
  foldl_reports (fun t r => reportMomentary_reports .settingsCheck .store (some (.record r)) t) _ _

/-- A step leaves the state, where no command waits, or is a command on the state with the queue's rest. -/
theorem step_stepped {s t : State} (h : step s = .next t) : t = s ∨ ∃ c, Stepped { s with pending := c } t := by
  unfold step at h
  split at h
  · cases h
    exact .inl rfl
  · exact .inr ⟨_, exec_next h⟩

/-- A law that the queue, the inputs, the links of the ports and settling do not touch holds after every step from a
state that keeps `P`, where the reset, the release and every effect leave it. -/
theorem step_establishes {P L : State → Prop} (queue : ∀ s c, P s → P { s with pending := c })
    (keeps : ∀ s, P s → L s) (settled : ∀ s links, L s → L (settle (s.withLinks links)))
    (inputs : ∀ s levels, L s → L { s with feedbackInputs := levels })
    (held : ∀ s p, P s → L (heldInReset p s)) (released : ∀ s, P s → L (settle (release s)))
    (effect : ∀ s t, P s → Effect s t → L t) {s t : State} (h : P s) (hstep : step s = .next t) : L t := by
  rcases step_stepped hstep with rfl | ⟨c, stepped⟩
  · exact keeps _ h
  · have h := queue s c h
    cases stepped with
    | same => exact keeps _ h
    | held _ => exact held _ _ h
    | released _ => exact released _ h
    | input _ levels => exact inputs _ levels (keeps _ h)
    | ran _ k links => exact settled _ links (effect _ _ h k)

end Sys2Proof.Machine
end

section
/-! What each effect starts from, before its reports and the sequencer's part (R13 to R15, R55, R70, R72, R101 to R105,
R118, R159, R176): the reports of an effect change what `OnlyReports` lists and nothing else. With it, the statements
about every command: that it answers a next state with the queue as it was, and that what follows from the state is
formed again at its end. -/

namespace Sys2Proof.Machine

/-! ### Feedback (R101, R103 to R107) -/

/-- A brake with the level the filter has held for 10 ms (R101). -/
def feedbackTaken (m : Motion) (s : State) : BrakeRecord :=
  { s.gate.brakes.get m with feedback := s.feedbackInputs.get m, filtering := false }

theorem superviseFeedback_set {m : Motion} {s : State} (state : (s.gate.brakes.get m).state = .set)
    (level : s.feedbackInputs.get m = true) : superviseFeedback m s = feedbackInSet m (feedbackTaken m s) s := by
  simp only [superviseFeedback, state, level, feedbackTaken]

theorem superviseFeedback_released {m : Motion} {s : State} (state : (s.gate.brakes.get m).state = .released)
    (level : s.feedbackInputs.get m = false) :
    superviseFeedback m s = feedbackInReleased m (feedbackTaken m s) s := by
  simp only [superviseFeedback, state, level, feedbackTaken]

/-- Shown what its state expects, or in RELEASING or SETTING, a brake takes the level and nothing else (R104, R106). -/
theorem superviseFeedback_quiet {m : Motion} {s : State}
    (set : ¬((s.gate.brakes.get m).state = .set ∧ s.feedbackInputs.get m = true))
    (released : ¬((s.gate.brakes.get m).state = .released ∧ s.feedbackInputs.get m = false)) :
    superviseFeedback m s = s.withBrake m (feedbackTaken m s) := by
  unfold superviseFeedback
  simp only
  split
  · next state level => exact absurd ⟨state, level⟩ set
  · next state level => exact absurd ⟨state, level⟩ released
  · rfl

/-- A feedback change before its report: the fail condition set in SET shown released; the line dropped and the motion
zeroed in RELEASED shown not released. -/
def feedbackBase (m : Motion) (s : State) : State :=
  if (s.gate.brakes.get m).state = .set ∧ s.feedbackInputs.get m = true then
    s.withBrake m (failBrake (feedbackTaken m s)).brake
  else if (s.gate.brakes.get m).state = .released ∧ s.feedbackInputs.get m = false then
    zeroMotions (onlyMotion m) (s.withBrake m (failBrake (toSetting (feedbackTaken m s))).brake)
  else s.withBrake m (feedbackTaken m s)

theorem superviseFeedback_reports (m : Motion) (s : State) : OnlyReports (feedbackBase m s) (superviseFeedback m s) := by
  unfold feedbackBase
  split
  · next h =>
    rw [superviseFeedback_set h.1 h.2, feedbackInSet]
    split
    · exact reportRaise_reports _ _ _ _
    · exact .refl _
  · next set =>
    split
    · next h =>
      rw [superviseFeedback_released h.1 h.2, feedbackInReleased]
      split
      · exact reportRaise_reports _ _ _ _
      · exact .refl _
    · next released =>
      rw [superviseFeedback_quiet set released]
      exact .refl _

/-! ### The hold timer and a fresh frame (R70, R72) -/

/-- The hold timer's end before its report (R72). -/
def staleBase (s : State) : State :=
  (s.withPortA { s.ports.a with freshness := .stale, holdTimer := false, staleCondition := true }).withShaper
    { s.shaper with motions := s.shaper.motions.map fun _ r => { r with request := 0 } }

theorem holdExpires_eq {s : State} (runs : s.ports.a.holdTimer = true) :
    holdExpires s = reportRaise .operatorStale .portA none (staleBase s) := if_pos runs

theorem holdExpires_reports {s : State} (runs : s.ports.a.holdTimer = true) :
    OnlyReports (staleBase s) (holdExpires s) := by
  rw [holdExpires_eq runs]
  exact reportRaise_reports _ _ _ _

/-- Whether all four references are 0 (R70). -/
def centred (refs : PerMotion Int) : Bool := (refs.map fun _ x => decide (x = 0)).every

/-- A fresh frame before the permits: the request's mark and the hold timer, and OPERATOR-STALE gone where it was
present and all four references are 0 (R70). -/
def freshBase (mark : Bool) (refs : PerMotion Int) (s : State) : State :=
  s.withPortA { s.ports.a with
    freshness := .fresh, lastMark := some mark, holdTimer := true,
    staleCondition := s.ports.a.staleCondition && !centred refs }

/-- A fresh frame once OPERATOR-STALE has been reported gone, where it was. -/
def freshReported (mark : Bool) (refs : PerMotion Int) (s : State) : State :=
  if centred refs && s.ports.a.staleCondition then reportGone .operatorStale .portA (freshBase mark refs s)
  else freshBase mark refs s

theorem freshReported_reports (mark : Bool) (refs : PerMotion Int) (s : State) :
    OnlyReports (freshBase mark refs s) (freshReported mark refs s) := by
  unfold freshReported
  split
  · exact reportGone_reports _ _ _
  · exact .refl _

theorem freshFrame_eq (mark : Bool) (refs : PerMotion Int) (s : State) :
    freshFrame mark refs s = (freshReported mark refs s).withShaper { (freshReported mark refs s).shaper with
      motions := (freshReported mark refs s).shaper.motions.map
        (storeRequest (freshReported mark refs s).alarms.list refs) } := rfl

theorem reportGone_shaper (c : AlarmCode) (src : Source) (s : State) : (reportGone c src s).shaper = s.shaper :=
  takeReport_shaper _ _

/-- A report that a condition is gone leaves every block but the unit and the list-changed marks. -/
theorem freshReported_eq (mark : Bool) (refs : PerMotion Int) (s : State) :
    freshReported mark refs s = { freshBase mark refs s with
      alarms := (freshReported mark refs s).alarms, ports := (freshReported mark refs s).ports } := by
  unfold freshReported
  split
  · rw [reportGone_eq]
  · rfl

/-- A fresh frame before its report, with the requests and permits of its end: the permits look at the list that the
report leaves, in which no TRIP entry has changed (R70, R75). -/
def freshStored (mark : Bool) (refs : PerMotion Int) (s : State) : State :=
  (freshBase mark refs s).withShaper { s.shaper with
    motions := s.shaper.motions.map (storeRequest (freshReported mark refs s).alarms.list refs) }

theorem freshFrame_reports (mark : Bool) (refs : PerMotion Int) (s : State) :
    OnlyReports (freshStored mark refs s) (freshFrame mark refs s) := by
  have h := freshReported_reports mark refs s
  have e := freshReported_eq mark refs s
  have shaper : (freshReported mark refs s).shaper = s.shaper := by
    rw [e]
    rfl
  have gate : (freshReported mark refs s).gate = s.gate := by
    rw [e]
    rfl
  have walk : (freshReported mark refs s).walk = s.walk := by
    rw [e]
    rfl
  have sequencer : (freshReported mark refs s).sequencer = s.sequencer := by
    rw [e]
    rfl
  have after : (freshFrame mark refs s).shaper = (freshStored mark refs s).shaper := by
    rw [freshFrame_eq, shaper]
    rfl
  exact
    { h with
      shaper := by
        rw [after]
      motion := fun m => .inl ⟨by rw [after], congrArg (·.brakes.get m) gate⟩
      published := .inl ⟨by rw [after], by rw [after]⟩
      gate := by
        rw [show (freshFrame mark refs s).gate = s.gate from gate]
        rfl
      walk := .inl ⟨by rw [after], walk⟩
      sequencer := .inl sequencer }

/-! ### Completed writes (R15, R28, R183) -/

/-- A CALIBRATION write of an encoder channel before its report (R15). -/
def recalibratedBase (e : EncoderId) (cal : EncoderCal) (s : State) : State :=
  let r := s.scanner.encoders.get e
  let state := if r.state = .valid then .notReferenced else r.state
  s.withScanner { s.scanner with encoders := s.scanner.encoders.set e { r with cal := cal, state := state } }

theorem recalibrateEncoder_reports (e : EncoderId) (cal : EncoderCal) (s : State) :
    OnlyReports (recalibratedBase e cal s) (recalibrateEncoder e cal s) := by
  unfold recalibrateEncoder recalibratedBase
  by_cases valid : (s.scanner.encoders.get e).state = .valid
  · simp only [valid, if_true]
    exact reportRaise_reports _ _ _ _
  · simp only [valid, if_false]
    exact .refl _

/-- What the owner of a written record makes of the state before the reports (R183). -/
def appliedBase (w : RecordWrite) (s : State) : State :=
  match w with
  | .calEncoder e cal false => recalibratedBase e cal s
  | .supplyBands t =>
    s.withBands { s.bands with thresholds := t, supply := restartDebounce s.bands.supply, reportDue := false }
  | .boomBands b =>
    s.withBands { s.bands with boomSettings := b, boom := restartDebounce s.bands.boom, reportDue := false }
  | w => applyWrite w s

theorem applyWrite_reports (w : RecordWrite) (s : State) : OnlyReports (appliedBase w s) (applyWrite w s) := by
  cases w with
  | calEncoder e cal zeroing =>
    cases zeroing
    · exact recalibrateEncoder_reports e cal s
    · exact .refl _
  | supplyBands t => exact bandEvent_reports { s.bands with thresholds := t, supply := restartDebounce s.bands.supply } s
  | boomBands b => exact bandEvent_reports { s.bands with boomSettings := b, boom := restartDebounce s.bands.boom } s
  | _ => exact .refl _

/-! ### A commit's completion (R55, R119) -/

/-- A commit's completion before its reports and the queue (R55). -/
def committedBase (generation : Half) (s : State) : State :=
  (s.withEnvelope
    (scannedEnvelope (digCreep s.shaper) s.scanner.snapshot (committedEnvelope generation s.envelope))).withPortC
    { s.ports.c with commitEnded := true }

/-- A commit once its reports are made, before the queue is served (R55). -/
def commitReported (generation : Half) (s : State) : State :=
  let formed := envelopeEvent (s.withEnvelope (committedEnvelope generation s.envelope))
  formed.withPortC { formed.ports.c with commitEnded := true }

theorem finishCommit_eq (generation : Half) (s : State) :
    finishCommit generation s = serviceQueue (commitReported generation s) := rfl

/-- Port C's commit-ended mark is no report's business. -/
theorem OnlyReports.withCommitEnded {s t : State} (h : OnlyReports s t) (b : Bool) :
    OnlyReports (s.withPortC { s.ports.c with commitEnded := b }) (t.withPortC { t.ports.c with commitEnded := b }) :=
  { h with portC := congrArg (fun c : PortC => { c with commitEnded := b }) h.portC }

/-- The store is no report's business. -/
theorem OnlyReports.withStore {s t : State} (h : OnlyReports s t) (x : Store) :
    OnlyReports (s.withStore x) (t.withStore x) := { h with store := rfl }

theorem commitReported_reports (generation : Half) (s : State) :
    OnlyReports (committedBase generation s) (commitReported generation s) :=
  (envelopeEvent_reports (s.withEnvelope (committedEnvelope generation s.envelope))).withCommitEnded true

theorem finishCommit_onlySequencer (generation : Half) (s : State) :
    OnlySequencer (committedBase generation s) (finishCommit generation s) :=
  (commitReported_reports generation s).onlySequencer.trans (serviceQueue_onlySequencer _)

/-! ### The sequencer (R118, R119) -/

theorem takePark_onlySequencer (p : Port) (s : State) : OnlySequencer s (takePark p s) := by
  unfold takePark
  simp only
  split
  · exact onlySequencer_withSequencer _ _
  · exact onlySequencer_withSequencer _ _
  · exact (onlySequencer_withSequencer _ _).trans (serviceQueue_onlySequencer _)

theorem queued_onlySequencer (q : List QueueEntry) (s : State) :
    OnlySequencer s (serviceQueue (s.withSequencer { s.sequencer with queue := q })) :=
  (onlySequencer_withSequencer _ _).trans (serviceQueue_onlySequencer _)

theorem serveDone_onlySequencer (s : State) : OnlySequencer s (serviceQueue (orderDone s)) :=
  (orderDone_onlySequencer s).trans (serviceQueue_onlySequencer _)

/-! ### Readiness, acknowledgement, ZERO-CHANNEL and RESTART -/

theorem takeReadiness_reports (r : PerGroup Readiness) (s : State) :
    OnlyReports (formedReadiness r s) (takeReadiness r s) := by
  rw [takeReadiness_told r s]
  exact takeReports_reports _ _

theorem clearOverrun_reports (s : State) :
    OnlyReports s (takeReport ⟨{ s.alarms with overrun := false }, s.alarms.overrun, false⟩ s) :=
  takeReport_reports ⟨rfl, rfl, rfl⟩

theorem takeAcknowledgement_reports (selects : AlarmEntry → Bool) (s : State) :
    OnlyReports s (takeAcknowledgement selects s) := takeReport_onlyReports_withList s _ _ _

/-- A ZERO-CHANNEL's reference before its report and its write (R14). -/
def referencedBase (e : EncoderId) (value : Int) (s : State) : State :=
  s.withScanner { s.scanner with encoders := s.scanner.encoders.set e (zeroEncoder e value (s.scanner.encoders.get e)) }

/-- A ZERO-CHANNEL once the fault condition has been reported gone, where there was one (R14). -/
def zeroReported (e : EncoderId) (value : Int) (s : State) : State :=
  if (s.scanner.encoders.get e).state = .valid then referencedBase e value s
  else reportGone .channelFault (.encoder e) (referencedBase e value s)

theorem zeroChannel_eq (e : EncoderId) (value : Int) (s : State) :
    zeroChannel e value s =
      startWrite (.calEncoder e (zeroEncoder e value (s.scanner.encoders.get e)).cal true) (zeroReported e value s) := rfl

theorem zeroReported_reports (e : EncoderId) (value : Int) (s : State) :
    OnlyReports (referencedBase e value s) (zeroReported e value s) := by
  unfold zeroReported
  split
  · exact .refl _
  · exact reportGone_reports _ _ _

theorem zeroChannel_reports (e : EncoderId) (value : Int) (s : State) :
    OnlyReports ((referencedBase e value s).withStore (.writing
      (.calEncoder e (zeroEncoder e value (s.scanner.encoders.get e)).cal true))) (zeroChannel e value s) := by
  rw [zeroChannel_eq]
  exact (zeroReported_reports e value s).withStore _

/-- Every block's part of a RESTART, and the list change it is, before TRANSFER-FAIL is raised anew (R165, R180). -/
def restartBase (s : State) : State :=
  noteListChange { s with
    scanner := restartScanner s.scanner
    bands := restartBands s.bands
    envelope := restartEnvelope s.scanner.snapshot s.envelope
    shaper := restartShaper s.shaper
    gate := restartGate s.gate
    sequencer := restartSequencer s.sequencer
    walk := restartWalk s.walk
    alarms := restartAlarms s.alarms
    ports := { s.ports with a := restartPortA s.ports.a } }

theorem restartAll_eq (s : State) :
    restartAll s = if s.sequencer.record.failedMark then reportRaise .transferFail .sequencer none (restartBase s)
      else restartBase s := rfl

theorem restartAll_reports (s : State) : OnlyReports (restartBase s) (restartAll s) := by
  rw [restartAll_eq]
  split
  · exact reportRaise_reports _ _ _ _
  · exact .refl _

/-! ### The base of an effect -/

/-- What an effect forms before its reports and the sequencer's part: the state itself where it is these alone. -/
inductive Base (s : State) : State → Prop
  | stands : Base s s
  | edge (e : EncoderId) (forward : Bool) : Base s (s.withScanner (encoderEdge e forward s.scanner))
  | scan (conversions : PerAnalog Sample) : Base s (scannedBlocks conversions s)
  | period : Base s (periodBlocks s)
  | inputEdge (m : Motion) : Base s (feedbackEdge m s)
  | feedback (m : Motion) : Base s (feedbackBase m s)
  | hold (runs : s.ports.a.holdTimer = true) : Base s (staleBase s)
  | second : Base s (tickSeconds s)
  | written {w : RecordWrite} (flight : s.store = .writing w) :
      Base s (appliedBase w ((s.withMemory (s.memory.write w)).withStore .idle))
  | recordWritten {w next : RecordWrite} {rest : List RecordWrite} (flight : s.store = .committing w (next :: rest)) :
      Base s ((s.withMemory (s.memory.write w)).withStore (.committing next rest))
  | committed {h : ZoneHeader} (flight : s.store = .committing (.zoneHeader h) []) :
      Base s (committedBase h.generation ((s.withMemory (s.memory.write (.zoneHeader h))).withStore .idle))
  | commitShown : Base s (s.withPortC { s.ports.c with commitEnded := false })
  | listRead (p : Port) : Base s (clearListChanged p s)
  | fresh (mark : Bool) (refs : PerMotion Half) :
      Base s (freshStored mark (refs.map fun _ x => clampReference x) s)
  | readiness (r : PerGroup Readiness) : Base s (formedReadiness r s)
  | writeBegun {w : RecordWrite} (idle : s.store = .idle) (range : w.CarriesInRange) : Base s (startWrite w s)
  | zeroed (e : EncoderId) (value : Int) (idle : s.store = .idle) :
      Base s ((referencedBase e value s).withStore (.writing
        (.calEncoder e (zeroEncoder e value (s.scanner.encoders.get e)).cal true)))
  | marksCleared : Base s (s.withScanner (clearMarks s.scanner))
  | editBegun (closed : s.envelope.edit = .closed) : Base s (s.withEnvelope (beginEdit s.envelope))
  | edited (i : Nat) {entry : Option Zone} (opened : s.envelope.edit = .open) (range : ∀ z ∈ entry, ZoneInRange z) :
      Base s (s.withEnvelope (editPosition i entry s.envelope))
  | editDiscarded (opened : s.envelope.edit = .open) : Base s (s.withEnvelope (discardEdit s.envelope))
  | commitBegun (opened : s.envelope.edit = .open) (parked : s.sequencer.mode = .parked) (idle : s.store = .idle) :
      Base s (beginCommit s)
  | restarted (parked : s.sequencer.mode = .parked) (idle : s.store = .idle) : Base s (restartBase s)

/-- An effect is its base, then reports and the sequencer's part. -/
theorem Effect.base {s t : State} (h : Effect s t) : ∃ b, Base s b ∧ OnlySequencer b t := by
  cases h with
  | stands => exact ⟨_, .stands, .refl _⟩
  | edge e forward => exact ⟨_, .edge e forward, .refl _⟩
  | scan conversions => exact ⟨_, .scan conversions, (scanAll_reports conversions s).onlySequencer⟩
  | period => exact ⟨_, .period, periodAll_onlySequencer s⟩
  | inputEdge m => exact ⟨_, .inputEdge m, .refl _⟩
  | feedback m => exact ⟨_, .feedback m, (superviseFeedback_reports m s).onlySequencer⟩
  | hold runs => exact ⟨_, .hold runs, (holdExpires_reports runs).onlySequencer⟩
  | second => exact ⟨_, .second, .refl _⟩
  | written flight => exact ⟨_, .written flight, (applyWrite_reports _ _).onlySequencer⟩
  | recordWritten flight => exact ⟨_, .recordWritten flight, .refl _⟩
  | committed flight => exact ⟨_, .committed flight, finishCommit_onlySequencer _ _⟩
  | commitShown => exact ⟨_, .commitShown, .refl _⟩
  | listRead p => exact ⟨_, .listRead p, .refl _⟩
  | fresh mark refs => exact ⟨_, .fresh mark refs, (freshFrame_reports _ _ s).onlySequencer⟩
  | park p => exact ⟨_, .stands, takePark_onlySequencer p s⟩
  | queued p _ _ => exact ⟨_, .stands, queued_onlySequencer _ s⟩
  | orderDone _ => exact ⟨_, .stands, serveDone_onlySequencer s⟩
  | orderFailed e _ => exact ⟨_, .stands, orderFailed_onlySequencer e s⟩
  | readiness r => exact ⟨_, .readiness r, (takeReadiness_reports r s).onlySequencer⟩
  | stopAll p => exact ⟨_, .stands, (reportMomentary_reports _ _ _ s).onlySequencer⟩
  | overrunCleared => exact ⟨_, .stands, (clearOverrun_reports s).onlySequencer⟩
  | acknowledged selects => exact ⟨_, .stands, (takeAcknowledgement_reports selects s).onlySequencer⟩
  | writeBegun idle range => exact ⟨_, .writeBegun idle range, .refl _⟩
  | zeroed e value idle => exact ⟨_, .zeroed e value idle, (zeroChannel_reports e value s).onlySequencer⟩
  | marksCleared => exact ⟨_, .marksCleared, .refl _⟩
  | editBegun closed => exact ⟨_, .editBegun closed, .refl _⟩
  | edited i opened range => exact ⟨_, .edited i opened range, .refl _⟩
  | editDiscarded opened => exact ⟨_, .editDiscarded opened, .refl _⟩
  | commitBegun opened parked idle => exact ⟨_, .commitBegun opened parked idle, .refl _⟩
  | restarted parked idle => exact ⟨_, .restarted parked idle, (restartAll_reports s).onlySequencer⟩

/-! ### What stopping motions and taking feedback leave -/

/-- The shaper with other motion records and other outputs published: what stopping a motion changes of it (R96). -/
def Shaper.withOutputs (x : Shaper) (motions : PerMotion MotionRecord) (outputs : PerMotion Int) : Shaper :=
  { x with motions := motions, references := { x.references with outputs := outputs } }

/-- The state but for the outputs, the side references and the brakes: what stopping motions and dropping brakes changes
(R96, R108, R141). -/
def State.withStops (s t : State) : State :=
  { s with
    shaper := s.shaper.withOutputs t.shaper.motions t.shaper.references.outputs
    walk := { s.walk with walkLeft := t.walk.walkLeft, walkRight := t.walk.walkRight }
    gate := { s.gate with brakes := t.gate.brakes } }

theorem zeroMotions_keeps (ms : PerMotion Bool) (s : State) : zeroMotions ms s = s.withStops (zeroMotions ms s) := by
  unfold zeroMotions
  simp only
  split <;> rfl

theorem loseService_keeps (ms : PerMotion Bool) (s : State) : loseService ms s = s.withStops (loseService ms s) := by
  unfold loseService
  split
  · rw [zeroMotions_keeps]
    rfl
  · rfl

theorem feedbackBase_keeps (m : Motion) (s : State) : feedbackBase m s = s.withStops (feedbackBase m s) := by
  unfold feedbackBase
  split
  · rfl
  · split
    · rw [zeroMotions_keeps]
      rfl
    · rfl

theorem formedReadiness_keeps (r : PerGroup Readiness) (s : State) :
    formedReadiness r s = (((s.withShaper { s.shaper with readiness := r }).withStops (formedReadiness r s)).withAlarms
      { s.alarms with driveReport := r, driveFault := (formedReadiness r s).alarms.driveFault }) := by
  unfold formedReadiness
  simp only
  rw [loseService_keeps]
  rfl

/-- No effect of a running part touches its supply or the queue of commands. -/
theorem Effect.keeps_pending {s t : State} (h : Effect s t) : t.power = s.power ∧ t.pending = s.pending := by
  obtain ⟨b, base, only⟩ := h.base
  have keeps : b.power = s.power ∧ b.pending = s.pending := by
    cases base with
    | feedback m =>
      rw [feedbackBase_keeps]
      exact ⟨rfl, rfl⟩
    | @written w _ =>
      cases w with
      | calEncoder e cal zeroing => cases zeroing <;> exact ⟨rfl, rfl⟩
      | _ => exact ⟨rfl, rfl⟩
    | listRead p => cases p <;> exact ⟨rfl, rfl⟩
    | readiness r =>
      rw [formedReadiness_keeps]
      exact ⟨rfl, rfl⟩
    | _ => exact ⟨rfl, rfl⟩
  exact ⟨only.power.trans keeps.1, only.pending.trans keeps.2⟩

theorem Stepped.pending {s t : State} (h : Stepped s t) : t.pending = s.pending := by
  cases h with
  | same => rfl
  | held _ => rfl
  | released _ => exact (release_reports s).pending
  | input _ _ => rfl
  | ran _ effect _ => exact effect.keeps_pending.2

/-! ### What follows at every event -/

theorem settle_coherent (s : State) : Coherent (settle s) := by
  refine ⟨fun m => ?_, ?_, fun running => ?_, fun off => if_neg off⟩
  · rw [settle_motion, ← settle_inService]
    exact inService_iff _ m
  · rw [settle_walkPermit]
    exact walkPermitOk_iff s
  · have serves (m : Motion) : inService s m = true ↔ MayServe (settle s) m := by
      rw [← settle_inService]
      exact inService_iff _ m
    have lines := (settle_lines s).trans (linesOf_running running)
    refine ⟨fun m => ?_, fun m => ?_, ?_, ?_, ?_, ?_⟩
    · rw [lines, PerMotion.get_map]
      exact brakeEnergised_iff _
    · rw [lines, PerMotion.get_of, settle_motion, ← serves, runEnabled, Bool.and_eq_true, Bool.and_eq_true, and_assoc,
        brakeEnergised_iff]
      rfl
    · rw [lines]
      rfl
    · rw [lines]
      exact Bool.or_eq_true _ _ ▸ Iff.rfl
    · rw [lines]
      exact orderPending_iff _
    · rw [lines]
      exact Bool.or_eq_true _ _ ▸ Iff.rfl

/-- Settles O55: every command but a feedback input of a part that does not run ends by settling, and no law of
coherence speaks of those inputs. -/
theorem coherenceIsKept : Obligations.CoherenceIsKept := by
  unfold Obligations.CoherenceIsKept
  intro s t coherent hstep
  rcases step_stepped hstep with rfl | ⟨c, stepped⟩
  · exact coherent
  · cases stepped with
    | same => exact coherent
    | held _ => exact settle_coherent _
    | released _ => exact settle_coherent _
    | input _ _ => exact coherent
    | ran _ _ _ => exact settle_coherent _

/-- Settles O3: settling keeps every block but the three it forms. -/
theorem settlingFormsWhatFollows : Obligations.SettlingFormsWhatFollows := by
  unfold Obligations.SettlingFormsWhatFollows
  intro s
  refine ⟨settle_coherent s, ?_⟩
  simp only [settle_motion]
  rfl

/-- Settles O2: what a command steps to is one of `Stepped`, none of which touches the queue. -/
theorem everyCommandAnswersNext : Obligations.EveryCommandAnswersNext := by
  unfold Obligations.EveryCommandAnswersNext
  intro c s
  obtain ⟨t, answer, stepped⟩ := exec_stepped c s
  exact ⟨t, answer, stepped.pending⟩

/-- Settles O1: the two branches of a step, on a queue with a front and on an empty one. -/
theorem stepTakesTheFrontCommand : Obligations.StepTakesTheFrontCommand := by
  unfold Obligations.StepTakesTheFrontCommand
  refine ⟨fun c rest s => rfl, fun s empty => ?_⟩
  rw [step, empty]

end Sys2Proof.Machine
end

section
/-! The laws of ranges every step keeps: the profiles (R60, R61), the zone table, the buffer and the memory (R35, R36,
R49, R51), and the measured values with the walk quantities (R5 to R7, R9, R134, R136). Each speaks of blocks that
reports and the sequencer leave, so that the base of an effect decides. -/

namespace Sys2Proof.Machine

/-! ### The memory -/

/-- The stored profiles are in range (R60). -/
def Memory.ProfilesInRange (mem : Memory) : Prop :=
  (∀ p ∈ mem.load.profileCommon, ProfileInRange p) ∧ (∀ p ∈ mem.load.profileA, PartialInRange p) ∧
  (∀ p ∈ mem.load.profileB, PartialInRange p)

/-- What is read of a sealed record is what was sealed. -/
theorem forall_mem_sealed {α : Type} {R : α → Prop} (form : α → RecordWrite) {x : α} (h : R x) :
    ∀ p ∈ readRecord form (sealRecord form x), R p := by
  rw [readRecord_sealRecord]
  rintro _ ⟨⟩
  exact h

theorem Memory.ProfilesInRange.write {mem : Memory} (h : mem.ProfilesInRange) {w : RecordWrite}
    (range : w.CarriesProfileInRange) : (mem.write w).ProfilesInRange := by
  obtain ⟨common, a, b⟩ := h
  cases w with
  | profileCommon p => exact ⟨forall_mem_sealed _ range, a, b⟩
  | profileA p => exact ⟨common, forall_mem_sealed _ range, b⟩
  | profileB p => exact ⟨common, a, forall_mem_sealed _ range⟩
  | _ => exact ⟨common, a, b⟩

theorem Memory.ProfilesInRange.spoil {mem : Memory} (h : mem.ProfilesInRange) (w : RecordWrite) :
    (mem.spoil w).ProfilesInRange := by
  obtain ⟨common, a, b⟩ := h
  cases w with
  | profileCommon p => exact ⟨by simp [Memory.spoil], a, b⟩
  | profileA p => exact ⟨common, by simp [Memory.spoil], b⟩
  | profileB p => exact ⟨common, a, by simp [Memory.spoil]⟩
  | _ => exact ⟨common, a, b⟩

/-- The stored zones are in range, at 24 positions (R35, R36, R181). -/
def Memory.ZonesInRange (mem : Memory) : Prop :=
  mem.zones.length = 24 ∧ ∀ record ∈ mem.load.zones, ∀ entry ∈ record, ∀ z ∈ entry, ZoneInRange z

theorem Memory.zonesInRange_iff (mem : Memory) : mem.ZonesInRange ↔ mem.zones.length = 24 ∧
    ∀ i r, mem.zones[i]? = some r → ∀ entry ∈ readRecord (.zone i) r, ∀ z ∈ entry, ZoneInRange z := by
  refine and_congr_right fun _ => ⟨fun h i r hr => ?_, fun h record hrecord => ?_⟩
  · exact h _ (List.mem_iff_getElem?.2 ⟨i, by rw [Memory.load_zones, hr]; rfl⟩)
  · obtain ⟨i, hi⟩ := List.mem_iff_getElem?.1 hrecord
    rw [Memory.load_zones] at hi
    obtain ⟨r, hr, rfl⟩ := Option.map_eq_some_iff.1 hi
    exact h i r hr

/-- One position replaced by a record that carries no zone out of range. -/
theorem Memory.ZonesInRange.set {mem : Memory} (h : mem.ZonesInRange) (i : Nat) {x : Option (Stored (Option Zone))}
    (range : ∀ entry ∈ readRecord (.zone i) x, ∀ z ∈ entry, ZoneInRange z) :
    Memory.ZonesInRange { mem with zones := mem.zones.set i x } := by
  rw [Memory.zonesInRange_iff] at h ⊢
  refine ⟨(List.length_set).trans h.1, fun j r hr => ?_⟩
  rw [List.getElem?_set] at hr
  split at hr
  · next same =>
    subst same
    split at hr
    · cases hr
      exact range
    · cases hr
  · exact h.2 j r hr

theorem Memory.ZonesInRange.write {mem : Memory} (h : mem.ZonesInRange) {w : RecordWrite}
    (range : w.CarriesZoneInRange) : (mem.write w).ZonesInRange := by
  cases w with
  | zone i entry =>
    refine h.set i fun e he => ?_
    rw [readRecord_sealRecord] at he
    cases he
    exact range
  | _ => exact h

theorem Memory.ZonesInRange.spoil {mem : Memory} (h : mem.ZonesInRange) (w : RecordWrite) :
    (mem.spoil w).ZonesInRange := by
  cases w with
  | zone i entry => exact h.set i (by simp)
  | _ => exact h

/-- A law of the memory that a cut-off keeps holds of the memory a reset leaves. -/
theorem cutOff_memory {M : Memory → Prop} {s : State} (h : M s.memory) (spoil : ∀ w, M (s.memory.spoil w)) :
    M (cutOff s).memory := by
  unfold cutOff
  split
  · exact h
  · exact spoil _
  · exact spoil _

/-! ### Profiles -/

theorem factoryProfiles_inRange : ProfileInRange Config.factoryCommon ∧ PartialInRange Config.factoryPartial := by
  simp [ProfileInRange, PartialInRange, Within, Config.factoryCommon, Config.factoryPartial]

/-- A profile a load finds, or the factory's where it finds none, is in range (R76). -/
theorem loadedProfiles_inRange {mem : Memory} (h : mem.ProfilesInRange) :
    ProfileInRange (mem.load.profileCommon.getD Config.factoryCommon) ∧
    PartialInRange (mem.load.profileA.getD Config.factoryPartial) ∧
    PartialInRange (mem.load.profileB.getD Config.factoryPartial) := by
  have getD {α : Type} {R : α → Prop} {x : Option α} {d : α} (h : ∀ p ∈ x, R p) (hd : R d) : R (x.getD d) := by
    cases x with
    | none => exact hd
    | some p => exact h p rfl
  obtain ⟨common, a, b⟩ := h
  exact ⟨getD common factoryProfiles_inRange.1, getD a factoryProfiles_inRange.2, getD b factoryProfiles_inRange.2⟩

/-- The law of profiles by the block it speaks of. -/
theorem profileLaw_iff (s : State) : ProfileLaw s ↔
    (ProfileInRange s.shaper.profiles.common ∧ PartialInRange s.shaper.profiles.a ∧
      PartialInRange s.shaper.profiles.b) ∧
    s.memory.ProfilesInRange ∧ ∀ w ∈ s.store.records, w.CarriesProfileInRange := by
  simp only [ProfileLaw, Memory.ProfilesInRange, and_assoc]

theorem ProfileLaw.congr {s t : State} (h : ProfileLaw s) (profiles : t.shaper.profiles = s.shaper.profiles)
    (memory : t.memory = s.memory) (store : t.store = s.store) : ProfileLaw t := by
  rw [profileLaw_iff, profiles, memory, store]
  exact (profileLaw_iff s).1 h

theorem OnlySequencer.profileLaw {s t : State} (only : OnlySequencer s t) (h : ProfileLaw s) : ProfileLaw t :=
  h.congr only.profiles only.memory only.store

/-- The records of a commit after its first header carry no profile. -/
theorem editedRecords_carry (i : Nat) (b : List BufferSlot) (range : ∀ slot ∈ b, ∀ z ∈ slot.entry, ZoneInRange z) :
    ∀ w ∈ editedRecords i b, w.CarriesInRange := by
  induction b generalizing i with
  | nil => simp [editedRecords]
  | cons slot rest ih =>
    have ih := ih (i + 1) fun x hx => range x (List.mem_cons_of_mem _ hx)
    unfold editedRecords
    split
    · exact List.forall_mem_cons.2 ⟨⟨trivial, range slot List.mem_cons_self⟩, ih⟩
    · exact ih

theorem editedRecords_carryProfile (i : Nat) (b : List BufferSlot) :
    ∀ w ∈ editedRecords i b, w.CarriesProfileInRange := by
  induction b generalizing i with
  | nil => simp [editedRecords]
  | cons slot rest ih =>
    unfold editedRecords
    split
    · exact List.forall_mem_cons.2 ⟨trivial, ih _⟩
    · exact ih _

/-- The records of a commit, from the marked header on (R54). -/
theorem commitRecords_carry {R : RecordWrite → Prop} (header : ∀ h, R (.zoneHeader h)) {e : Envelope}
    (edited : ∀ w ∈ editedRecords 0 e.buffer, R w) :
    ∀ w ∈ (Store.committing (.zoneHeader ⟨e.generation, true⟩) (commitRest e)).records, R w := by
  refine List.forall_mem_cons.2 ⟨header _, fun w hw => ?_⟩
  rcases List.mem_append.1 hw with hw | hw
  · exact edited w hw
  · exact List.mem_singleton.1 hw ▸ header _

theorem Base.profileLaw {s b : State} (base : Base s b) (h : ProfileLaw s) : ProfileLaw b := by
  obtain ⟨⟨common, a, b⟩, memory, store⟩ := (profileLaw_iff s).1 h
  cases base with
  | feedback m =>
    rw [feedbackBase_keeps]
    exact h
  | @written w flight =>
    have range : w.CarriesProfileInRange := store w (by simp [flight, Store.records])
    have memory := memory.write range
    rw [profileLaw_iff]
    cases w with
    | profileCommon p => exact ⟨⟨range, a, b⟩, memory, by simp [appliedBase, applyWrite, applyCommon, Store.records]⟩
    | profileA p => exact ⟨⟨common, range, b⟩, memory, by simp [appliedBase, applyWrite, applyProfileA, Store.records]⟩
    | profileB p => exact ⟨⟨common, a, range⟩, memory, by simp [appliedBase, applyWrite, applyProfileB, Store.records]⟩
    | calEncoder e cal zeroing => cases zeroing <;> exact ⟨⟨common, a, b⟩, memory, List.forall_mem_nil _⟩
    | _ => exact ⟨⟨common, a, b⟩, memory, List.forall_mem_nil _⟩
  | @recordWritten w next rest flight =>
    rw [flight] at store
    obtain ⟨range, store⟩ := List.forall_mem_cons.1 store
    exact (profileLaw_iff _).2 ⟨⟨common, a, b⟩, memory.write range, store⟩
  | committed flight =>
    exact (profileLaw_iff _).2 ⟨⟨common, a, b⟩, memory.write trivial, List.forall_mem_nil _⟩
  | listRead p => cases p <;> exact h
  | readiness r =>
    rw [formedReadiness_keeps]
    exact h
  | writeBegun _ range => exact (profileLaw_iff _).2 ⟨⟨common, a, b⟩, memory, List.forall_mem_singleton.2 range.1⟩
  | zeroed _ _ _ => exact (profileLaw_iff _).2 ⟨⟨common, a, b⟩, memory, List.forall_mem_singleton.2 trivial⟩
  | commitBegun _ _ _ =>
    exact (profileLaw_iff _).2
      ⟨⟨common, a, b⟩, memory, commitRecords_carry (fun _ => trivial) (editedRecords_carryProfile 0 _)⟩
  | _ => exact h

theorem step_profileLaw {s t : State} (h : ProfileLaw s) (hstep : step s = .next t) : ProfileLaw t := by
  refine step_establishes (P := ProfileLaw) (fun _ _ h => h) (fun _ h => h) (fun _ _ h => h) (fun _ _ h => h)
    (fun s p h => ?_) (fun s h => ?_) (fun s t h effect => ?_) h hstep
  · obtain ⟨-, memory, -⟩ := (profileLaw_iff s).1 h
    exact (profileLaw_iff _).2 ⟨⟨factoryProfiles_inRange.1, factoryProfiles_inRange.2, factoryProfiles_inRange.2⟩,
      cutOff_memory memory memory.spoil, List.forall_mem_nil _⟩
  · obtain ⟨-, memory, -⟩ := (profileLaw_iff s).1 h
    have loaded : ProfileLaw (loadedBlocks s) :=
      (profileLaw_iff _).2 ⟨loadedProfiles_inRange memory, memory, List.forall_mem_nil _⟩
    exact (release_reports s).onlySequencer.profileLaw loaded
  · obtain ⟨b, base, only⟩ := effect.base
    exact only.profileLaw (base.profileLaw h)

/-! ### The zone table -/

/-- The table and the buffer: 24 positions each of zones in range, the buffer empty while the edit is CLOSED (R35, R36,
R49). -/
structure Envelope.Tabled (e : Envelope) : Prop where
  table : e.table.length = 24
  buffer : e.buffer.length = 24
  closed : e.edit = .closed → ∀ slot ∈ e.buffer, slot = ⟨none, false⟩
  tableZones : ∀ slot ∈ e.table, ∀ z ∈ slot.entry, ZoneInRange z
  bufferZones : ∀ slot ∈ e.buffer, ∀ z ∈ slot.entry, ZoneInRange z

/-- The unit with the same table and buffer, its edit CLOSED only where it was. -/
theorem Envelope.Tabled.congr {e e' : Envelope} (h : e.Tabled) (table : e'.table = e.table)
    (buffer : e'.buffer = e.buffer) (closed : e'.edit = .closed → e.edit = .closed) : e'.Tabled where
  table := table ▸ h.table
  buffer := buffer ▸ h.buffer
  closed k := buffer ▸ h.closed (closed k)
  tableZones := table ▸ h.tableZones
  bufferZones := buffer ▸ h.bufferZones

/-- The law of the table by the block it speaks of. -/
theorem tableLaw_iff (s : State) : TableLaw s ↔
    s.envelope.Tabled ∧ s.memory.ZonesInRange ∧ ∀ w ∈ s.store.records, w.CarriesZoneInRange := by
  constructor
  · rintro ⟨table, buffer, memory, closed, tableZones, bufferZones, memoryZones, store⟩
    exact ⟨⟨table, buffer, closed, tableZones, bufferZones⟩, ⟨memory, memoryZones⟩, store⟩
  · rintro ⟨⟨table, buffer, closed, tableZones, bufferZones⟩, ⟨memory, memoryZones⟩, store⟩
    exact ⟨table, buffer, memory, closed, tableZones, bufferZones, memoryZones, store⟩

theorem OnlySequencer.tableLaw {s t : State} (only : OnlySequencer s t) (h : TableLaw s) : TableLaw t := by
  rw [tableLaw_iff, show t.envelope = s.envelope from only.envelope, show t.memory = s.memory from only.memory,
    show t.store = s.store from only.store]
  exact (tableLaw_iff s).1 h

theorem mem_emptyBuffer {slot : BufferSlot} (h : slot ∈ emptyBuffer) : slot = ⟨none, false⟩ :=
  (List.mem_replicate.1 h).2

theorem emptyBuffer_zones : ∀ slot ∈ emptyBuffer, ∀ z ∈ slot.entry, ZoneInRange z := by
  intro slot h z hz
  rw [mem_emptyBuffer h] at hz
  cases hz

/-- The unit with its buffer emptied, whatever its edit state becomes (R49, R52, R58). -/
theorem Envelope.Tabled.emptied {e e' : Envelope} (h : e.Tabled) (table : e'.table = e.table)
    (buffer : e'.buffer = emptyBuffer) : e'.Tabled where
  table := table ▸ h.table
  buffer := buffer ▸ List.length_replicate
  closed _ _ hslot := mem_emptyBuffer (buffer ▸ hslot)
  tableZones := table ▸ h.tableZones
  bufferZones := buffer ▸ emptyBuffer_zones

theorem Envelope.Tabled.begun {e : Envelope} (h : e.Tabled) : (beginEdit e).Tabled where
  table := h.table
  buffer := (List.length_map _).trans h.table
  closed open' := by cases open'
  tableZones := h.tableZones
  bufferZones slot hslot z hz := by
    obtain ⟨x, hx, rfl⟩ := List.mem_map.1 hslot
    exact h.tableZones x hx z hz

theorem Envelope.Tabled.edited {e : Envelope} (h : e.Tabled) (opened : e.edit = .open) (i : Nat) {entry : Option Zone}
    (range : ∀ z ∈ entry, ZoneInRange z) : (editPosition i entry e).Tabled where
  table := h.table
  buffer := List.length_set.trans h.buffer
  closed closed := by cases opened.symm.trans closed
  tableZones := h.tableZones
  bufferZones slot hslot z hz := by
    rcases List.mem_or_eq_of_mem_set hslot with old | rfl
    · exact h.bufferZones slot old z hz
    · exact range z hz

/-- The table a commit leaves holds the buffer's zones (R55). -/
theorem Envelope.Tabled.committed {e : Envelope} (h : e.Tabled) (generation : Half) :
    (committedEnvelope generation e).Tabled where
  table := by simp [committedEnvelope, committedTable, List.length_zipWith, h.table, h.buffer]
  buffer := List.length_replicate
  closed _ _ hslot := mem_emptyBuffer hslot
  tableZones slot hslot z hz := by
    obtain ⟨i, hi, rfl⟩ := List.mem_iff_getElem.1 hslot
    simp only [committedEnvelope, committedTable, List.getElem_zipWith] at hz
    exact h.bufferZones _ (List.getElem_mem _) z hz
  bufferZones := emptyBuffer_zones

theorem Base.tableLaw {s b : State} (base : Base s b) (h : TableLaw s) : TableLaw b := by
  obtain ⟨envelope, memory, store⟩ := (tableLaw_iff s).1 h
  cases base with
  | feedback m =>
    rw [feedbackBase_keeps]
    exact h
  | @written w flight =>
    have range : w.CarriesZoneInRange := store w (by simp [flight, Store.records])
    have memory := memory.write range
    rw [tableLaw_iff]
    cases w with
    | calEncoder e cal zeroing => cases zeroing <;> exact ⟨envelope, memory, List.forall_mem_nil _⟩
    | _ => exact ⟨envelope, memory, List.forall_mem_nil _⟩
  | @recordWritten w next rest flight =>
    rw [flight] at store
    obtain ⟨range, store⟩ := List.forall_mem_cons.1 store
    exact (tableLaw_iff _).2 ⟨envelope, memory.write range, store⟩
  | @committed x flight =>
    exact (tableLaw_iff _).2 ⟨(envelope.committed x.generation).congr rfl rfl fun h => h, memory.write trivial,
      List.forall_mem_nil _⟩
  | listRead p => cases p <;> exact h
  | readiness r =>
    rw [formedReadiness_keeps]
    exact h
  | writeBegun _ range => exact (tableLaw_iff _).2 ⟨envelope, memory, List.forall_mem_singleton.2 range.2⟩
  | zeroed _ _ _ => exact (tableLaw_iff _).2 ⟨envelope, memory, List.forall_mem_singleton.2 trivial⟩
  | editBegun _ => exact (tableLaw_iff _).2 ⟨envelope.begun, memory, store⟩
  | edited i opened range => exact (tableLaw_iff _).2 ⟨envelope.edited opened i range, memory, store⟩
  | editDiscarded _ => exact (tableLaw_iff _).2 ⟨envelope.emptied rfl rfl, memory, store⟩
  | commitBegun _ _ _ =>
    refine (tableLaw_iff _).2 ⟨envelope.congr rfl rfl (fun h => nomatch h), memory, ?_⟩
    exact commitRecords_carry (fun _ => trivial) fun w hw => (editedRecords_carry 0 _ envelope.bufferZones w hw).2
  | restarted _ _ => exact (tableLaw_iff _).2 ⟨envelope.emptied rfl rfl, memory, store⟩
  | _ => exact h

/-- The table a load leaves: the zones of the records that pass (R185). -/
theorem loadedEnvelope_tabled {mem : Memory} (h : mem.ZonesInRange) : (loadedEnvelope mem.load).Tabled where
  table := (List.length_map _).trans ((Memory.load_zones_length mem).trans h.1)
  buffer := List.length_replicate
  closed _ _ hslot := mem_emptyBuffer hslot
  tableZones slot hslot z hz := by
    obtain ⟨record, hrecord, rfl⟩ := List.mem_map.1 hslot
    cases record with
    | none => cases hz
    | some entry => exact h.2 _ hrecord entry rfl z hz
  bufferZones := emptyBuffer_zones

theorem resetEnvelope_tabled : State.reset.envelope.Tabled where
  table := List.length_replicate
  buffer := List.length_replicate
  closed _ _ hslot := mem_emptyBuffer hslot
  tableZones slot hslot z hz := by
    rw [(List.mem_replicate.1 hslot).2] at hz
    cases hz
  bufferZones := emptyBuffer_zones

theorem step_tableLaw {s t : State} (h : TableLaw s) (hstep : step s = .next t) : TableLaw t := by
  refine step_establishes (P := TableLaw) (fun _ _ h => h) (fun _ h => h) (fun _ _ h => h) (fun _ _ h => h)
    (fun s p h => ?_) (fun s h => ?_) (fun s t h effect => ?_) h hstep
  · obtain ⟨-, memory, -⟩ := (tableLaw_iff s).1 h
    exact (tableLaw_iff _).2 ⟨resetEnvelope_tabled, cutOff_memory memory memory.spoil, List.forall_mem_nil _⟩
  · obtain ⟨-, memory, -⟩ := (tableLaw_iff s).1 h
    have loaded : TableLaw (loadedBlocks s) :=
      (tableLaw_iff _).2 ⟨loadedEnvelope_tabled memory, memory, List.forall_mem_nil _⟩
    exact (release_reports s).onlySequencer.tableLaw loaded
  · obtain ⟨b, base, only⟩ := effect.base
    exact only.tableLaw (base.tableLaw h)

/-! ### Measured values -/

/-- Every scaled value and last good value is in its channel's range (R5 to R7, R9). -/
structure Scanner.InRange (x : Scanner) : Prop where
  encoder : ∀ e, Between (encoderLow e) (encoderHigh e) (x.encoders.get e).scaled ∧
    Between (encoderLow e) (encoderHigh e) (x.encoders.get e).lastGood
  analog : ∀ a, Between (analogLow a) (analogHigh a) (x.analogs.get a).scaled ∧
    Between (analogLow a) (analogHigh a) (x.analogs.get a).lastGood

/-- The walk quantities are in range, and the combined rest test is of both cams (R134, R136 to R138). -/
structure WalkTracker.InRange (w : WalkTracker) : Prop where
  left : Between (-999999) 999999 w.leftPosition
  right : Between (-999999) 999999 w.rightPosition
  leftAngle : w.leftAngle < 360
  rightAngle : w.rightAngle < 360
  skew : Between (-9999) 9999 w.skew
  position : Between (-999999) 999999 w.walkPosition
  steps : Between (-2777) 2777 w.steps
  rest : w.bothInRest = true ↔ w.leftInRest = true ∧ w.rightInRest = true

theorem measuredLaw_iff (s : State) : MeasuredLaw s ↔ s.scanner.InRange ∧ s.walk.InRange := by
  constructor
  · rintro ⟨encoder, analog, left, right, leftAngle, rightAngle, skew, position, steps, rest⟩
    exact ⟨⟨encoder, analog⟩, ⟨left, right, leftAngle, rightAngle, skew, position, steps, rest⟩⟩
  · rintro ⟨⟨encoder, analog⟩, ⟨left, right, leftAngle, rightAngle, skew, position, steps, rest⟩⟩
    exact ⟨encoder, analog, left, right, leftAngle, rightAngle, skew, position, steps, rest⟩

/-- The tracker but for what no scan measures: the side references, the SKEW condition, the settings and the mark. -/
theorem WalkTracker.InRange.congr {w w' : WalkTracker} (h : w.InRange)
    (e : w' = { w with
      walkLeft := w'.walkLeft, walkRight := w'.walkRight, skewCondition := w'.skewCondition, settings := w'.settings
      reportDue := w'.reportDue }) : w'.InRange := by
  rw [e]
  exact ⟨h.left, h.right, h.leftAngle, h.rightAngle, h.skew, h.position, h.steps, h.rest⟩

theorem OnlySequencer.measuredLaw {s t : State} (only : OnlySequencer s t) (h : MeasuredLaw s) : MeasuredLaw t := by
  rw [measuredLaw_iff, show t.scanner = s.scanner from only.scanner,
    show t.walk = { s.walk with walkLeft := t.walk.walkLeft, walkRight := t.walk.walkRight } from only.walk_eq]
  obtain ⟨scanner, walk⟩ := (measuredLaw_iff s).1 h
  exact ⟨scanner, walk.congr rfl⟩

theorem clampInt_between {lo hi : Int} (h : lo ≤ hi) (v : Int) : Between lo hi (clampInt lo hi v) := by
  unfold Between clampInt
  omega

/-- One encoder record replaced by another with the same values. -/
theorem Scanner.InRange.withEncoder {x : Scanner} (h : x.InRange) (e : EncoderId) {r : EncoderRecord}
    (scaled : r.scaled = (x.encoders.get e).scaled) (lastGood : r.lastGood = (x.encoders.get e).lastGood) :
    Scanner.InRange { x with encoders := x.encoders.set e r } where
  encoder f := by
    rw [PerEncoder.get_set]
    split
    · next same =>
      rw [scaled, lastGood, same]
      exact h.encoder e
    · exact h.encoder f
  analog := h.analog

theorem Scanner.InRange.withAnalogCal {x : Scanner} (h : x.InRange) (a : AnalogId) (cal : AnalogCal) :
    Scanner.InRange { x with analogs := x.analogs.set a { x.analogs.get a with cal := cal } } where
  encoder := h.encoder
  analog b := by
    rw [PerAnalog.get_set]
    split
    · next same => exact same ▸ h.analog a
    · exact h.analog b

theorem scanChannels_inRange {x : Scanner} (h : x.InRange) (conversions : PerAnalog Sample) :
    (scanChannels conversions x).InRange where
  encoder e := by
    have value : Between (encoderLow e) (encoderHigh e) (scanEncoder e (x.encoders.get e)).scaled :=
      clampInt_between (encoderLow_le_high e) _
    obtain ⟨-, -, -, -, -, lastGood, -⟩ := scanEncoder_scanned e (x.encoders.get e)
    rw [scanChannels_encoder, lastGood]
    refine ⟨value, ?_⟩
    split
    · exact value
    · exact (h.encoder e).2
  analog a := by
    have value : Between (analogLow a) (analogHigh a) (scanAnalog a (conversions.get a) (x.analogs.get a)).scaled :=
      clampInt_between (analogLow_le_high a) _
    obtain ⟨-, -, -, -, -, -, -, -, lastGood, -⟩ := scanAnalog_scanned a (conversions.get a) (x.analogs.get a)
    rw [scanChannels_analog, lastGood]
    refine ⟨value, ?_⟩
    split
    · exact value
    · exact (h.analog a).2

/-- What a snapshot of scanned records publishes is in range: the scaled value or the last good one (R8). -/
theorem scanSnapshot_between {x : Scanner} (h : x.InRange) (conversions : PerAnalog Sample) (e : EncoderId) :
    Between (encoderLow e) (encoderHigh e) ((scanSnapshot conversions x).encoders.get e).value := by
  obtain ⟨scaled, lastGood⟩ := (scanChannels_inRange h conversions).encoder e
  rw [scanSnapshot_encoder]
  unfold sampleEncoder encoderPublished
  simp only
  split
  · exact lastGood
  · exact scaled

theorem camAngle_lt (position : Int) : camAngle position < 360 := by
  have := camAngle_eq_emod position
  omega

theorem walkPositionOf_between {l r : Int} (hl : Between (-999999) 999999 l) (hr : Between (-999999) 999999 r) :
    Between (-999999) 999999 (walkPositionOf l r) := by
  unfold Between walkPositionOf at *
  rw [Int.fdiv_eq_ediv_of_nonneg _ (by decide)]
  omega

theorem stepsOf_between {p : Int} (h : Between (-999999) 999999 p) : Between (-2777) 2777 (stepsOf p) := by
  obtain ⟨low, high⟩ := h
  have most : p.tdiv 360 ≤ (999999 : Int).tdiv 360 := Int.tdiv_le_tdiv (by decide) high
  have least : (-999999 : Int).tdiv 360 ≤ p.tdiv 360 := Int.tdiv_le_tdiv (by decide) low
  exact ⟨least, most⟩

theorem scannedWalk_inRange {w : WalkTracker} (h : w.InRange) {x : Scanner} (hx : x.InRange)
    (conversions : PerAnalog Sample) : (scannedWalk (scanSnapshot conversions x) w).InRange := by
  have left := scanSnapshot_between hx conversions .camLeft
  have right := scanSnapshot_between hx conversions .camRight
  have angle {p : Prop} [Decidable p] {x : Int} {n : Nat} (h : n < 360) : (if p then camAngle x else n) < 360 := by
    split
    · exact camAngle_lt x
    · exact h
  have position := walkPositionOf_between left right
  unfold scannedWalk trackWalk
  simp only
  split
  · exact ⟨left, right, angle h.leftAngle, angle h.rightAngle, clampInt_between (by decide) _, position,
      stepsOf_between position, by simp⟩
  · exact ⟨h.left, h.right, angle h.leftAngle, angle h.rightAngle, h.skew, h.position, h.steps, by simp⟩

theorem Base.measuredLaw {s b : State} (base : Base s b) (h : MeasuredLaw s) : MeasuredLaw b := by
  obtain ⟨scanner, walk⟩ := (measuredLaw_iff s).1 h
  cases base with
  | edge e forward => exact (measuredLaw_iff _).2 ⟨scanner.withEncoder e rfl rfl, walk⟩
  | scan conversions =>
    exact (measuredLaw_iff _).2 ⟨scanChannels_inRange scanner conversions, scannedWalk_inRange walk scanner conversions⟩
  | feedback m =>
    rw [feedbackBase_keeps]
    exact (measuredLaw_iff _).2 ⟨scanner, walk.congr rfl⟩
  | @written w flight =>
    rw [measuredLaw_iff]
    cases w with
    | calEncoder e cal zeroing =>
      cases zeroing
      · exact ⟨scanner.withEncoder e rfl rfl, walk⟩
      · exact ⟨scanner, walk⟩
    | calAnalog a cal => exact ⟨scanner.withAnalogCal a cal, walk⟩
    | walk w => exact ⟨scanner, walk.congr rfl⟩
    | _ => exact ⟨scanner, walk⟩
  | listRead p => cases p <;> exact h
  | readiness r =>
    rw [formedReadiness_keeps]
    exact (measuredLaw_iff _).2 ⟨scanner, walk.congr rfl⟩
  | zeroed e value _ => exact (measuredLaw_iff _).2 ⟨scanner.withEncoder e rfl rfl, walk⟩
  | marksCleared =>
    refine (measuredLaw_iff _).2 ⟨⟨fun e => ?_, fun a => ?_⟩, walk⟩
    · simpa [clearMarks] using scanner.encoder e
    · simpa [clearMarks] using scanner.analog a
  | restarted _ _ =>
    refine (measuredLaw_iff _).2 ⟨⟨fun e => ?_, fun a => ?_⟩, walk.congr rfl⟩
    · simpa [restartBase, noteListChange, restartScanner] using scanner.encoder e
    · simpa [restartBase, noteListChange, restartScanner] using scanner.analog a
  | _ => exact h

theorem between_zero {lo hi : Int} (low : lo ≤ 0) (high : 0 ≤ hi) : Between lo hi 0 := ⟨low, high⟩

theorem resetWalk_inRange : State.reset.walk.InRange where
  left := between_zero (by decide) (by decide)
  right := between_zero (by decide) (by decide)
  leftAngle := by decide
  rightAngle := by decide
  skew := between_zero (by decide) (by decide)
  position := between_zero (by decide) (by decide)
  steps := between_zero (by decide) (by decide)
  rest := by decide

/-- Channels at the release show 0, which every channel's range holds (log entry 5). -/
theorem resetScanner_inRange {x : Scanner} (encoder : ∀ e, ∃ cal, x.encoders.get e = .reset cal)
    (analog : ∀ a, ∃ cal, x.analogs.get a = .reset cal) : x.InRange where
  encoder e := by
    obtain ⟨cal, h⟩ := encoder e
    have zero : Between (encoderLow e) (encoderHigh e) 0 := between_zero (by cases e <;> decide) (by cases e <;> decide)
    rw [h]
    exact ⟨zero, zero⟩
  analog a := by
    obtain ⟨cal, h⟩ := analog a
    have zero : Between (analogLow a) (analogHigh a) 0 := between_zero (by cases a <;> decide) (by cases a <;> decide)
    rw [h]
    exact ⟨zero, zero⟩

theorem step_measuredLaw {s t : State} (h : MeasuredLaw s) (hstep : step s = .next t) : MeasuredLaw t := by
  refine step_establishes (P := MeasuredLaw) (fun _ _ h => h) (fun _ h => h) (fun _ _ h => h) (fun _ _ h => h)
    (fun s p _ => ?_) (fun s _ => ?_) (fun s t h effect => ?_) h hstep
  · exact (measuredLaw_iff _).2 ⟨resetScanner_inRange (fun e => by cases e <;> exact ⟨_, rfl⟩)
      (fun a => by cases a <;> exact ⟨_, rfl⟩), resetWalk_inRange⟩
  · have loaded : MeasuredLaw (loadedBlocks s) :=
      (measuredLaw_iff _).2 ⟨resetScanner_inRange (fun e => ⟨_, PerEncoder.get_map _ _ e⟩)
        (fun a => ⟨_, PerAnalog.get_map _ _ a⟩), resetWalk_inRange.congr rfl⟩
    exact (release_reports s).onlySequencer.measuredLaw loaded
  · obtain ⟨b, base, only⟩ := effect.base
    exact only.measuredLaw (base.measuredLaw h)

/-- Settles O57: each law speaks of blocks that only the base of an effect changes. -/
theorem rangeLawsAreKept : Obligations.RangeLawsAreKept := by
  unfold Obligations.RangeLawsAreKept
  exact ⟨fun _ _ => step_profileLaw, fun _ _ => step_tableLaw, fun _ _ => step_measuredLaw⟩

end Sys2Proof.Machine
end

section
/-! What the sequencer's part of an effect can do, said once (`takeEntry_done`, `serviceQueue_keeps`), and the laws of
the brakes, of the freshness state, of the drive reports, and of the queue, the orders and the commit, which every step
keeps (R31, R53, R59, R69 to R73, R100, R114 to R117, R125, R159, R160). -/

namespace Sys2Proof.Machine

/-! ### The taking of entries (R119, R121) -/

/-- The modes between which an entry moves the sequencer with no order (R121). -/
inductive EntryMoves : Mode → Mode → Prop
  | toDig : EntryMoves .parked .dig
  | toWalk : EntryMoves .parked .walk
  | stopDig (d : Settled) : EntryMoves .dig (.stopping .dig d)
  | stopWalk (d : Settled) : EntryMoves .walk (.stopping .walk d)

/-- What the taking of an entry can be: nothing, the mode alone changed, an order issued in PARKED, or a refusal. -/
inductive EntryDone (s : State) : State → Prop
  | stands : EntryDone s s
  | moved {mode : Mode} (moves : EntryMoves s.sequencer.mode mode) : EntryDone s (setMode mode s)
  | issued (kind : Working) (parked : s.sequencer.mode = .parked) : EntryDone s (issueOrder kind s)
  | refused (d : Detail) : EntryDone s (refuseSequence d s)

theorem takeEntry_done (request : Settled) (s : State) : EntryDone s (takeEntry request s) := by
  have moved {a b : Mode} (h : s.sequencer.mode = a) (moves : EntryMoves a b) : EntryDone s (setMode b s) :=
    .moved (h ▸ moves)
  unfold takeEntry
  split
  · next mode =>
    split
    · exact moved mode .toDig
    · split
      · exact .issued _ mode
      · exact .refused _
    · exact .issued _ mode
  · next mode => exact moved mode (.stopWalk _)
  · next mode =>
    split
    · split
      · exact moved mode .toWalk
      · exact .issued _ mode
    · exact .refused _
  · next mode =>
    split
    · exact moved mode (.stopDig _)
    · exact .refused _
  · next mode => exact moved mode (.stopDig _)
  · next mode => exact moved mode (.stopWalk _)
  · exact .stands

/-- What each entry taken leaves, the queue served leaves. -/
theorem serviceQueue_keeps {L : State → Prop}
    (taken : ∀ s e rest t, L s → s.sequencer.queue = e :: rest → mayTake s = true →
      EntryDone (s.withSequencer { s.sequencer with queue := rest }) t → L t)
    {s : State} (h : L s) : L (serviceQueue s) := by
  have entries (n : Nat) (s : State) (h : L s) : L (takeEntries n s) := by
    induction n generalizing s with
    | zero => exact h
    | succ n ih =>
      unfold takeEntries
      split
      · exact h
      · next e rest queue =>
        split
        · next may => exact ih _ (taken s e rest _ h queue may (takeEntry_done e.request _))
        · exact h
  exact entries _ s h

/-- What the end of STOPPING can be: the stop goes on, or it has completed and the queue is served (R123, R124). -/
theorem periodEndAtSequencer_keeps {L : State → Prop} {notices : PerMotion Notice} {s : State} (h : L s)
    (ended : ∀ source d, s.sequencer.mode = .stopping source d → stopComplete source notices s = true →
      L (serviceQueue (completeStop d s))) : L (periodEndAtSequencer notices s) := by
  unfold periodEndAtSequencer
  split
  · next source d mode =>
    split
    · next complete => exact ended source d mode complete
    · exact h
  · exact h

/-! ### What the sequencer's part of an effect is made of -/

/-- A completed stop: STOPPING with every brake of the source mode SET (R123). -/
def StopStands (s : State) : Prop :=
  ∃ source d, s.sequencer.mode = .stopping source d ∧
    ∀ m, (sourceMotions source).get m = true → (s.gate.brakes.get m).state = .set

/-- One thing that can happen behind what an effect forms: reports, and each way the sequencer moves (R117 to R129),
with what holds where it does. -/
inductive Turn (s : State) : State → Prop
  | reports {t : State} (only : OnlyReports s t) : Turn s t
  | appended {request : Settled} (p : Port) (asked : request ≠ .parked) (room : s.sequencer.queue.length < 4) :
      Turn s (s.withSequencer { s.sequencer with queue := s.sequencer.queue ++ [⟨request, p⟩] })
  | parkAsked (p : Port) : Turn s (s.withSequencer { s.sequencer with queue := [⟨.parked, p⟩] })
  | redirected (unsettled : isSettled s.sequencer.mode = false) :
      Turn s (s.withSequencer { s.sequencer with queue := [], mode := modeAfterTrip s.sequencer.mode })
  | taken {e : QueueEntry} {rest : List QueueEntry} (queue : s.sequencer.queue = e :: rest) :
      Turn s (s.withSequencer { s.sequencer with queue := rest })
  | moved {mode : Mode} (moves : EntryMoves s.sequencer.mode mode) (free : s.envelope.edit ≠ .committing) :
      Turn s (setMode mode s)
  | stopped (d : Settled) (stands : StopStands s) : Turn s (setMode d.mode s)
  | issued (kind : Working)
      (ready : s.sequencer.mode = .parked ∧ s.envelope.edit ≠ .committing ∨ StopStands s) : Turn s (issueOrder kind s)
  | done (pending : s.sequencer.record.order = .pending) : Turn s (orderDone s)
  | failed (by' : EndedBy) (pending : s.sequencer.record.order = .pending) : Turn s (orderFailed by' s)

/-- Any number of turns, one after another. -/
abbrev Turns : State → State → Prop := Relation.ReflTransGen Turn

theorem Turns.keeps {L : State → Prop} (turn : ∀ s t, L s → Turn s t → L t) {s t : State} (h : L s)
    (turns : Turns s t) : L t := by
  induction turns with
  | refl => exact h
  | tail _ next ih => exact turn _ _ ih next

theorem OnlyReports.turns {s t : State} (only : OnlyReports s t) : Turns s t := .single (.reports only)

theorem mayTake_iff (s : State) :
    mayTake s = true ↔ isSettled s.sequencer.mode = true ∧ s.envelope.edit ≠ .committing := by
  simp [mayTake]

theorem serviceQueue_turns (s : State) : Turns s (serviceQueue s) := by
  refine serviceQueue_keeps (L := Turns s) (fun u e rest t before queue may done => ?_) .refl
  have free := ((mayTake_iff u).1 may).2
  have before := before.tail (.taken queue)
  cases done with
  | stands => exact before
  | moved moves => exact before.tail (.moved moves free)
  | issued kind parked => exact before.tail (.issued kind (.inl ⟨parked, free⟩))
  | refused d => exact before.tail (.reports (refuseSequence_reports d _))

theorem completeStop_turns {s : State} (d : Settled) (stands : StopStands s) : Turns s (completeStop d s) := by
  have refused (d : Settled) (detail : Detail) : Turns s (refuseSequence detail (setMode d.mode s)) :=
    (Relation.ReflTransGen.single (.stopped d stands)).tail (.reports (refuseSequence_reports detail _))
  have issued (kind : Working) : Turns s (issueOrder kind s) := .single (.issued kind (.inr stands))
  unfold completeStop
  split
  · exact .single (.stopped .parked stands)
  · split
    · exact issued .walk
    · exact refused .dig .walk
  · split
    · exact issued .dig
    · exact refused .walk .notAtRest

/-- The motions of a stop that is complete have their brakes SET (R123). -/
theorem stopStands_of_complete {source : Working} {d : Settled} {notices : PerMotion Notice} {s : State}
    (mode : s.sequencer.mode = .stopping source d) (complete : stopComplete source notices s = true) : StopStands s := by
  refine ⟨source, d, mode, fun m inSource => ?_⟩
  have h := (PerMotion.every_iff _).1 complete m
  rw [PerMotion.get_of] at h
  simp only [inSource, Bool.not_true, Bool.false_or, standsStill, Bool.and_eq_true] at h
  exact eq_of_beq h.2

theorem periodEndAtSequencer_turns (notices : PerMotion Notice) (s : State) :
    Turns s (periodEndAtSequencer notices s) :=
  periodEndAtSequencer_keeps (L := Turns s) .refl fun _ d mode complete =>
    (completeStop_turns d (stopStands_of_complete mode complete)).trans (serviceQueue_turns _)

theorem takePark_turns (p : Port) (s : State) : Turns s (takePark p s) := by
  have redirected {mode : Mode} (unsettled : isSettled s.sequencer.mode = false)
      (h : modeAfterTrip s.sequencer.mode = mode) :
      Turns s (s.withSequencer { s.sequencer with queue := [], mode := mode }) := h ▸ .single (.redirected unsettled)
  unfold takePark
  simp only
  split
  · next mode => exact redirected (by rw [mode]; rfl) (by rw [mode]; rfl)
  · next mode => exact redirected (by rw [mode]; rfl) (by rw [mode]; rfl)
  · exact (Relation.ReflTransGen.single (.parkAsked p)).trans (serviceQueue_turns _)

/-- An effect is its base and turns. -/
theorem Effect.turns {s t : State} (h : Effect s t) : ∃ b, Base s b ∧ Turns b t := by
  cases h with
  | stands => exact ⟨_, .stands, .refl⟩
  | edge e forward => exact ⟨_, .edge e forward, .refl⟩
  | scan conversions => exact ⟨_, .scan conversions, (scanAll_reports conversions s).turns⟩
  | period => exact ⟨_, .period, (notifiedPeriod_reports s).1.turns.trans (periodEndAtSequencer_turns _ _)⟩
  | inputEdge m => exact ⟨_, .inputEdge m, .refl⟩
  | feedback m => exact ⟨_, .feedback m, (superviseFeedback_reports m s).turns⟩
  | hold runs => exact ⟨_, .hold runs, (holdExpires_reports runs).turns⟩
  | second => exact ⟨_, .second, .refl⟩
  | written flight => exact ⟨_, .written flight, (applyWrite_reports _ _).turns⟩
  | recordWritten flight => exact ⟨_, .recordWritten flight, .refl⟩
  | committed flight =>
    exact ⟨_, .committed flight, (commitReported_reports _ _).turns.trans (serviceQueue_turns _)⟩
  | commitShown => exact ⟨_, .commitShown, .refl⟩
  | listRead p => exact ⟨_, .listRead p, .refl⟩
  | fresh mark refs => exact ⟨_, .fresh mark refs, (freshFrame_reports _ _ s).turns⟩
  | park p => exact ⟨_, .stands, takePark_turns p s⟩
  | queued p asked room =>
    exact ⟨_, .stands, (Relation.ReflTransGen.single (.appended p asked room)).trans (serviceQueue_turns _)⟩
  | orderDone pending =>
    exact ⟨_, .stands, (Relation.ReflTransGen.single (.done pending)).trans (serviceQueue_turns _)⟩
  | orderFailed e pending => exact ⟨_, .stands, .single (.failed e pending)⟩
  | readiness r => exact ⟨_, .readiness r, (takeReadiness_reports r s).turns⟩
  | stopAll p => exact ⟨_, .stands, (reportMomentary_reports _ _ _ s).turns⟩
  | overrunCleared => exact ⟨_, .stands, (clearOverrun_reports s).turns⟩
  | acknowledged selects => exact ⟨_, .stands, (takeAcknowledgement_reports selects s).turns⟩
  | writeBegun idle range => exact ⟨_, .writeBegun idle range, .refl⟩
  | zeroed e value idle => exact ⟨_, .zeroed e value idle, (zeroChannel_reports e value s).turns⟩
  | marksCleared => exact ⟨_, .marksCleared, .refl⟩
  | editBegun closed => exact ⟨_, .editBegun closed, .refl⟩
  | edited i opened range => exact ⟨_, .edited i opened range, .refl⟩
  | editDiscarded opened => exact ⟨_, .editDiscarded opened, .refl⟩
  | commitBegun opened parked idle => exact ⟨_, .commitBegun opened parked idle, .refl⟩
  | restarted parked idle => exact ⟨_, .restarted parked idle, (restartAll_reports s).turns⟩

/-- A law that the base of an effect establishes and every turn keeps holds after the effect. -/
theorem Effect.establishes {P L : State → Prop} (base : ∀ s b, P s → Base s b → L b)
    (turn : ∀ s t, L s → Turn s t → L t) {s t : State} (h : P s) (effect : Effect s t) : L t := by
  obtain ⟨b, formed, turns⟩ := effect.turns
  exact Turns.keeps turn (base s b h formed) turns

/-! ### Brakes (R100) -/

/-- A brake's counts are within their fields, and no release is remembered outside SETTING. -/
def BrakeRecord.Counted (b : BrakeRecord) : Prop :=
  b.count ≤ 65535 ∧ b.idle ≤ 2400 ∧ (b.remembered = true → b.state = .setting)

theorem dropBrake_counted {b : BrakeRecord} (h : b.Counted) : (dropBrake b).Counted := by
  obtain ⟨count, idle, remembered⟩ := h
  unfold dropBrake
  split
  · exact ⟨count, idle, remembered⟩
  · exact ⟨Nat.zero_le _, idle, fun _ => rfl⟩
  · exact ⟨Nat.zero_le _, idle, fun _ => rfl⟩
  · exact ⟨count, idle, fun h => by cases h⟩

theorem dropped_counted {b b' : BrakeRecord} (h : b.Counted) (drops : dropped b b') : b'.Counted := by
  rcases drops with rfl | rfl
  · exact dropBrake_counted h
  · exact dropBrake_counted (dropBrake_counted h)

theorem Dropped.eq_dropBrake {b b' : BrakeRecord} (h : Dropped b b') : b' = dropBrake b := by
  obtain ⟨state⟩ := b
  cases state with
  | _ => exact h

theorem OnlySequencer.brakeLaw {s t : State} (only : OnlySequencer s t) (h : BrakeLaw s) : BrakeLaw t := by
  intro m
  rcases only.motion m with ⟨-, same⟩ | ⟨-, drops⟩
  · exact same ▸ h m
  · exact dropped_counted (h m) drops

theorem stepCounts_counted (n : Notice) {b : BrakeRecord} (h : b.Counted) : (stepCounts n b).Counted := by
  obtain ⟨count, idle, remembered⟩ := h
  unfold stepCounts
  split
  · exact ⟨Nat.min_le_left _ _, idle, remembered⟩
  · exact ⟨Nat.min_le_left _ _, idle, remembered⟩
  · refine ⟨count, ?_, remembered⟩
    simp only
    split
    · exact Nat.min_le_left _ _
    · exact Nat.zero_le _
  · exact ⟨count, idle, remembered⟩

theorem testBrake_counted (x : BrakeInput) {b : BrakeRecord} (h : b.Counted) : (testBrake x b).brake.Counted := by
  obtain ⟨count, idle, remembered⟩ := h
  have setting {r : Bool} {c : Nat} (hc : c ≤ 65535) {f : Bool} :
      BrakeRecord.Counted { b with state := .setting, count := c, remembered := r, fail := f } :=
    ⟨hc, idle, fun _ => rfl⟩
  unfold testBrake
  split
  · exact ⟨count, idle, remembered⟩
  · next state =>
    unfold testReleasing
    split
    · exact ⟨count, Nat.zero_le _, fun h => by cases state.symm.trans (remembered h)⟩
    · split
      · exact setting (Nat.zero_le _)
      · split
        · exact setting (Nat.zero_le _)
        · exact ⟨count, idle, remembered⟩
  · unfold testReleased
    split
    · exact setting (Nat.zero_le _)
    · exact ⟨count, idle, remembered⟩
  · next state =>
    have asked {r f : Bool} : BrakeRecord.Counted { b with remembered := r, fail := f } := ⟨count, idle, fun _ => state⟩
    unfold testSetting
    simp only
    split
    · split
      · exact ⟨Nat.zero_le _, idle, fun h => by cases h⟩
      · exact ⟨count, idle, fun h => by cases h⟩
    · split
      · exact asked
      · exact asked

theorem actOnRelease_counted (x : BrakeInput) {b : BrakeRecord} (h : b.Counted) : (actOnRelease x b).Counted := by
  unfold actOnRelease
  split
  · split
    · exact ⟨Nat.zero_le _, h.2.1, fun h => by cases h⟩
    · next state => exact ⟨h.1, h.2.1, fun _ => state⟩
    · exact h
  · exact h

theorem notifyBrake_counted (x : BrakeInput) {b : BrakeRecord} (h : b.Counted) : (notifyBrake x b).brake.Counted := by
  have tested := testBrake_counted x (stepCounts_counted x.notice h)
  unfold notifyBrake
  refine actOnRelease_counted x ?_
  split
  · exact tested
  · exact tested

/-- One brake replaced by another that is counted. -/
theorem BrakeLaw.withBrake {s : State} (h : BrakeLaw s) (m : Motion) {b : BrakeRecord} (counted : b.Counted) :
    BrakeLaw (s.withBrake m b) := by
  intro n
  simp only [State.withBrake, State.withGate_gate, PerMotion.get_set]
  split
  · exact counted
  · exact h n

theorem zeroMotions_gate (ms : PerMotion Bool) (s : State) : (zeroMotions ms s).gate = s.gate := by
  unfold zeroMotions
  simp only
  split <;> rfl

theorem feedbackBase_brakeLaw {s : State} (h : BrakeLaw s) (m : Motion) : BrakeLaw (feedbackBase m s) := by
  obtain ⟨count, idle, remembered⟩ := h m
  unfold feedbackBase
  split
  · exact h.withBrake m ⟨count, idle, remembered⟩
  · split
    · unfold BrakeLaw
      rw [zeroMotions_gate]
      exact h.withBrake m ⟨Nat.zero_le _, idle, fun _ => rfl⟩
    · exact h.withBrake m ⟨count, idle, remembered⟩

theorem Base.brakeLaw {s b : State} (base : Base s b) (h : BrakeLaw s) : BrakeLaw b := by
  cases base with
  | period =>
    intro m
    rw [periodBlocks_brake]
    exact notifyBrake_counted _ (h m)
  | inputEdge m => exact BrakeLaw.withBrake (s := { s with feedbackInputs := _ }) h m (h m)
  | feedback m => exact feedbackBase_brakeLaw h m
  | @written w _ =>
    cases w with
    | calEncoder e cal zeroing => cases zeroing <;> exact h
    | _ => exact h
  | listRead p => cases p <;> exact h
  | readiness r =>
    intro m
    have formed := formedReadiness_formed s r
    by_cases lost : LosesService s r m
    · exact (formed.lost m lost).2.eq_dropBrake ▸ dropBrake_counted (h m)
    · exact (formed.kept m lost).2 ▸ h m
  | restarted _ _ =>
    intro m
    simp only [restartBase, noteListChange, State.withPorts_gate, restartGate, PerMotion.get_map]
    exact ⟨Nat.zero_le _, Nat.zero_le _, fun h => by cases h⟩
  | _ => exact h

/-- Brakes at the release are SET with no count (R112). -/
theorem brakeLaw_of_reset {s : State} (h : ∀ m, ∃ level, s.gate.brakes.get m = .reset level) : BrakeLaw s := by
  intro m
  obtain ⟨level, h⟩ := h m
  rw [h]
  exact ⟨Nat.zero_le _, Nat.zero_le _, fun h => by cases h⟩

theorem step_brakeLaw {s t : State} (hstep : step s = .next t) (h : BrakeLaw s) : BrakeLaw t := by
  refine step_establishes (P := BrakeLaw) (fun _ _ h => h) (fun _ h => h) (fun _ _ h => h) (fun _ _ h => h)
    (fun s p _ => ?_) (fun s _ => ?_) (fun s t h effect => ?_) h hstep
  · exact brakeLaw_of_reset fun m => by cases m <;> exact ⟨_, rfl⟩
  · have loaded : BrakeLaw (loadedBlocks s) := brakeLaw_of_reset fun m => ⟨_, PerMotion.get_map _ _ m⟩
    exact (release_reports s).onlySequencer.brakeLaw loaded
  · obtain ⟨b, base, only⟩ := effect.base
    exact only.brakeLaw (base.brakeLaw h)

/-! ### Freshness (R69 to R73) -/

/-- The freshness state, its timer, its mark and its condition, as they agree. -/
structure PortA.Kept (a : PortA) : Prop where
  timer : a.holdTimer = true ↔ a.freshness = .fresh
  mark : a.lastMark.isSome = true ↔ a.freshness ≠ .never
  stale : a.freshness = .stale → a.staleCondition = true
  never : a.freshness = .never → a.staleCondition = false

theorem freshnessLaw_iff (s : State) : FreshnessLaw s ↔
    s.ports.a.Kept ∧ (s.ports.a.freshness ≠ .fresh → ∀ m, (s.shaper.motions.get m).request = 0) ∧
    ∀ m, Between (-1000) 1000 (s.shaper.motions.get m).request := by
  constructor
  · rintro ⟨timer, mark, requests, stale, never, range⟩
    exact ⟨⟨timer, mark, stale, never⟩, requests, range⟩
  · rintro ⟨⟨timer, mark, stale, never⟩, requests, range⟩
    exact ⟨timer, mark, requests, stale, never, range⟩

/-- The law speaks of Port A's record, but for its list-changed mark, and of the requests. -/
theorem FreshnessLaw.congr {s t : State} (h : FreshnessLaw s)
    (a : t.ports.a = { s.ports.a with listChanged := t.ports.a.listChanged })
    (requests : ∀ m, (t.shaper.motions.get m).request = (s.shaper.motions.get m).request) : FreshnessLaw t := by
  rw [freshnessLaw_iff, a]
  simp only [requests]
  obtain ⟨kept, requests, range⟩ := (freshnessLaw_iff s).1 h
  exact ⟨⟨kept.timer, kept.mark, kept.stale, kept.never⟩, requests, range⟩

theorem OnlySequencer.freshnessLaw {s t : State} (only : OnlySequencer s t) (h : FreshnessLaw s) : FreshnessLaw t :=
  h.congr only.portA fun m => (only.request m).1

/-- Where every request is 0, the law is that of Port A's record. -/
theorem freshnessLaw_of_zero {s : State} (kept : s.ports.a.Kept) (zero : ∀ m, (s.shaper.motions.get m).request = 0) :
    FreshnessLaw s :=
  (freshnessLaw_iff s).2 ⟨kept, fun _ => zero, fun m => zero m ▸ between_zero (by decide) (by decide)⟩

theorem zeroMotions_motion (ms : PerMotion Bool) (s : State) (m : Motion) :
    (zeroMotions ms s).shaper.motions.get m =
      if ms.get m then (s.shaper.motions.get m).zeroed else s.shaper.motions.get m := by
  have motions : (zeroMotions ms s).shaper.motions =
      s.shaper.motions.map fun m r => if ms.get m then r.zeroed else r := by
    unfold zeroMotions
    simp only
    split <;> rfl
  rw [motions, PerMotion.get_map]

theorem feedbackBase_request (m n : Motion) (s : State) :
    ((feedbackBase m s).shaper.motions.get n).request = (s.shaper.motions.get n).request := by
  unfold feedbackBase
  split
  · rfl
  · split
    · rw [zeroMotions_motion]
      split <;> rfl
    · rfl

theorem associate_request (n : ProfileName) (r : MotionRecord) : (associate n r).request = r.request := by
  unfold associate
  split
  · rfl
  · split <;> rfl

theorem checkAssociation_request (r : MotionRecord) : (checkAssociation r).request = r.request := by
  unfold checkAssociation
  split
  · split <;> rfl
  · rfl

theorem Base.freshnessLaw {s b : State} (base : Base s b) (h : FreshnessLaw s) : FreshnessLaw b := by
  cases base with
  | period =>
    refine h.congr rfl fun m => ?_
    simp only [periodBlocks, shapedPeriod, PerMotion.get_map, checkAssociation_request]
    rfl
  | feedback m =>
    refine h.congr ?_ fun n => feedbackBase_request m n s
    rw [feedbackBase_keeps]
    rfl
  | hold runs =>
    obtain ⟨kept, -, -⟩ := (freshnessLaw_iff s).1 h
    have fresh := kept.timer.1 runs
    refine freshnessLaw_of_zero ⟨by simp [staleBase], ?_, fun _ => rfl, by simp [staleBase]⟩ fun m => ?_
    · simpa [staleBase] using kept.mark.2 (by simp [fresh])
    · simp [staleBase]
  | @written w _ =>
    cases w with
    | calEncoder e cal zeroing => cases zeroing <;> exact h
    | association names =>
      refine h.congr rfl fun m => ?_
      simp [appliedBase, applyWrite, applyAssociation, associate_request]
    | _ => exact h
  | listRead p =>
    cases p with
    | a => exact h.congr rfl fun _ => rfl
    | _ => exact h
  | fresh mark refs =>
    refine (freshnessLaw_iff _).2 ⟨⟨by simp [freshStored, freshBase], by simp [freshStored, freshBase],
      by simp [freshStored, freshBase], by simp [freshStored, freshBase]⟩, by simp [freshStored, freshBase],
      fun m => ?_⟩
    simp only [freshStored, State.withShaper_shaper, PerMotion.get_map, storeRequest]
    exact clampInt_between (by decide) _
  | readiness r =>
    refine h.congr ?_ fun m => ?_
    · rw [formedReadiness_keeps]
      rfl
    · have formed := formedReadiness_formed s r
      by_cases lost : LosesService s r m
      · rw [(formed.lost m lost).1]
      · rw [(formed.kept m lost).1]
  | restarted _ _ =>
    refine freshnessLaw_of_zero ⟨by simp [restartBase, noteListChange, restartPortA],
      by simp [restartBase, noteListChange, restartPortA], by simp [restartBase, noteListChange, restartPortA],
      by simp [restartBase, noteListChange, restartPortA]⟩ fun m => ?_
    simp [restartBase, noteListChange, restartShaper, restartMotion]
  | _ => exact h.congr rfl fun _ => rfl

/-- At the release no request has been taken (R76). -/
theorem freshnessLaw_of_reset {s : State} (a : s.ports.a = State.reset.ports.a)
    (motions : ∀ m, ∃ n, s.shaper.motions.get m = .reset n) : FreshnessLaw s := by
  refine freshnessLaw_of_zero ?_ fun m => ?_
  · rw [a]
    exact ⟨by decide, by decide, by decide, by decide⟩
  · obtain ⟨n, h⟩ := motions m
    rw [h]
    rfl

theorem step_freshnessLaw {s t : State} (hstep : step s = .next t) (h : FreshnessLaw s) : FreshnessLaw t := by
  have settled (s : State) (l : PerPort PortLink) (h : FreshnessLaw s) : FreshnessLaw (settle (s.withLinks l)) :=
    h.congr rfl fun m => by rw [settle_motion]; rfl
  refine step_establishes (P := FreshnessLaw) (fun _ _ h => h) (fun _ h => h) settled (fun _ _ h => h)
    (fun s p _ => ?_) (fun s _ => ?_) (fun s t h effect => ?_) h hstep
  · refine settled { State.reset with power := p, memory := _, feedbackInputs := _, pending := _ } State.reset.ports.links ?_
    exact freshnessLaw_of_reset rfl fun m => by cases m <;> exact ⟨_, rfl⟩
  · have loaded : FreshnessLaw (loadedBlocks s) := freshnessLaw_of_reset rfl fun m => ⟨_, PerMotion.get_map _ _ m⟩
    exact settled _ (release s).ports.links ((release_reports s).onlySequencer.freshnessLaw loaded)
  · obtain ⟨b, base, only⟩ := effect.base
    exact only.freshnessLaw (base.freshnessLaw h)

/-! ### Drive reports (R159, R160) -/

/-- The two blocks hold the same report, and DRIVE-FAULT is as R159 forms it. -/
theorem driveLaw_iff (s : State) : DriveLaw s ↔ s.shaper.readiness = s.alarms.driveReport ∧
    ∀ g, s.alarms.driveFault.get g = driveFaultPresent (orderPending s.sequencer) s.alarms.driveReport g := by
  have present (g : Group) : driveFaultPresent (orderPending s.sequencer) s.alarms.driveReport g = true ↔
      s.alarms.driveReport.get g = .fault ∧ (g = .sg ∨ s.sequencer.record.order ≠ .pending) := by
    simp [driveFaultPresent, ← orderPending_iff]
  refine and_congr_right fun _ => forall_congr' fun g => ?_
  rw [Bool.eq_iff_iff (b := driveFaultPresent _ _ g), present]

/-- The law speaks of the reports, the conditions and the order. -/
theorem DriveLaw.congr {s t : State} (h : DriveLaw s) (readiness : t.shaper.readiness = s.shaper.readiness)
    (report : t.alarms.driveReport = s.alarms.driveReport) (fault : t.alarms.driveFault = s.alarms.driveFault)
    (order : t.sequencer.record.order = s.sequencer.record.order) : DriveLaw t := by
  unfold DriveLaw
  rw [readiness, report, fault, order]
  exact h

/-- Formed again, the conditions are as R159 has them; nothing else is asked of the state but that the report stands. -/
theorem formDriveFaults_driveLaw {s b : State} (h : b.shaper.readiness = b.alarms.driveReport)
    (only : OnlySequencer b (formDriveFaults s)) : DriveLaw (formDriveFaults s) := by
  have readiness : (formDriveFaults s).shaper.readiness = b.shaper.readiness := only.readiness
  have report : (formDriveFaults s).alarms.driveReport = b.alarms.driveReport := only.driveReport
  have before : (formDriveFaults s).alarms.driveReport = s.alarms.driveReport :=
    (formDriveFaults_onlySequencer s).driveReport
  refine (driveLaw_iff _).2 ⟨readiness.trans (h.trans report.symm), fun g => ?_⟩
  rw [formDriveFaults_driveFault, formDriveFaults_sequencer, before]

theorem Turn.driveLaw (s t : State) (h : DriveLaw s) (turn : Turn s t) : DriveLaw t := by
  cases turn with
  | reports only => exact h.congr only.readiness only.driveReport only.driveFault (by rw [only.record])
  | issued kind _ => exact formDriveFaults_driveLaw h.1 (issueOrder_onlySequencer kind s)
  | done _ => exact formDriveFaults_driveLaw h.1 (orderDone_onlySequencer s)
  | failed e _ => exact formDriveFaults_driveLaw h.1 (orderFailed_onlySequencer e s)
  | _ => exact h

theorem Base.driveLaw (s b : State) (h : DriveLaw s) (base : Base s b) : DriveLaw b := by
  cases base with
  | feedback m =>
    rw [feedbackBase_keeps]
    exact h
  | @written w _ =>
    cases w with
    | calEncoder e cal zeroing => cases zeroing <;> exact h
    | _ => exact h
  | listRead p => cases p <;> exact h
  | readiness r =>
    have formed := formedReadiness_formed s r
    have kept := formedReadiness_keeps r s
    have report : (formedReadiness r s).alarms.driveReport = r := by rw [kept]; rfl
    have order : (formedReadiness r s).sequencer = s.sequencer := by rw [kept]; rfl
    refine ⟨by rw [kept]; rfl, fun g => ?_⟩
    rw [report, order]
    exact formed.fault g
  | restarted _ _ => exact ⟨rfl, fun g => by cases g <;> simp [restartBase, noteListChange, restartAlarms, PerGroup.get]⟩
  | _ => exact h

/-- At the release every group is NOT-READY and no DRIVE-FAULT is present (R76, R164). -/
theorem driveLaw_of_reset {s : State} (readiness : s.shaper.readiness = State.reset.shaper.readiness)
    (alarms : s.alarms = State.reset.alarms) : DriveLaw s := by
  unfold DriveLaw
  rw [readiness, alarms]
  exact ⟨rfl, fun g => by cases g <;> simp [State.reset, PerGroup.get]⟩

theorem step_driveLaw {s t : State} (hstep : step s = .next t) (h : DriveLaw s) : DriveLaw t := by
  have settled (s : State) (l : PerPort PortLink) (h : DriveLaw s) : DriveLaw (settle (s.withLinks l)) :=
    h.congr rfl rfl rfl rfl
  refine step_establishes (P := DriveLaw) (fun _ _ h => h) (fun _ h => h) settled (fun _ _ h => h)
    (fun s p _ => driveLaw_of_reset rfl rfl) (fun s _ => ?_)
    (fun s t h effect => effect.establishes Base.driveLaw Turn.driveLaw h) h hstep
  have loaded : DriveLaw (loadedBlocks s) := driveLaw_of_reset rfl rfl
  exact settled _ (release s).ports.links (Turn.driveLaw _ _ loaded (.reports (release_reports s)))

/-- Settles O60: the three laws, each kept by every step from a state that meets it. -/
theorem brakeFreshnessAndDriveLawsAreKept : Obligations.BrakeFreshnessAndDriveLawsAreKept := by
  unfold Obligations.BrakeFreshnessAndDriveLawsAreKept
  exact fun s t hstep => ⟨step_brakeLaw hstep, step_freshnessLaw hstep, step_driveLaw hstep⟩

end Sys2Proof.Machine
end

section
/-! The laws of the queue, of the order and of the commit, which every step keeps (R31, R53, R59, R114 to R117, R125). -/

namespace Sys2Proof.Machine

/-! ### The queue (R117) -/

theorem queueLaw_of_empty {s : State} (h : s.sequencer.queue = []) : QueueLaw s := by
  unfold QueueLaw
  rw [h]
  exact ⟨Nat.zero_le _, fun e he => nomatch he⟩

theorem QueueLaw.congr {s t : State} (h : QueueLaw s) (queue : t.sequencer.queue = s.sequencer.queue) : QueueLaw t := by
  unfold QueueLaw
  rw [queue]
  exact h

theorem Turn.queueLaw (s t : State) (h : QueueLaw s) (turn : Turn s t) : QueueLaw t := by
  cases turn with
  | reports only =>
    rcases only.sequencer with same | ⟨tripped, -⟩
    · exact h.congr (by rw [same])
    · exact queueLaw_of_empty (by rw [tripped])
  | @appended request p asked room =>
    refine ⟨?_, fun e he => ?_⟩
    · simpa using room
    · cases queue : s.sequencer.queue with
      | nil => simp [queue] at he
      | cons first rest =>
        simp only [State.withSequencer_sequencer, queue, List.cons_append, List.tail_cons, List.mem_append,
          List.mem_singleton] at he
        rcases he with he | rfl
        · exact h.2 e (by rw [queue]; exact he)
        · exact asked
  | parkAsked p => exact ⟨by simp, fun e he => nomatch he⟩
  | redirected _ => exact queueLaw_of_empty rfl
  | @taken e rest queue =>
    obtain ⟨room, behind⟩ := h
    rw [queue] at room behind
    exact ⟨Nat.le_of_succ_le room, fun x hx => behind x (List.mem_of_mem_tail hx)⟩
  | issued kind _ => exact h.congr (by rw [issueOrder_sequencer])
  | done _ => exact h.congr (by rw [orderDone_sequencer])
  | failed e _ => exact queueLaw_of_empty (by rw [orderFailed_sequencer])
  | _ => exact h

/-- What an effect forms leaves the sequencer's record but for a completed SEQUENCER write and a RESTART. -/
theorem Base.sequencer {s b : State} (base : Base s b) :
    (b.sequencer = { s.sequencer with timeout := b.sequencer.timeout }) ∨
    (s.sequencer.mode = .parked ∧ b.sequencer = restartSequencer s.sequencer) := by
  cases base with
  | restarted parked _ => exact .inr ⟨parked, rfl⟩
  | feedback m =>
    rw [feedbackBase_keeps]
    exact .inl rfl
  | @written w _ =>
    cases w with
    | calEncoder e cal zeroing => cases zeroing <;> exact .inl rfl
    | _ => exact .inl rfl
  | listRead p => cases p <;> exact .inl rfl
  | readiness r =>
    rw [formedReadiness_keeps]
    exact .inl rfl
  | _ => exact .inl rfl

theorem Base.queueLaw (s b : State) (h : QueueLaw s) (base : Base s b) : QueueLaw b := by
  rcases base.sequencer with same | ⟨-, restarted⟩
  · exact h.congr (by rw [same])
  · exact queueLaw_of_empty (by rw [restarted]; rfl)

/-! ### The order (R31, R115, R125) -/

/-- An order is PENDING exactly in TRANSFERRING and then its timer runs; ended-by tells of an ended order (R115). -/
structure Sequencer.Ordered (q : Sequencer) : Prop where
  transferring : q.record.order = .pending ↔ ∃ d, q.mode = .transferring d
  timer : q.record.timer.isSome = true ↔ q.record.order = .pending
  ended : q.record.endedBy.isSome = true ↔ q.record.order = .done ∨ q.record.order = .failed

/-- The order's part of the law: the record and the mode agree, and a PENDING order blanks the integrators. -/
def OrderKept (s : State) : Prop :=
  s.sequencer.Ordered ∧ (s.sequencer.record.order = .pending → IntegratorsBlanked s)

/-- The commit's part of the law: COMMITTING exactly while the store is, and only in PARKED. -/
def CommitKept (s : State) : Prop :=
  (s.envelope.edit = .committing ↔ ∃ w rest, s.store = .committing w rest) ∧
  (s.envelope.edit = .committing → s.sequencer.mode = .parked)

theorem orderLaw_iff (s : State) : OrderLaw s ↔ OrderKept s ∧ CommitKept s := by
  constructor
  · rintro ⟨transferring, timer, ended, blanked, committing, parked⟩
    exact ⟨⟨⟨transferring, timer, ended⟩, blanked⟩, committing, parked⟩
  · rintro ⟨⟨⟨transferring, timer, ended⟩, blanked⟩, committing, parked⟩
    exact ⟨transferring, timer, ended, blanked, committing, parked⟩

/-- A mode that TRANSFERRING is left for, with the same record, keeps the record in agreement. -/
theorem Sequencer.Ordered.withMode {q : Sequencer} (h : q.Ordered) {mode : Mode}
    (both : (∃ d, mode = .transferring d) ↔ ∃ d, q.mode = .transferring d) (queue : List QueueEntry) :
    Sequencer.Ordered { q with mode := mode, queue := queue } :=
  ⟨h.transferring.trans both.symm, h.timer, h.ended⟩

theorem modeAfterTrip_transferring (m : Mode) :
    (∃ d, modeAfterTrip m = .transferring d) ↔ ∃ d, m = .transferring d := by
  cases m <;> simp [modeAfterTrip]

theorem settled_not_transferring (d : Settled) : ¬∃ d', d.mode = .transferring d' := by
  cases d <;> simp [Settled.mode]

theorem EntryMoves.not_transferring {a b : Mode} (h : EntryMoves a b) :
    (∃ d, b = .transferring d) ↔ ∃ d, a = .transferring d := by
  cases h <;> simp

theorem OnlyReports.ordered {s t : State} (only : OnlyReports s t) (h : s.sequencer.Ordered) : t.sequencer.Ordered := by
  rcases only.sequencer with same | ⟨tripped, -⟩
  · exact same ▸ h
  · exact tripped ▸ h.withMode (modeAfterTrip_transferring _) []

/-- A state without a PENDING order has nothing to blank. -/
theorem orderKept_of_not_pending {s : State} (h : s.sequencer.Ordered) (none : s.sequencer.record.order ≠ .pending) :
    OrderKept s := ⟨h, fun pending => absurd pending none⟩

theorem Turn.orderKept (s t : State) (h : OrderKept s) (turn : Turn s t) : OrderKept t := by
  obtain ⟨ordered, blanked⟩ := h
  cases turn with
  | reports only =>
    refine ⟨only.ordered ordered, fun pending => ?_⟩
    rw [only.record] at pending
    unfold IntegratorsBlanked
    rw [only.bands]
    exact blanked pending
  | appended _ _ _ => exact ⟨ordered.withMode Iff.rfl _, blanked⟩
  | parkAsked _ => exact ⟨ordered.withMode Iff.rfl _, blanked⟩
  | taken _ => exact ⟨ordered.withMode Iff.rfl _, blanked⟩
  | redirected _ => exact ⟨ordered.withMode (modeAfterTrip_transferring _) _, blanked⟩
  | moved moves _ => exact ⟨ordered.withMode moves.not_transferring _, blanked⟩
  | stopped d stands =>
    obtain ⟨source, d', mode, -⟩ := stands
    refine ⟨ordered.withMode ?_ _, blanked⟩
    simp [settled_not_transferring, mode]
  | issued kind _ =>
    refine ⟨?_, fun _ => ?_⟩
    · rw [issueOrder_sequencer]
      exact ⟨by simp [issuedRecord], by simp [issuedRecord], by simp [issuedRecord]⟩
    · have bands : (issueOrder kind s).bands = blankIntegrators s.bands := formDriveFaults_bands _
      unfold IntegratorsBlanked
      rw [bands]
      exact ⟨rfl, rfl⟩
  | done _ =>
    refine orderKept_of_not_pending ?_ ?_ <;> rw [orderDone_sequencer]
    · exact ⟨by simp [settled_not_transferring], by simp, by simp⟩
    · simp
  | failed e _ =>
    refine orderKept_of_not_pending ?_ ?_ <;> rw [orderFailed_sequencer]
    · exact ⟨by simp, by simp, by simp⟩
    · simp

/-- A scan while an order is PENDING holds both integrators at 0 (R31). -/
theorem scannedBands_blanked (b : Bands) (snap : Snapshot) :
    (scannedBands true snap b).integrators.hg = 0 ∧ (scannedBands true snap b).integrators.dg = 0 := ⟨rfl, rfl⟩

theorem Base.orderKept (s b : State) (h : OrderKept s) (base : Base s b) : OrderKept b := by
  obtain ⟨ordered, blanked⟩ := h
  have kept : b.sequencer.Ordered := by
    rcases base.sequencer with same | ⟨parked, restarted⟩
    · rw [same]
      exact ⟨ordered.transferring, ordered.timer, ordered.ended⟩
    · have none : s.sequencer.record.order ≠ .pending := by
        rw [Ne, ordered.transferring, parked]
        simp
      rw [restarted]
      have timer : ¬s.sequencer.record.timer.isSome = true := fun h => none (ordered.timer.1 h)
      exact ⟨by simp [restartSequencer, parked], by simpa [restartSequencer] using timer, by simp [restartSequencer]⟩
  refine ⟨kept, fun pending => ?_⟩
  cases base with
  | scan conversions =>
    have pending : s.sequencer.record.order = .pending := pending
    simp only [IntegratorsBlanked, scannedBlocks, (orderPending_iff _).2 pending]
    exact scannedBands_blanked s.bands _
  | restarted _ _ => exact ⟨rfl, rfl⟩
  | feedback m =>
    rw [feedbackBase_keeps] at pending ⊢
    exact blanked pending
  | @written w _ =>
    cases w with
    | calEncoder e cal zeroing => cases zeroing <;> exact blanked pending
    | _ => exact blanked pending
  | listRead p => cases p <;> exact blanked pending
  | readiness r =>
    rw [formedReadiness_keeps] at pending ⊢
    exact blanked pending
  | _ => exact blanked pending

/-! ### The commit (R53, R59) -/

/-- In PARKED a commit may run; in another mode no commit runs that a mode move could leave behind. -/
theorem CommitKept.withMode {s : State} (h : CommitKept s) {t : State} (edit : t.envelope.edit = s.envelope.edit)
    (store : t.store = s.store)
    (parked : s.envelope.edit = .committing → t.sequencer.mode = .parked) : CommitKept t := by
  unfold CommitKept
  rw [edit, store]
  exact ⟨h.1, parked⟩

/-- Where no commit runs, none runs after what leaves the edit and the store. -/
theorem CommitKept.notCommitting {s t : State} (h : CommitKept s) (edit : t.envelope.edit = s.envelope.edit)
    (store : t.store = s.store) (free : s.envelope.edit ≠ .committing) : CommitKept t :=
  h.withMode edit store fun committing => absurd committing free

theorem CommitKept.free_of_mode {s : State} (h : CommitKept s) (mode : s.sequencer.mode ≠ .parked) :
    s.envelope.edit ≠ .committing := fun committing => mode (h.2 committing)

/-- The sequencer's operations leave the edit and the store. -/
theorem CommitKept.onlySequencer {s t : State} (h : CommitKept s) (only : OnlySequencer s t)
    (free : s.envelope.edit ≠ .committing) : CommitKept t :=
  h.notCommitting (congrArg Envelope.edit only.envelope) only.store free

theorem Turn.commitKept (s t : State) (order : OrderKept s) (h : CommitKept s) (turn : Turn s t) : CommitKept t := by
  have pendingFree (pending : s.sequencer.record.order = .pending) : s.envelope.edit ≠ .committing := by
    obtain ⟨d, mode⟩ := order.1.transferring.1 pending
    exact h.free_of_mode (by simp [mode])
  have standsFree (stands : StopStands s) : s.envelope.edit ≠ .committing := by
    obtain ⟨source, d, mode, -⟩ := stands
    exact h.free_of_mode (by simp [mode])
  cases turn with
  | reports only =>
    refine h.withMode (congrArg Envelope.edit only.envelope) only.store fun committing => ?_
    rcases only.mode with mode | mode <;> rw [mode, h.2 committing]
    rfl
  | redirected unsettled =>
    refine h.notCommitting rfl rfl (h.free_of_mode fun parked => ?_)
    rw [parked] at unsettled
    cases unsettled
  | moved _ free => exact h.notCommitting rfl rfl free
  | stopped _ stands => exact h.notCommitting rfl rfl (standsFree stands)
  | issued kind ready =>
    refine h.onlySequencer (issueOrder_onlySequencer kind s) ?_
    rcases ready with ⟨-, free⟩ | stands
    · exact free
    · exact standsFree stands
  | done pending => exact h.onlySequencer (orderDone_onlySequencer s) (pendingFree pending)
  | failed e pending => exact h.onlySequencer (orderFailed_onlySequencer e s) (pendingFree pending)
  | _ => exact h

/-- No owner of a written record touches the store or the envelope. -/
theorem appliedBase_store (w : RecordWrite) (s : State) :
    (appliedBase w s).store = s.store ∧ (appliedBase w s).envelope = s.envelope := by
  cases w with
  | calEncoder e cal zeroing => cases zeroing <;> exact ⟨rfl, rfl⟩
  | _ => exact ⟨rfl, rfl⟩

theorem Base.commitKept (s b : State) (h : CommitKept s) (base : Base s b) : CommitKept b := by
  have free (noCommit : ∀ w rest, s.store ≠ .committing w rest) : s.envelope.edit ≠ .committing :=
    fun committing => by
      obtain ⟨w, rest, store⟩ := h.1.1 committing
      exact noCommit w rest store
  have quiet {t : State} (edit : t.envelope.edit ≠ .committing) (store : ∀ w rest, t.store ≠ .committing w rest) :
      CommitKept t :=
    ⟨iff_of_false edit fun ⟨w, rest, committing⟩ => store w rest committing, fun committing => absurd committing edit⟩
  have notOpen {x : EditState} (edit : s.envelope.edit = x) (free : x ≠ .committing) (w : RecordWrite)
      (rest : List RecordWrite) : s.store ≠ .committing w rest := fun store =>
    free (edit ▸ h.1.2 ⟨w, rest, store⟩)
  cases base with
  | @written w flight =>
    obtain ⟨store, envelope⟩ := appliedBase_store w ((s.withMemory (s.memory.write w)).withStore .idle)
    exact quiet (envelope ▸ free (by simp [flight])) (by simp [store])
  | recordWritten flight => exact ⟨iff_of_true (h.1.2 ⟨_, _, flight⟩) ⟨_, _, rfl⟩, h.2⟩
  | committed flight => exact quiet (fun closed => nomatch closed) (by simp [committedBase])
  | writeBegun idle _ => exact quiet (free (by simp [idle])) (by simp [startWrite])
  | zeroed e value idle => exact quiet (free (by simp [idle])) (by simp)
  | editBegun closed => exact quiet (by simp [beginEdit]) (notOpen closed (by decide))
  | edited i opened _ => exact quiet (by simp [editPosition, opened]) (notOpen opened (by decide))
  | editDiscarded opened => exact quiet (by simp [discardEdit]) (notOpen opened (by decide))
  | commitBegun opened parked idle => exact ⟨iff_of_true rfl ⟨_, _, rfl⟩, fun _ => parked⟩
  | restarted parked idle =>
    exact quiet (by simp [restartBase, noteListChange, restartEnvelope]) (by simp [restartBase, noteListChange, idle])
  | feedback m =>
    rw [feedbackBase_keeps]
    exact h
  | listRead p => cases p <;> exact h
  | readiness r =>
    rw [formedReadiness_keeps]
    exact h
  | _ => exact h

/-! ### Every step -/

/-- At reset there is no order and no commit. -/
theorem orderLaw_of_reset {s : State} (record : s.sequencer.record = State.reset.sequencer.record)
    (mode : s.sequencer.mode = .parked) (edit : s.envelope.edit = .closed) (store : s.store = .idle) : OrderLaw s := by
  unfold OrderLaw
  rw [record, mode, edit, store]
  simp [State.reset]

theorem Base.orderLaw (s b : State) (h : OrderLaw s) (base : Base s b) : OrderLaw b := by
  obtain ⟨order, commit⟩ := (orderLaw_iff s).1 h
  exact (orderLaw_iff b).2 ⟨Base.orderKept s b order base, Base.commitKept s b commit base⟩

theorem Turn.orderLaw (s t : State) (h : OrderLaw s) (turn : Turn s t) : OrderLaw t := by
  obtain ⟨order, commit⟩ := (orderLaw_iff s).1 h
  exact (orderLaw_iff t).2 ⟨Turn.orderKept s t order turn, Turn.commitKept s t order commit turn⟩

theorem step_orderLaw {s t : State} (hstep : step s = .next t) (h : OrderLaw s) : OrderLaw t := by
  refine step_establishes (P := OrderLaw) (fun _ _ h => h) (fun _ h => h) (fun _ _ h => h) (fun _ _ h => h)
    (fun s p _ => orderLaw_of_reset rfl rfl rfl rfl) (fun s _ => ?_)
    (fun s t h effect => effect.establishes Base.orderLaw Turn.orderLaw h) h hstep
  have loaded : OrderLaw (loadedBlocks s) := orderLaw_of_reset rfl rfl rfl rfl
  exact (show OrderLaw (release s) from Turn.orderLaw _ _ loaded (.reports (release_reports s)))

theorem step_queueLaw {s t : State} (hstep : step s = .next t) (h : QueueLaw s) : QueueLaw t := by
  refine step_establishes (P := QueueLaw) (fun _ _ h => h) (fun _ h => h) (fun _ _ h => h) (fun _ _ h => h)
    (fun s p _ => queueLaw_of_empty rfl) (fun s _ => ?_)
    (fun s t h effect => effect.establishes Base.queueLaw Turn.queueLaw h) h hstep
  have loaded : QueueLaw (loadedBlocks s) := queueLaw_of_empty rfl
  exact (show QueueLaw (release s) from Turn.queueLaw _ _ loaded (.reports (release_reports s)))

/-- Settles O59: the queue's law and the order's, each kept by every step from a state that meets it. -/
theorem queueAndOrderLawsAreKept : Obligations.QueueAndOrderLawsAreKept := by
  unfold Obligations.QueueAndOrderLawsAreKept
  exact fun s t queue order hstep => ⟨step_queueLaw hstep queue, step_orderLaw hstep order⟩

end Sys2Proof.Machine
end

section
/-! Reference shaping and supply sharing (05): what the ramp, the reversal stage and the sharing of one period can make
of an output, each said once, and the four statements about the stages (R82 to R92). -/

namespace Sys2Proof.Machine

/-! ### Signed values -/

theorem natAbs_sign_mul {x : Int} (h : x ≠ 0) (k : Nat) : (x.sign * k).natAbs = k := by
  rw [Int.natAbs_mul, Int.natAbs_sign_of_ne_zero h, Nat.one_mul, Int.natAbs_natCast]

theorem natAbs_sign_mul_le (x : Int) (k : Nat) : (x.sign * k).natAbs ≤ k := by
  by_cases h : x = 0
  · simp [h]
  · exact (natAbs_sign_mul h k).le

/-- A sign times a magnitude is 0 or of that sign. -/
theorem sign_sign_mul (x : Int) (k : Nat) : x.sign * k = 0 ∨ (x.sign * k).sign = x.sign := by
  by_cases h : k = 0
  · exact .inl (by simp [h])
  · refine .inr ?_
    rw [Int.sign_mul, Int.sign_sign, Int.sign_natCast_of_ne_zero h, Int.mul_one]

theorem sign_mul_zero (k : Nat) : (0 : Int).sign * k = 0 := by simp

/-! ### Sharing (R90 to R92) -/

/-- The ceiling of a quotient is the least count of the divisor that reaches the dividend. -/
theorem ceilDiv_bounds (x : Nat) {w : Nat} (h : 0 < w) :
    x ≤ w * (ceilDiv x w).toNat ∧ w * (ceilDiv x w).toNat < x + w := by
  have positive : (0 : Int) < w := by exact_mod_cast h
  have division := Int.mul_ediv_add_emod (-x) w
  have lower := Int.emod_nonneg (-x : Int) positive.ne'
  have upper := Int.emod_lt_of_pos (-x : Int) positive
  have value : ceilDiv (x : Int) w = -((-x : Int) / w) := by
    rw [ceilDiv, Int.fdiv_eq_ediv_of_nonneg _ positive.le]
  have nonneg : 0 ≤ ceilDiv (x : Int) w := by
    rw [value]
    exact Int.neg_nonneg_of_nonpos (Int.ediv_nonpos_of_nonpos_of_neg (by omega) positive)
  have count : ((w * (ceilDiv (x : Int) w).toNat : Nat) : Int) = -(w * ((-x : Int) / w)) := by
    rw [Nat.cast_mul, Int.toNat_of_nonneg nonneg, value, Int.mul_neg]
  constructor <;> zify <;> push_cast at count <;> omega

/-- A motion taken is cut toward its floor and never past it (R92). -/
theorem shedCut_bounds (w excess decel : Nat) (prev o : Int) :
    (shedCut w excess decel prev o).natAbs ≤ o.natAbs ∧
    (shedCut w excess decel prev o = 0 ∨ (shedCut w excess decel prev o).sign = o.sign) ∧
    min o.natAbs (prev.natAbs - decel) ≤ (shedCut w excess decel prev o).natAbs := by
  refine ⟨(natAbs_sign_mul_le _ _).trans (by omega), sign_sign_mul _ _, ?_⟩
  by_cases h : o = 0
  · simp [h]
  · exact (Nat.le_max_left _ _).trans (natAbs_sign_mul h _).ge

theorem shedOne_taken {w : PerMotion Nat} {b : Nat} {decel : PerMotion Nat} {prev : PerMotion Int} {x : Shared}
    {m : Motion} (h : 0 < w.get m ∧ b < demand w x.outputs) :
    shedOne w b decel prev x m =
      ⟨x.outputs.set m (shedCut (w.get m) (demand w x.outputs - b) (decel.get m) (prev.get m) (x.outputs.get m)),
        x.marks.set m true⟩ := if_pos h

theorem shedOne_spared {w : PerMotion Nat} {b : Nat} {decel : PerMotion Nat} {prev : PerMotion Int} {x : Shared}
    {m : Motion} (h : ¬(0 < w.get m ∧ b < demand w x.outputs)) : shedOne w b decel prev x m = x := if_neg h

/-- The shedding of the model is that of R92. -/
theorem foldl_shedOne_sheds (w : PerMotion Nat) (b : Nat) (decel : PerMotion Nat) (prev : PerMotion Int)
    (order : List Motion) (x : Shared) :
    Sheds w b decel prev order x.outputs x.marks (order.foldl (shedOne w b decel prev) x) := by
  induction order generalizing x with
  | nil => rfl
  | cons m rest ih =>
    unfold Sheds
    rw [demandOf_eq_demand, List.foldl_cons]
    split
    · next taken =>
      obtain ⟨reach, least⟩ := ceilDiv_bounds ((demand w x.outputs - b) * 1000) taken.1
      refine ⟨_, reach, least, ?_⟩
      rw [shedOne_taken taken]
      exact ih ⟨_, _⟩
    · next spared =>
      rw [shedOne_spared spared]
      exact ih x

/-- Within the budget nothing more is taken. -/
theorem foldl_shedOne_within {w : PerMotion Nat} {b : Nat} {decel : PerMotion Nat} {prev : PerMotion Int} {x : Shared}
    (within : demand w x.outputs ≤ b) (order : List Motion) : order.foldl (shedOne w b decel prev) x = x := by
  induction order with
  | nil => rfl
  | cons m rest ih =>
    rw [List.foldl_cons, shedOne_spared fun h => absurd h.2 (Nat.not_lt.2 within)]
    exact ih

/-- What shedding along an order makes of one motion: no larger, of its sign, not below its floor; marked exactly where
it is cut, and then named by the order with a weight (R92). -/
structure ShedAt (w : PerMotion Nat) (decel : PerMotion Nat) (prev : PerMotion Int) (order : List Motion) (x r : Shared)
    (m : Motion) : Prop where
  smaller : (r.outputs.get m).natAbs ≤ (x.outputs.get m).natAbs
  sign : r.outputs.get m = 0 ∨ (r.outputs.get m).sign = (x.outputs.get m).sign
  above : min (x.outputs.get m).natAbs ((prev.get m).natAbs - decel.get m) ≤ (r.outputs.get m).natAbs
  unmarked : r.marks.get m = false → x.marks.get m = false ∧ r.outputs.get m = x.outputs.get m
  marked : r.marks.get m = true → x.marks.get m = true ∨ m ∈ order ∧ 0 < w.get m

theorem shedAt_refl (w : PerMotion Nat) (decel : PerMotion Nat) (prev : PerMotion Int) (order : List Motion) (x : Shared)
    (m : Motion) : ShedAt w decel prev order x x m :=
  ⟨le_rfl, .inr rfl, Nat.min_le_left _ _, fun h => ⟨h, rfl⟩, .inl⟩

theorem shedOne_at (w : PerMotion Nat) (b : Nat) (decel : PerMotion Nat) (prev : PerMotion Int) (x : Shared)
    (n m : Motion) : ShedAt w decel prev [n] x (shedOne w b decel prev x n) m := by
  by_cases taken : 0 < w.get n ∧ b < demand w x.outputs
  · rw [shedOne_taken taken]
    by_cases h : m = n
    · subst h
      obtain ⟨smaller, sign, above⟩ := shedCut_bounds (w.get m) (demand w x.outputs - b) (decel.get m) (prev.get m)
        (x.outputs.get m)
      exact ⟨by simpa using smaller, by simpa using sign, by simpa using above, by simp, by simp [taken.1]⟩
    · have keeps (α : Type) (y : PerMotion α) (v : α) : (y.set n v).get m = y.get m := PerMotion.get_set_ne y v h
      refine ⟨?_, .inr ?_, ?_, fun k => ?_, fun k => .inl ?_⟩
      · rw [keeps]
      · rw [keeps]
      · rw [keeps]
        exact Nat.min_le_left _ _
      · rw [keeps] at k ⊢
        exact ⟨k, rfl⟩
      · rw [keeps] at k
        exact k
  · rw [shedOne_spared taken]
    exact shedAt_refl w decel prev [n] x m

theorem foldl_shedOne_at (w : PerMotion Nat) (b : Nat) (decel : PerMotion Nat) (prev : PerMotion Int)
    (order : List Motion) (x : Shared) (m : Motion) :
    ShedAt w decel prev order x (order.foldl (shedOne w b decel prev) x) m := by
  induction order generalizing x with
  | nil => exact shedAt_refl w decel prev [] x m
  | cons n rest ih =>
    have one := shedOne_at w b decel prev x n m
    have after := ih (shedOne w b decel prev x n)
    refine ⟨after.smaller.trans one.smaller, ?_, ?_, fun h => ?_, fun h => ?_⟩
    · rcases after.sign with zero | same
      · exact .inl zero
      · rcases one.sign with zero | same'
        · left
          have := after.smaller
          rw [zero] at this
          simpa using this
        · exact .inr (same.trans same')
    · exact le_trans (le_min one.above (Nat.min_le_right _ _)) after.above
    · obtain ⟨mark, out⟩ := after.unmarked h
      obtain ⟨mark', out'⟩ := one.unmarked mark
      exact ⟨mark', out.trans out'⟩
    · rcases after.marked h with mark | ⟨named, weight⟩
      · rcases one.marked mark with mark | ⟨named, weight⟩
        · exact .inl mark
        · exact .inr ⟨List.mem_cons.2 (.inl (by simpa using named)), weight⟩
      · exact .inr ⟨List.mem_cons_of_mem n named, weight⟩

theorem foldl_shedOne_mark (w : PerMotion Nat) (b : Nat) (decel : PerMotion Nat) (prev : PerMotion Int)
    (order : List Motion) {x : Shared} {m : Motion} (h : x.marks.get m = true) :
    (order.foldl (shedOne w b decel prev) x).marks.get m = true := by
  by_contra k
  rw [Bool.not_eq_true] at k
  simp [((foldl_shedOne_at w b decel prev order x m).unmarked k).1] at h

/-- Shedding ends within the budget, or with every motion of the order that has a weight taken (R92). -/
theorem foldl_shedOne_ends (w : PerMotion Nat) (b : Nat) (decel : PerMotion Nat) (prev : PerMotion Int)
    (order : List Motion) (x : Shared) :
    let r := order.foldl (shedOne w b decel prev) x
    demand w r.outputs ≤ b ∨ ∀ m ∈ order, 0 < w.get m → r.marks.get m = true := by
  induction order generalizing x with
  | nil => exact .inr fun m hm => nomatch hm
  | cons n rest ih =>
    rw [List.foldl_cons]
    rcases ih (shedOne w b decel prev x n) with within | taken
    · exact .inl within
    · by_cases exceeds : b < demand w x.outputs
      · refine .inr fun m named weight => ?_
        rcases List.mem_cons.1 named with rfl | named
        · refine foldl_shedOne_mark w b decel prev rest ?_
          rw [shedOne_taken ⟨weight, exceeds⟩]
          exact PerMotion.get_set_self _ _ _
        · exact taken m named weight
      · left
        have within := Nat.not_lt.1 exceeds
        rw [shedOne_spared fun h => exceeds h.2, foldl_shedOne_within within]
        exact within

theorem accelerationHold_get (prev o : PerMotion Int) (m : Motion) :
    (accelerationHold prev o).get m = if (prev.get m).natAbs < (o.get m).natAbs then prev.get m else o.get m :=
  PerMotion.get_map _ _ _

theorem shareSupply_within {w : PerMotion Nat} {b : Nat} {o : PerMotion Int} (h : demand w o ≤ b) (order : List Motion)
    (decel : PerMotion Nat) (prev : PerMotion Int) : shareSupply w order b decel prev o = ⟨o, noMotions⟩ :=
  if_neg (Nat.not_lt.2 h)

theorem shareSupply_above {w : PerMotion Nat} {b : Nat} {o : PerMotion Int} (h : b < demand w o) (order : List Motion)
    (decel : PerMotion Nat) (prev : PerMotion Int) : shareSupply w order b decel prev o =
      order.foldl (shedOne w b decel prev) ⟨accelerationHold prev o, noMotions⟩ := if_pos h

/-- Settles O32: the hold of R91 and then the shedding of R92, motion by motion (`foldl_shedOne_at`). -/
theorem sharingHoldsThenSheds : Obligations.SharingHoldsThenSheds := by
  unfold Obligations.SharingHoldsThenSheds
  intro w order b decel prev o
  have noMark (m : Motion) : noMotions.get m = false := by cases m <;> rfl
  simp only [demandOf_eq_demand]
  refine ⟨fun within => ?_, fun above => ?_⟩
  · rw [shareSupply_within within]
    exact ⟨rfl, noMark⟩
  · rw [shareSupply_above above]
    refine ⟨fun m => ?_, foldl_shedOne_ends w b decel prev order _, ?_⟩
    · have at' := foldl_shedOne_at w b decel prev order ⟨accelerationHold prev o, noMotions⟩ m
      obtain ⟨smaller, sign, floor, unmarked, marked⟩ := at'
      rw [accelerationHold_get] at smaller sign floor unmarked
      refine ⟨smaller.trans ?_, smaller, sign, fun h => (unmarked h).2, fun h => ?_⟩
      · split
        · exact le_rfl
        · next small => exact Nat.not_lt.1 small
      · rcases marked h with mark | ⟨named, weight⟩
        · rw [noMark] at mark
          cases mark
        · exact ⟨named, weight, floor⟩
    · have sheds := foldl_shedOne_sheds w b decel prev order ⟨accelerationHold prev o, noMotions⟩
      have held : accelerationHold prev o =
          PerMotion.of fun m => if (prev.get m).natAbs < (o.get m).natAbs then prev.get m else o.get m :=
        PerMotion.ext_get fun m => by rw [accelerationHold_get, PerMotion.get_of]
      rw [← held]
      exact sheds

/-- Sharing makes no output larger, gives it its sign or that of the period before, and cuts it by no more than its
decel step from that one. -/
theorem shareSupply_bounds (w : PerMotion Nat) (order : List Motion) (b : Nat) (decel : PerMotion Nat)
    (prev o : PerMotion Int) (m : Motion) :
    let x := (shareSupply w order b decel prev o).outputs.get m
    x.natAbs ≤ (o.get m).natAbs ∧ (x = 0 ∨ x.sign = (o.get m).sign ∨ x.sign = (prev.get m).sign) ∧
    min (o.get m).natAbs ((prev.get m).natAbs - decel.get m) ≤ x.natAbs := by
  by_cases above : b < demand w o
  · rw [shareSupply_above above]
    obtain ⟨smaller, sign, floor, -, -⟩ := foldl_shedOne_at w b decel prev order ⟨accelerationHold prev o, noMotions⟩ m
    rw [accelerationHold_get] at smaller sign floor
    split at smaller
    · next small =>
      rw [if_pos small] at sign floor
      exact ⟨smaller.trans small.le, sign.imp_right .inr, by omega⟩
    · next small =>
      rw [if_neg small] at sign floor
      exact ⟨smaller, sign.imp_right .inl, floor⟩
  · rw [shareSupply_within (Nat.not_lt.1 above)]
    exact ⟨le_rfl, .inr (.inl rfl), Nat.min_le_left _ _⟩

/-! ### The ramp and the reversal (R86 to R88) -/

/-- A target that does not oppose the previous output, as stage 3 leaves it. -/
def SameWay (o t : Int) : Prop := o = 0 ∨ t = 0 ∨ o.sign = t.sign

theorem ramping_iff (o t : Int) : ramping o t = true ↔ t = 0 ∨ o.sign = t.sign ∧ t.natAbs < o.natAbs := by
  simp [ramping]

/-- The ramp toward a target that does not oppose the output: its sign, its steps, and what it cannot pass. -/
structure Ramped (o t : Int) (accel decel : Nat) (r : Int) : Prop where
  sign : o = 0 ∨ r = 0 ∨ r.sign = o.sign
  rise : r.natAbs ≤ o.natAbs + accel
  fall : o.natAbs ≤ r.natAbs + decel
  within : r.natAbs ≤ max t.natAbs o.natAbs

theorem rampOutput_ramped {o t : Int} (h : SameWay o t) (accel decel : Nat) :
    Ramped o t accel decel (rampOutput o t accel decel) := by
  unfold rampOutput
  by_cases falls : ramping o t = true
  · rw [if_pos falls]
    have small : t.natAbs ≤ o.natAbs := by
      rcases (ramping_iff o t).1 falls with rfl | ⟨-, small⟩
      · exact Nat.zero_le _
      · exact small.le
    have upper := natAbs_sign_mul_le o (max t.natAbs (o.natAbs - decel))
    refine ⟨.inr (sign_sign_mul _ _), by omega, ?_, by omega⟩
    by_cases zero : o = 0
    · simp [zero]
    · rw [natAbs_sign_mul zero]
      omega
  · rw [if_neg falls]
    rw [ramping_iff, not_or, not_and] at falls
    obtain ⟨target, rises⟩ := falls
    have magnitude := natAbs_sign_mul target (min t.natAbs (o.natAbs + accel))
    rcases h with rfl | zero | same
    · refine ⟨.inl rfl, by omega, by omega, by omega⟩
    · exact absurd zero target
    · have := rises same
      exact ⟨.inr (same ▸ sign_sign_mul _ _), by omega, by omega, by omega⟩

theorem reversalStage_output (o t : Int) (pending : Bool) (dwell : Nat) :
    (reversalStage o t pending dwell).output = o := by
  unfold reversalStage
  repeat' split
  all_goals rfl

/-- Stage 3 keeps the target or holds it at 0, and never leaves one that opposes the output (R86). -/
theorem reversalStage_target (o t : Int) (pending : Bool) (dwell : Nat) :
    ((reversalStage o t pending dwell).target = t ∨ (reversalStage o t pending dwell).target = 0) ∧
    SameWay o (reversalStage o t pending dwell).target := by
  unfold reversalStage
  split
  · next moving =>
    split
    · exact ⟨.inr rfl, .inr (.inl rfl)⟩
    · split
      · exact ⟨.inr rfl, .inr (.inl rfl)⟩
      · next target opposed =>
        refine ⟨.inl rfl, .inr (.inr ?_)⟩
        simpa [Machine.opposed, moving, target] using opposed
  · next still =>
    have zero : o = 0 := not_not.1 still
    split
    · exact ⟨.inr rfl, .inl zero⟩
    · exact ⟨.inl rfl, .inl zero⟩

/-- Stage 4 forms the ramp's output and leaves the target. -/
theorem rampStage_forms (p : Profile) (o : Int) (f : Formed) :
    (rampStage p o f).output = rampOutput o f.target p.accel p.decel ∧ (rampStage p o f).target = f.target := by
  unfold rampStage
  simp only
  split
  · next turned => exact ⟨turned.2.1.symm, rfl⟩
  · exact ⟨rfl, rfl⟩

/-- The target of stage 2 of a motion, for its effective request and its cap (R85). -/
def stageTarget (s : State) (m : Motion) : Int :=
  cappedTarget (effectiveRequest s m) (motionCap s m (effectiveRequest s m))

/-- The target a motion forms is that of stage 2 or 0, and does not oppose its output. -/
theorem formMotion_target (s : State) (m : Motion) :
    ((formMotion s m).target = stageTarget s m ∨ (formMotion s m).target = 0) ∧
    SameWay (s.shaper.motions.get m).output (formMotion s m).target := by
  have target : (formMotion s m).target =
      (reversalStage (s.shaper.motions.get m).output (stageTarget s m) (s.shaper.motions.get m).reversalPending
        (s.shaper.motions.get m).dwell).target := by
    unfold formMotion gateStage
    split <;> exact (rampStage_forms _ _ _).2
  rw [target]
  exact reversalStage_target _ _ _ _

/-- The output a motion forms is the ramp's with its brake RELEASED, and 0 otherwise (R88, R89). -/
theorem formMotion_output (s : State) (m : Motion) :
    let o := (s.shaper.motions.get m).output
    let p := motionProfile s.shaper m
    ((s.gate.brakes.get m).state = .released → Ramped o (formMotion s m).target p.accel p.decel (formMotion s m).output) ∧
    ((s.gate.brakes.get m).state ≠ .released → (formMotion s m).output = 0) := by
  have sameWay := (formMotion_target s m).2
  refine ⟨fun released => ?_, fun braked => ?_⟩
  · have formed (x : Formed) : gateStage (s.gate.brakes.get m).state x = x := if_pos released
    simp only [formMotion, formed] at sameWay ⊢
    rw [(rampStage_forms _ _ _).1, (rampStage_forms _ _ _).2]
    rw [(rampStage_forms _ _ _).2] at sameWay
    exact rampOutput_ramped sameWay _ _
  · simp only [formMotion, gateStage, if_neg braked]

/-! ### The cap and the target of stage 2 (R84, R85) -/

/-- A number is the least of those that are terms. -/
def LeastTerm (terms : Nat → Prop) (c : Nat) : Prop := terms c ∧ ∀ k, terms k → c ≤ k

theorem LeastTerm.insert {terms : Nat → Prop} {c : Nat} (h : LeastTerm terms c) (b : Nat) :
    LeastTerm (fun k => terms k ∨ k = b) (min c b) := by
  refine ⟨?_, fun k hk => ?_⟩
  · rcases Nat.le_total c b with le | le
    · exact .inl (by rw [Nat.min_eq_left le]; exact h.1)
    · exact .inr (Nat.min_eq_right le)
  · rcases hk with hk | rfl
    · exact (Nat.min_le_left _ _).trans (h.2 k hk)
    · exact Nat.min_le_right _ _

theorem LeastTerm.congr {terms terms' : Nat → Prop} {c : Nat} (h : LeastTerm terms c) (eq : ∀ k, terms' k ↔ terms k) :
    LeastTerm terms' c := ⟨(eq c).2 h.1, fun k hk => h.2 k ((eq k).1 hk)⟩

/-- A term that is there in one case only. -/
theorem LeastTerm.insertIf {terms : Nat → Prop} {c : Nat} (h : LeastTerm terms c) (p : Prop) [Decidable p] (b : Nat) :
    LeastTerm (fun k => terms k ∨ p ∧ k = b) (if p then min c b else c) := by
  split
  · next hp => exact (h.insert b).congr fun k => by simp [hp]
  · next hp => exact h.congr fun k => by simp [hp]

theorem LeastTerm.insertOption {terms : Nat → Prop} {c : Nat} (h : LeastTerm terms c) (x : Option Nat) :
    LeastTerm (fun k => terms k ∨ x = some k) (x.elim c (min c)) := by
  cases x with
  | none => exact h.congr fun k => by simp
  | some b => exact (h.insert b).congr fun k => by simp [eq_comm]

/-- The envelope's term of a cap, where there is one. -/
def envelopeTerm (s : State) (m : Motion) (r : Int) : Option Nat :=
  if r = 0 then none else envelopeCap s.envelope.caps m (decide (0 < r))

theorem envelopeTerm_iff (s : State) (m : Motion) (r : Int) (k : Nat) : envelopeTerm s m r = some k ↔
    ∃ x d, DigMotion.motion x = m ∧ directionOf r = some d ∧ k = capOf s.envelope.caps x d := by
  have term (x : DigMotion) : envelopeTerm s x.motion r = some k ↔
      ∃ d, directionOf r = some d ∧ k = capOf s.envelope.caps x d := by
    unfold envelopeTerm directionOf
    by_cases zero : r = 0
    · simp [zero]
    · by_cases positive : 0 < r <;> cases x <;>
        simp [zero, positive, DigMotion.motion, envelopeCap, capOf, PerDig.get, eq_comm]
  constructor
  · intro h
    cases m with
    | hoist => exact ⟨.hoist, ((term .hoist).1 h).imp fun _ hd => ⟨rfl, hd⟩⟩
    | drag => exact ⟨.drag, ((term .drag).1 h).imp fun _ hd => ⟨rfl, hd⟩⟩
    | swing => exact ⟨.swing, ((term .swing).1 h).imp fun _ hd => ⟨rfl, hd⟩⟩
    | walk =>
      unfold envelopeTerm at h
      split at h <;> cases h
  · rintro ⟨x, d, rfl, hd⟩
    exact (term x).2 ⟨d, hd⟩

theorem boomCapped_iff (m : Motion) (r : Int) : boomCapped m r = true ↔ (m = .hoist ∨ m = .drag) ∧ 0 < r := by
  simp [boomCapped]

theorem boomCap_eq (b : Bands) : boomCap b = (match effectiveBoom b with
    | .overload => 0
    | .heavy => b.boomSettings.heavyCap
    | .normal => 1000
    | .empty => 1000) := by
  unfold boomCap
  cases effectiveBoom b <;> rfl

/-- The cap of a motion, term by term. -/
theorem motionCap_eq (s : State) (m : Motion) (r : Int) : motionCap s m r =
    (let p := motionProfile s.shaper m
    let under := (envelopeTerm s m r).elim p.ceiling (min p.ceiling)
    let loaded := if boomCapped m r = true then min under (boomCap s.bands) else under
    if s.alarms.limit.get m = true then min loaded p.creep else loaded) := by
  unfold motionCap envelopeTerm
  by_cases zero : r = 0
  · simp only [if_pos zero, Option.elim]
  · simp only [if_neg zero]
    cases envelopeCap s.envelope.caps m (decide (0 < r)) <;> rfl

/-- The cap of a motion is the least of its terms (R84). -/
theorem motionCap_least (s : State) (m : Motion) (r : Int) : IsMotionCap s m r (motionCap s m r) := by
  have ceiling : LeastTerm (fun k => k = (motionProfile s.shaper m).ceiling) (motionProfile s.shaper m).ceiling :=
    ⟨rfl, fun k hk => hk.ge⟩
  have envelope := ceiling.insertOption (envelopeTerm s m r)
  have boom := envelope.insertIf (boomCapped m r = true) (boomCap s.bands)
  have limit := boom.insertIf (s.alarms.limit.get m = true) (motionProfile s.shaper m).creep
  rw [motionCap_eq]
  refine limit.congr fun k => ?_
  unfold CapTerm
  rw [← envelopeTerm_iff, boomCapped_iff, boomCap_eq]
  tauto

/-- A capped target is no larger than the cap, nor than the request, and of the request's sign (R85). -/
theorem cappedTarget_bounds (r : Int) (c : Nat) :
    (cappedTarget r c).natAbs ≤ c ∧ (cappedTarget r c).natAbs ≤ r.natAbs ∧
    (cappedTarget r c = 0 ∨ (cappedTarget r c).sign = r.sign) := by
  have le := natAbs_sign_mul_le r (min r.natAbs c)
  exact ⟨le.trans (Nat.min_le_right _ _), le.trans (Nat.min_le_left _ _), sign_sign_mul _ _⟩

theorem directionOf_eq_of_sign {x y : Int} (h : x.sign = y.sign) : directionOf x = directionOf y := by
  have zero : x = 0 ↔ y = 0 := by rw [← Int.sign_eq_zero_iff_zero, h, Int.sign_eq_zero_iff_zero]
  have positive : 0 < x ↔ 0 < y := by rw [← Int.sign_pos_iff, h, Int.sign_pos_iff]
  simp only [directionOf, zero, positive]

/-- What an effective request other than 0 is (R82, R83). -/
theorem effectiveRequest_cases {s : State} {m : Motion} (h : effectiveRequest s m ≠ 0) :
    (MayServe s m ∧ (s.shaper.motions.get m).permit = true ∧ s.alarms.hold.get m = false) ∧
    ((∀ source d, s.sequencer.mode ≠ .stopping source d) ∧ s.ports.a.freshness = .fresh ∧
        effectiveRequest s m = (s.shaper.motions.get m).request ∨
      s.sequencer.mode = .stopping .walk .dig ∧ m = .walk ∧ s.walk.bothInRest = false ∧
        ∃ d, (s.shaper.motions.get m).lastDirection = some d ∧
          effectiveRequest s m = (motionProfile s.shaper .walk).creep * d.sign) := by
  unfold effectiveRequest at h ⊢
  simp only at h ⊢
  split at h
  · next source d mode =>
    split at h
    · next finishing =>
      rw [if_pos finishing]
      simp only [Bool.and_eq_true, Bool.not_eq_true', decide_eq_true_eq, finishingWalk, beq_iff_eq] at finishing
      obtain ⟨⟨⟨finishing, rfl⟩, ⟨service, permit⟩, hold⟩, rest⟩ := finishing
      refine ⟨⟨(inService_iff s .walk).1 service, permit, hold⟩, .inr ⟨finishing, rfl, rest, ?_⟩⟩
      split at h
      · next x hx =>
        rw [hx]
        exact ⟨x, rfl, rfl⟩
      · exact absurd rfl h
    · exact absurd rfl h
  · next mode =>
    split at h
    · next runs =>
      rw [if_pos runs]
      simp only [Bool.and_eq_true, Bool.not_eq_true', beq_iff_eq] at runs
      obtain ⟨⟨⟨service, permit⟩, hold⟩, fresh⟩ := runs
      exact ⟨⟨(inService_iff s m).1 service, permit, hold⟩, .inl ⟨mode, fresh, rfl⟩⟩
    · exact absurd rfl h

/-- In service outside STOPPING, the mode is DIG or WALK (R67). -/
theorem MayServe.working {s : State} {m : Motion} (h : MayServe s m)
    (moving : ∀ source d, s.sequencer.mode ≠ .stopping source d) : s.sequencer.mode = .dig ∨ s.sequencer.mode = .walk := by
  have left {w : Mode} {source : Working} (k : s.sequencer.mode = w ∨ ∃ d, s.sequencer.mode = .stopping source d) :
      s.sequencer.mode = w := k.resolve_right fun ⟨d, hd⟩ => moving source d hd
  cases m with
  | walk => exact .inr (left h.1)
  | _ => exact .inl (left h.1)

/-- The target of stage 2 is one that the rules allow (R82 to R85). -/
theorem stageTarget_allowed (s : State) (m : Motion) : TargetAllowed s m (stageTarget s m) := by
  by_cases zero : stageTarget s m = 0
  · exact .inl zero
  obtain ⟨cap, asked, sign⟩ := cappedTarget_bounds (effectiveRequest s m) (motionCap s m (effectiveRequest s m))
  change (stageTarget s m).natAbs ≤ _ at cap
  change (stageTarget s m).natAbs ≤ _ at asked
  have sign : (stageTarget s m).sign = (effectiveRequest s m).sign := sign.resolve_left zero
  have request : effectiveRequest s m ≠ 0 := fun h => zero (by simp [stageTarget, cappedTarget, h])
  obtain ⟨⟨service, permit, hold⟩, source⟩ := effectiveRequest_cases request
  have least := (motionCap_least s m (effectiveRequest s m)).2
  have term {k : Nat} (h : CapTerm s m (effectiveRequest s m) k) : (stageTarget s m).natAbs ≤ k := cap.trans (least k h)
  refine .inr ⟨service, permit, hold, term (.inl rfl), fun limit => term (.inr (.inr (.inr ⟨limit, rfl⟩))),
    fun x d motion direction => ?_, fun rope positive => ?_, ?_⟩
  · exact term (.inr (.inl ⟨x, d, motion, directionOf_eq_of_sign sign ▸ direction, rfl⟩))
  · have positive : 0 < effectiveRequest s m := by
      rw [← Int.sign_pos_iff, ← sign, Int.sign_pos_iff]
      exact positive
    have boom := term (.inr (.inr (.inl ⟨rope, positive, rfl⟩)))
    refine ⟨fun heavy => by simpa [heavy] using boom, fun overload => zero ?_⟩
    simpa [overload] using boom
  · rcases source with ⟨moving, fresh, operator⟩ | ⟨mode, rfl, rest, d, last, creep⟩
    · exact .inl ⟨service.working moving, fresh, operator ▸ sign, operator ▸ asked⟩
    · refine .inr ⟨mode, rfl, rest, ?_, ?_⟩
      · refine asked.trans ?_
        rw [creep]
        cases d <;> simp [Direction.sign]
      · rw [last, directionOf_eq_of_sign sign, creep]
        have : (motionProfile s.shaper .walk).creep ≠ 0 := fun h => request (by rw [creep, h]; simp)
        have : (0 : Int) < (motionProfile s.shaper .walk).creep := by omega
        cases d <;> simp [Direction.sign, directionOf] <;> omega

/-! ### What a period leaves of a motion -/

/-- What a period expiry leaves of one motion: what its stages formed, or a motion stopped. -/
theorem periodExpiry_motion {s : State} (running : s.power = .running) : ∃ t, exec .periodExpiry s = .next t ∧ ∀ m,
    let q := t.shaper.motions.get m
    let formed := (periodBlocks s).shaper.motions.get m
    (q.output = formed.output ∧ q.target = formed.target ∧ q.reversalPending = formed.reversalPending ∧
      q.dwell = formed.dwell) ∨
    (q.permit = false ∧ q.output = 0 ∧ q.target = 0 ∧ q.reversalPending = false ∧ q.dwell = 0) := by
  refine ⟨_, exec_periodExpiry_running running, fun m => ?_⟩
  simp only [settle_motion]
  rcases periodAll_motion s m with same | stopped
  · rw [same]
    exact .inl ⟨rfl, rfl, rfl, rfl⟩
  · rw [stopped]
    exact .inr ⟨rfl, rfl, rfl, rfl, rfl⟩

theorem periodBlocks_motion (s : State) (m : Motion) :
    ((periodBlocks s).shaper.motions.get m).output =
      (sharePeriod s (PerMotion.of (formMotion s))).outputs.get m ∧
    ((periodBlocks s).shaper.motions.get m).target = (formMotion s m).target ∧
    ((periodBlocks s).shaper.motions.get m).reversalPending = (formMotion s m).reversalPending ∧
    ((periodBlocks s).shaper.motions.get m).dwell = (formMotion s m).dwell := by
  rw [(periodBlocks_formed s).motion m]
  exact ⟨rfl, rfl, rfl, rfl⟩

/-- The output a period forms: no larger than stage 5's, of its sign or of the previous output's, and above the decel
step from that one where stage 5's is. -/
theorem sharePeriod_bounds (s : State) (m : Motion) :
    let x := (sharePeriod s (PerMotion.of (formMotion s))).outputs.get m
    let o := (s.shaper.motions.get m).output
    x.natAbs ≤ (formMotion s m).output.natAbs ∧ (x = 0 ∨ x.sign = (formMotion s m).output.sign ∨ x.sign = o.sign) ∧
    min (formMotion s m).output.natAbs (o.natAbs - (motionProfile s.shaper m).decel) ≤ x.natAbs := by
  have bounds := shareSupply_bounds s.shaper.weights s.shaper.shedOrder (budget s.bands)
    (PerMotion.of fun m => (motionProfile s.shaper m).decel) (previousOutputs s)
    (formedOutputs (PerMotion.of (formMotion s))) m
  simp only [formedOutputs, previousOutputs, outputsOf, PerMotion.get_map, PerMotion.get_of] at bounds
  exact bounds

/-- Settles O29: the ramp of stage 4 (`rampOutput_ramped`), which sharing only cuts (`shareSupply_bounds`), or a motion
stopped at the event. -/
theorem periodRampsOutputs : Obligations.PeriodRampsOutputs := by
  unfold Obligations.PeriodRampsOutputs
  intro s running
  obtain ⟨t, answer, motions⟩ := periodExpiry_motion running
  refine ⟨t, answer, fun m => ?_⟩
  rcases motions m with ⟨output, -⟩ | ⟨permit, output, -⟩
  · obtain ⟨smaller, sign, above⟩ := sharePeriod_bounds s m
    obtain ⟨released, braked⟩ := formMotion_output s m
    have target := (formMotion_target s m).1
    simp only [output, (periodBlocks_motion s m).1]
    have ceiling : (formMotion s m).target.natAbs ≤ (motionProfile s.shaper m).ceiling := by
      rcases target with same | zero
      · rw [same]
        exact (cappedTarget_bounds _ _).1.trans ((motionCap_least s m _).2 _ (.inl rfl))
      · simp [zero]
    by_cases brake : (s.gate.brakes.get m).state = .released
    · have ramp := released brake
      refine ⟨?_, smaller.trans ramp.rise, fun _ _ => ?_, fun h => absurd brake h, fun h => ?_⟩
      · rcases sign with zero | formed | kept
        · exact .inr (.inl zero)
        · rcases ramp.sign with still | zero | same
          · exact .inl still
          · right; left
            rw [zero] at smaller
            simpa using smaller
          · exact .inr (.inr (formed.trans same))
        · exact .inr (.inr kept)
      · have := ramp.fall
        omega
      · have := ramp.within
        omega
    · have zero := braked brake
      rw [zero, Int.natAbs_zero, Nat.le_zero, Int.natAbs_eq_zero] at smaller
      simp [smaller, brake]
  · simp [output, permit]

/-- Settles O30: a motion's target is that of stage 2 (`stageTarget_allowed`), or 0. -/
theorem periodTargetsAreAllowed : Obligations.PeriodTargetsAreAllowed := by
  unfold Obligations.PeriodTargetsAreAllowed
  intro s running
  obtain ⟨t, answer, motions⟩ := periodExpiry_motion running
  refine ⟨t, answer, fun m => ?_⟩
  rcases motions m with ⟨-, target, -⟩ | ⟨-, -, target, -⟩
  · rw [target, (periodBlocks_motion s m).2.1]
    rcases (formMotion_target s m).1 with same | zero
    · exact same ▸ stageTarget_allowed s m
    · exact .inl zero
  · exact .inl target

/-! ### The stages, case by case (R86 to R89) -/

theorem rampOutput_eq (o t : Int) (accel decel : Nat) : rampOutput o t accel decel =
    if t = 0 ∨ o.sign = t.sign ∧ t.natAbs < o.natAbs then o.sign * (max t.natAbs (o.natAbs - decel) : Nat)
    else t.sign * (min t.natAbs (o.natAbs + accel) : Nat) := by
  simp only [rampOutput, ramping_iff]

/-- Without a reversal pending, or from rest, stage 4 is the ramp alone. -/
theorem rampStage_straight {p : Profile} {o : Int} {f : Formed} (h : o = 0 ∨ f.reversalPending = false) :
    rampStage p o f = { f with output := rampOutput o f.target p.accel p.decel } := by
  refine if_neg fun ⟨moving, _, turning⟩ => ?_
  rcases h with still | straight
  · exact moving still
  · simp [straight] at turning

/-- With a reversal pending, stage 4 loads the dwell where it brings the motion to 0 (R87). -/
theorem rampStage_turning {p : Profile} {o : Int} (moving : o ≠ 0) (dwell : Nat) :
    let ramp := rampOutput o 0 p.accel p.decel
    let f := rampStage p o ⟨0, o, true, dwell⟩
    (ramp ≠ 0 → f.reversalPending = true ∧ f.dwell = dwell) ∧
    (ramp = 0 → f.reversalPending = false ∧ f.dwell = p.dwell) := by
  refine ⟨fun going => ?_, fun reached => ?_⟩
  · have stage : rampStage p o ⟨0, o, true, dwell⟩ = ⟨0, rampOutput o 0 p.accel p.decel, true, dwell⟩ :=
      if_neg fun h => going h.2.1
    rw [stage]
    exact ⟨rfl, rfl⟩
  · have stage : rampStage p o ⟨0, o, true, dwell⟩ = ⟨0, 0, false, p.dwell⟩ := if_pos ⟨moving, reached, rfl⟩
    rw [stage]
    exact ⟨rfl, rfl⟩

/-- Stages 3 and 4 are those of the rules, whatever the target. -/
theorem rampStage_formed (p : Profile) (o t : Int) (pending : Bool) (dwell : Nat) :
    StagesFormed p o t pending dwell .released (rampStage p o (reversalStage o t pending dwell)) := by
  have ramped := (rampStage_forms p o (reversalStage o t pending dwell)).1
  have target := (rampStage_forms p o (reversalStage o t pending dwell)).2
  unfold StagesFormed
  rw [target, ← rampOutput_eq]
  refine ⟨fun moving asked opposes => ?_, fun moving asked same => ?_, fun moving centred turning => ?_,
    fun moving centred straight => ?_, fun still dwells => ?_, fun still rested => ?_, ramped.trans (if_pos rfl).symm⟩
  · have opposed : opposed o t = true := by simp [Machine.opposed, moving, asked, opposes]
    have stage : reversalStage o t pending dwell = ⟨0, o, true, dwell⟩ := by
      rw [reversalStage, if_pos moving, if_neg asked, if_pos opposed]
    rw [stage]
    exact ⟨rfl, rampStage_turning moving dwell⟩
  · have aligned : ¬opposed o t = true := by simp [Machine.opposed, same]
    have stage : reversalStage o t pending dwell = ⟨t, o, false, dwell⟩ := by
      rw [reversalStage, if_pos moving, if_neg asked, if_neg aligned]
    rw [stage, rampStage_straight (.inr rfl)]
    exact ⟨rfl, rfl, rfl⟩
  · have stage : reversalStage o t pending dwell = ⟨0, o, true, dwell⟩ := by
      rw [reversalStage, if_pos moving, if_pos centred, turning]
    rw [stage]
    exact ⟨rfl, rampStage_turning moving dwell⟩
  · have stage : reversalStage o t pending dwell = ⟨0, o, false, dwell⟩ := by
      rw [reversalStage, if_pos moving, if_pos centred, straight]
    rw [stage, rampStage_straight (.inr rfl)]
    exact ⟨rfl, rfl, rfl⟩
  · have stage : reversalStage o t pending dwell = ⟨0, o, pending, dwell - 1⟩ := by
      rw [reversalStage, if_neg (not_not.2 still), if_pos dwells]
    rw [stage, rampStage_straight (.inl still)]
    exact ⟨rfl, rfl, Nat.sub_add_cancel dwells⟩
  · have stage : reversalStage o t pending dwell = ⟨t, o, false, dwell⟩ := by
      rw [reversalStage, if_neg (not_not.2 still), if_neg (by omega)]
    rw [stage, rampStage_straight (.inl still)]
    exact ⟨rfl, rfl, rested⟩

/-- The brake gates the output alone (R89). -/
theorem StagesFormed.gated {p : Profile} {o t : Int} {pending : Bool} {dwell : Nat} {f : Formed}
    (h : StagesFormed p o t pending dwell .released f) (b : BrakeState) :
    StagesFormed p o t pending dwell b (gateStage b f) := by
  obtain ⟨h1, h2, h3, h4, h5, h6, output⟩ := h
  unfold gateStage
  split
  · next released => exact ⟨h1, h2, h3, h4, h5, h6, by rw [output, if_pos rfl, if_pos released]⟩
  · next braked => exact ⟨h1, h2, h3, h4, h5, h6, (if_neg braked).symm⟩

/-- Settles O31: the request is that of R82 and R83, the cap the least of its terms (`motionCap_least`), and the stages are
those of the rules for every target (`rampStage_formed`). -/
theorem stagesFollowTheRequest : Obligations.StagesFollowTheRequest := by
  unfold Obligations.StagesFollowTheRequest
  refine ⟨fun s m r h => effectiveRequest_formed h, fun s m r h => ⟨_, motionCap_least s m r, ?_⟩,
    rampStage_formed,
    fun s running => ?_, fun p n => ⟨effectiveProfile_values p n, fun x m name profiles => ?_⟩⟩
  · simp only [formMotion, effectiveRequest_formed h]
    exact (rampStage_formed _ _ _ _ _).gated _
  · obtain ⟨t, answer, motions⟩ := periodExpiry_motion running
    refine ⟨t, answer, fun m => ?_⟩
    obtain ⟨-, target, reversal, dwell⟩ := periodBlocks_motion s m
    exact (motions m).imp_left fun ⟨_, h1, h2, h3⟩ => ⟨h1.trans target, h2.trans reversal, h3.trans dwell⟩
  · rw [motionProfile, name, profiles]

end Sys2Proof.Machine
end

section
/-! No output without service, permit and a RELEASED brake, and what is published is what is held: the two laws, kept by
every base of an effect and every turn behind it (R68, R74, R89, R95, R96, R105, R140, R141). -/

namespace Sys2Proof.Machine

/-! ### Publication (R95, R96, R140, R141) -/

theorem sideOf_zero (ow : Int) : SideOf 0 ow := ⟨Nat.zero_le _, .inl rfl⟩

theorem sideOf_self (ow : Int) : SideOf ow ow := ⟨le_rfl, .inr rfl⟩

/-- A WALK output slowed by a trim keeps its sign. -/
theorem sideOf_slowed (ow : Int) {n : Nat} (h : n ≤ ow.natAbs) : SideOf (ow.sign * (ow.natAbs - n : Int)) ow := by
  have cast : (ow.natAbs - n : Int) = (ow.natAbs - n : Nat) := (Int.ofNat_sub h).symm
  rw [cast]
  exact ⟨(natAbs_sign_mul_le _ _).trans (Nat.sub_le _ _), sign_sign_mul _ _⟩

theorem sideOf_walkLeft (skew ow : Int) (gain : Nat) : SideOf (walkLeftOf skew ow gain) ow := by
  unfold walkLeftOf
  split
  · exact sideOf_slowed ow (Nat.min_le_left _ _)
  · exact sideOf_self ow

theorem sideOf_walkRight (skew ow : Int) (gain : Nat) : SideOf (walkRightOf skew ow gain) ow := by
  unfold walkRightOf
  split
  · exact sideOf_slowed ow (Nat.min_le_left _ _)
  · exact sideOf_self ow

/-- The law speaks of the outputs, held and published, and of the side references. -/
theorem PublishedLaw.congr {s t : State} (h : PublishedLaw s)
    (published : t.shaper.references.outputs = s.shaper.references.outputs)
    (outputs : ∀ m, (t.shaper.motions.get m).output = (s.shaper.motions.get m).output)
    (left : t.walk.walkLeft = s.walk.walkLeft) (right : t.walk.walkRight = s.walk.walkRight) : PublishedLaw t := by
  have walk : t.shaper.motions.walk.output = s.shaper.motions.walk.output := outputs .walk
  unfold PublishedLaw
  simp only [published, outputs, left, right, walk]
  exact h

theorem publishedLaw_of_zero {s : State} (published : s.shaper.references.outputs = ⟨0, 0, 0, 0⟩)
    (outputs : ∀ m, (s.shaper.motions.get m).output = 0) (left : s.walk.walkLeft = 0) (right : s.walk.walkRight = 0) :
    PublishedLaw s := by
  unfold PublishedLaw
  rw [published, left, right]
  exact ⟨fun m => by rw [outputs m]; cases m <;> rfl, sideOf_zero _, sideOf_zero _⟩

theorem OnlySequencer.publishedLaw {s t : State} (only : OnlySequencer s t) (h : PublishedLaw s) : PublishedLaw t := by
  obtain ⟨outputs, left, right⟩ := h
  refine ⟨fun m => ?_, ?_⟩
  · rcases only.published with ⟨motions, published⟩ | republished
    · have motions : t.shaper.motions = s.shaper.motions := motions
      have published : t.shaper.references.outputs = s.shaper.references.outputs := published
      rw [motions, published]
      exact outputs m
    · have republished : t.shaper.references.outputs = outputsOf t.shaper := republished
      rw [republished]
      exact PerMotion.get_map _ _ _
  · rcases only.walk with ⟨motion, walk⟩ | ⟨-, walk⟩
    · have motion : t.shaper.motions.walk = s.shaper.motions.walk := motion
      have walk : t.walk = s.walk := walk
      rw [motion, walk]
      exact ⟨left, right⟩
    · have walk : t.walk = { s.walk with walkLeft := 0, walkRight := 0 } := walk
      rw [walk]
      exact ⟨sideOf_zero _, sideOf_zero _⟩

theorem zeroMotions_publishedLaw (ms : PerMotion Bool) {s : State} (h : PublishedLaw s) :
    PublishedLaw (zeroMotions ms s) := by
  obtain ⟨-, left, right⟩ := h
  have published (m : Motion) : (zeroMotions ms s).shaper.references.outputs.get m =
      ((zeroMotions ms s).shaper.motions.get m).output := by
    have outputs : (zeroMotions ms s).shaper.references.outputs = outputsOf (zeroMotions ms s).shaper := by
      unfold zeroMotions
      simp only
      split <;> rfl
    rw [outputs]
    exact PerMotion.get_map _ _ _
  refine ⟨published, ?_⟩
  by_cases walk : ms.walk = true
  · have sides : (zeroMotions ms s).walk = { s.walk with walkLeft := 0, walkRight := 0 } := by
      unfold zeroMotions
      simp only
      rw [if_pos walk, handWalkOutput_zero]
      rfl
    rw [sides]
    exact ⟨sideOf_zero _, sideOf_zero _⟩
  · have sides : (zeroMotions ms s).walk = s.walk := by
      unfold zeroMotions
      simp only
      rw [if_neg walk]
      rfl
    have motion : (zeroMotions ms s).shaper.motions.get .walk = s.shaper.motions.get .walk := by
      rw [zeroMotions_motion]
      exact if_neg walk
    have motion : (zeroMotions ms s).shaper.motions.walk = s.shaper.motions.walk := motion
    rw [sides, motion]
    exact ⟨left, right⟩

theorem associate_output (n : ProfileName) (r : MotionRecord) :
    (associate n r).output = r.output ∧ (associate n r).permit = r.permit := by
  unfold associate
  repeat' split
  all_goals exact ⟨rfl, rfl⟩

/-- A written record leaves the outputs and the permits, held and published, and the side references. -/
theorem appliedBase_outputs (w : RecordWrite) (s : State) :
    (∀ m, ((appliedBase w s).shaper.motions.get m).output = (s.shaper.motions.get m).output ∧
      ((appliedBase w s).shaper.motions.get m).permit = (s.shaper.motions.get m).permit) ∧
    (appliedBase w s).shaper.references = s.shaper.references ∧
    (appliedBase w s).walk.walkLeft = s.walk.walkLeft ∧ (appliedBase w s).walk.walkRight = s.walk.walkRight := by
  cases w with
  | calEncoder e cal zeroing => cases zeroing <;> exact ⟨fun _ => ⟨rfl, rfl⟩, rfl, rfl, rfl⟩
  | association names =>
    refine ⟨fun m => ?_, rfl, rfl, rfl⟩
    simp only [appliedBase, applyWrite, applyAssociation, State.withShaper_shaper, PerMotion.get_map]
    exact associate_output _ _
  | _ => exact ⟨fun _ => ⟨rfl, rfl⟩, rfl, rfl, rfl⟩

theorem Base.publishedLaw (s b : State) (h : PublishedLaw s) (base : Base s b) : PublishedLaw b := by
  cases base with
  | scan conversions =>
    obtain ⟨left, right, -⟩ := scannedWalk_keeps (scanSnapshot conversions s.scanner) s.walk
    exact h.congr rfl (fun _ => rfl) left right
  | period =>
    refine ⟨fun m => ?_, ?_⟩
    · rw [periodBlocks_outputs, outputsOf, PerMotion.get_map]
    · have output : (periodBlocks s).shaper.motions.walk.output = _ := (periodBlocks_motion s .walk).1
      rw [output]
      exact ⟨sideOf_walkLeft _ _ _, sideOf_walkRight _ _ _⟩
  | feedback m =>
    unfold feedbackBase
    split
    · exact h
    · split
      · exact zeroMotions_publishedLaw _ (s := s.withBrake m _) h
      · exact h
  | hold _ => exact h.congr rfl (fun m => by simp [staleBase]) rfl rfl
  | @written w _ =>
    obtain ⟨motions, references, left, right⟩ := appliedBase_outputs w ((s.withMemory (s.memory.write w)).withStore .idle)
    exact h.congr (congrArg References.outputs references) (fun m => (motions m).1) left right
  | fresh mark refs => exact h.congr rfl (fun m => by simp [freshStored, storeRequest]) rfl rfl
  | readiness r =>
    have ready : PublishedLaw (s.withShaper { s.shaper with readiness := r }) := h
    have served : PublishedLaw (loseService (lostMotions s r) (s.withShaper { s.shaper with readiness := r })) := by
      unfold loseService
      split
      · exact zeroMotions_publishedLaw _ ready
      · exact ready
    exact served
  | listRead p => cases p <;> exact h
  | restarted _ _ =>
    refine publishedLaw_of_zero rfl (fun m => ?_) rfl rfl
    simp [restartBase, noteListChange, restartShaper, restartMotion]
  | _ => exact h

theorem Turn.onlySequencer {s t : State} (turn : Turn s t) : OnlySequencer s t := by
  cases turn with
  | reports only => exact only.onlySequencer
  | issued kind _ => exact issueOrder_onlySequencer kind s
  | done _ => exact orderDone_onlySequencer s
  | failed e _ => exact orderFailed_onlySequencer e s
  | _ => exact onlySequencer_withSequencer _ _

theorem step_publishedLaw {s t : State} (hstep : step s = .next t) (h : PublishedLaw s) : PublishedLaw t := by
  have settled (s : State) (l : PerPort PortLink) (h : PublishedLaw s) : PublishedLaw (settle (s.withLinks l)) :=
    h.congr rfl (fun m => by rw [settle_motion]; rfl) rfl rfl
  refine step_establishes (P := PublishedLaw) (fun _ _ h => h) (fun _ h => h) settled (fun _ _ h => h)
    (fun s p _ => ?_) (fun s _ => ?_)
    (fun s t h effect => effect.establishes Base.publishedLaw (fun _ _ h turn => turn.onlySequencer.publishedLaw h) h)
    h hstep
  · refine publishedLaw_of_zero rfl (fun m => ?_) rfl rfl
    cases m <;> rfl
  · have loaded : PublishedLaw (loadedBlocks s) :=
      publishedLaw_of_zero rfl (fun m => congrArg MotionRecord.output (PerMotion.get_map _ _ m)) rfl rfl
    exact settled _ (release s).ports.links ((release_reports s).onlySequencer.publishedLaw loaded)

/-! ### Service, permit and brake (R68, R74, R89, R96, R105) -/

/-- A motion may serve as the sequencer and the readiness have it. -/
theorem mayServe_congr {s t : State} (sequencer : t.sequencer = s.sequencer)
    (readiness : t.shaper.readiness = s.shaper.readiness) (m : Motion) : MayServe t m ↔ MayServe s m := by
  rw [← inService_iff, ← inService_iff, inService, inService, sequencer, readiness]

/-- A working mode, or a stop from it. -/
def Serves (w : Working) (mode : Mode) : Prop := mode = w.settled.mode ∨ ∃ d, mode = .stopping w d

/-- A change of mode and queue that no motion is taken out of service by. -/
theorem MayServe.withMode {s : State} {m : Motion} {mode : Mode} (h : MayServe s m)
    (serves : ∀ w, Serves w s.sequencer.mode → Serves w mode) (queue : List QueueEntry) :
    MayServe (s.withSequencer { s.sequencer with mode := mode, queue := queue }) m := by
  cases m with
  | walk => exact ⟨serves .walk h.1, h.2⟩
  | _ => exact ⟨serves .dig h.1, h.2⟩

theorem MayServe.serves {s : State} {m : Motion} (h : MayServe s m) :
    ∃ w, Serves w s.sequencer.mode ∧ (sourceMotions w).get m = true := by
  cases m with
  | walk => exact ⟨.walk, h.1, rfl⟩
  | _ => exact ⟨.dig, h.1, rfl⟩

theorem MayServe.not_pending {s : State} {m : Motion} (h : MayServe s m) : s.sequencer.record.order ≠ .pending := by
  cases m with
  | swing => exact h.2.2
  | walk => exact h.2.2.2.2
  | _ => exact h.2.2.2

theorem EntryMoves.serves {a b : Mode} (h : EntryMoves a b) (w : Working) (serves : Serves w a) : Serves w b := by
  cases h with
  | toDig => cases w <;> simp [Serves, Working.settled, Settled.mode] at serves
  | toWalk => cases w <;> simp [Serves, Working.settled, Settled.mode] at serves
  | stopDig d => cases w <;> simp_all [Serves, Working.settled, Settled.mode]
  | stopWalk d => cases w <;> simp_all [Serves, Working.settled, Settled.mode]

theorem modeAfterTrip_serves (mode : Mode) (w : Working) (serves : Serves w mode) : Serves w (modeAfterTrip mode) := by
  cases w <;> rcases serves with rfl | ⟨d, rfl⟩ <;> exact .inr ⟨_, rfl⟩

/-- Every output is 0 in a mode no motion serves in, and where every brake of the mode left is SET. -/
def Still (s : State) : Prop := ∀ m, (s.shaper.motions.get m).output = 0

theorem OutputLaw.still {s : State} (h : OutputLaw s)
    (none : ∀ m, MayServe s m → (s.gate.brakes.get m).state ≠ .released) : Still s := by
  intro m
  by_contra moving
  obtain ⟨service, -, released⟩ := h m moving
  exact none m service released

theorem OutputLaw.still_of_stands {s : State} (h : OutputLaw s) (stands : StopStands s) : Still s := by
  obtain ⟨source, d, mode, set⟩ := stands
  refine h.still fun m service released => ?_
  obtain ⟨w, serves, named⟩ := service.serves
  have : w = source := by cases w <;> cases source <;> simp_all [Serves, Working.settled, Settled.mode]
  rw [set m (this ▸ named)] at released
  cases released

theorem OutputLaw.still_of_parked {s : State} (h : OutputLaw s) (parked : s.sequencer.mode = .parked) : Still s := by
  refine h.still fun m service _ => ?_
  obtain ⟨w, serves, -⟩ := service.serves
  cases w <;> simp [Serves, Working.settled, Settled.mode, parked] at serves

theorem OutputLaw.still_of_pending {s : State} (h : OutputLaw s) (pending : s.sequencer.record.order = .pending) :
    Still s := h.still fun _ service _ => service.not_pending pending

theorem outputLaw_of_still {s : State} (h : Still s) : OutputLaw s := fun m moving => absurd (h m) moving

/-- Nothing the sequencer does sets a motion going. -/
theorem OnlySequencer.still {s t : State} (only : OnlySequencer s t) (h : Still s) : Still t := by
  intro m
  rcases only.output m with same | ⟨zero, -⟩
  · exact same.trans (h m)
  · exact zero

/-- The law where motions and brakes stand and none is taken out of service. -/
theorem OutputLaw.serving {s t : State} (h : OutputLaw s) (motions : t.shaper.motions = s.shaper.motions)
    (gate : t.gate = s.gate) (serves : ∀ m, MayServe s m → MayServe t m) : OutputLaw t := by
  intro m
  rw [motions, gate]
  exact fun moving => (h m moving).imp_left (serves m)

theorem OnlyReports.outputLaw {s t : State} (only : OnlyReports s t) (h : OutputLaw s) : OutputLaw t := by
  intro m moving
  have sequencer : t.sequencer = s.sequencer := by
    rcases only.sequencer with same | ⟨-, stopped⟩
    · exact same
    · rw [stopped m] at moving
      exact absurd rfl moving
  rcases only.motion m with ⟨motion, brake⟩ | ⟨stopped, -⟩
  · rw [motion, brake, mayServe_congr sequencer only.readiness]
    exact h m (motion ▸ moving)
  · rw [stopped] at moving
    exact absurd rfl moving

theorem Turn.outputLaw (s t : State) (h : OutputLaw s) (turn : Turn s t) : OutputLaw t := by
  cases turn with
  | reports only => exact only.outputLaw h
  | redirected _ => exact h.serving rfl rfl fun _ service => service.withMode (modeAfterTrip_serves _) []
  | moved moves _ => exact h.serving rfl rfl fun _ service => service.withMode moves.serves _
  | stopped _ stands => exact outputLaw_of_still (h.still_of_stands stands)
  | issued kind ready =>
    refine outputLaw_of_still ((issueOrder_onlySequencer kind s).still ?_)
    rcases ready with ⟨parked, -⟩ | stands
    · exact h.still_of_parked parked
    · exact h.still_of_stands stands
  | done pending => exact outputLaw_of_still ((orderDone_onlySequencer s).still (h.still_of_pending pending))
  | failed e pending => exact outputLaw_of_still ((orderFailed_onlySequencer e s).still (h.still_of_pending pending))
  | _ => exact h.serving rfl rfl fun _ service => service.withMode (fun _ serves => serves) _

/-! ### The period (R89) -/

/-- A motion forms an output only in service, with its permit, and with its brake RELEASED. -/
theorem formMotion_moving {s : State} {m : Motion} (h : OutputLaw s) (moving : (formMotion s m).output ≠ 0) :
    MayServe s m ∧ (s.shaper.motions.get m).permit = true ∧ (s.gate.brakes.get m).state = .released := by
  obtain ⟨released, braked⟩ := formMotion_output s m
  have brake : (s.gate.brakes.get m).state = .released := by
    by_contra h
    exact moving (braked h)
  by_cases before : (s.shaper.motions.get m).output = 0
  · have within := (released brake).within
    have target : (formMotion s m).target ≠ 0 := by
      intro zero
      rw [zero, before] at within
      simp at within
      exact moving within
    have stage := (formMotion_target s m).1.resolve_right target
    have asked : effectiveRequest s m ≠ 0 := fun zero => target (stage.trans (by simp [stageTarget, cappedTarget, zero]))
    obtain ⟨⟨service, permit, -⟩, -⟩ := effectiveRequest_cases asked
    exact ⟨service, permit, brake⟩
  · exact h m before

/-- A RELEASED brake stays so while its motion moves: its idle count is 0, and no idle-set time is (R105). -/
theorem notifyBrake_stays_released {x : BrakeInput} {b : BrakeRecord} (released : b.state = .released)
    (moving : x.notice.output ≠ 0) (idleSet : 1 ≤ x.idleSet) : (notifyBrake x b).brake.state = .released := by
  obtain ⟨state, count, idle, remembered, feedback, fail, filtering⟩ := b
  cases released
  have busy : x.notice.idle = false := by simp [Notice.idle, moving]
  have none : ¬x.idleSet ≤ 0 := by omega
  have counts : stepCounts x.notice ⟨.released, count, idle, remembered, feedback, fail, filtering⟩ =
      ⟨.released, count, 0, remembered, feedback, fail, filtering⟩ := by simp [stepCounts, busy]
  have tested : testBrake x ⟨.released, count, 0, remembered, feedback, fail, filtering⟩ =
      ⟨⟨.released, count, 0, remembered, feedback, fail, filtering⟩, false⟩ := by
    simp [testBrake, testReleased, busy, none]
  rw [notifyBrake, counts, tested]
  simp only [failEnds, actOnRelease]
  split <;> simp

theorem effectiveProfile_idleSet {p : Profiles} (common : ProfileInRange p.common) (a : PartialInRange p.a)
    (b : PartialInRange p.b) (n : ProfileName) : 1 ≤ (effectiveProfile p n).idleSet := by
  have overlaid {x : PartialProfile} (h : PartialInRange x) : 1 ≤ (overCommon x p.common).idleSet := by
    obtain ⟨-, -, -, -, -, -, idleSet⟩ := h
    obtain ⟨-, -, -, -, -, -, commonIdle⟩ := common
    cases value : x.idleSet with
    | none => simpa [overCommon, value] using commonIdle.1
    | some k => simpa [overCommon, value] using (idleSet k value).1
  cases n with
  | common => exact common.2.2.2.2.2.2.1
  | a => exact overlaid a
  | b => exact overlaid b

theorem periodBlocks_outputLaw {s : State} (profiles : ProfileLaw s) (h : OutputLaw s) : OutputLaw (periodBlocks s) := by
  intro m moving
  rw [(periodBlocks_motion s m).1] at moving
  have formed : (formMotion s m).output ≠ 0 := fun zero => by
    have smaller := (sharePeriod_bounds s m).1
    rw [zero] at smaller
    simp at smaller
    exact moving smaller
  obtain ⟨service, permit, released⟩ := formMotion_moving h formed
  refine ⟨service, ?_, ?_⟩
  · rw [(periodBlocks_formed s).motion m]
    exact permit
  · rw [periodBlocks_brake]
    obtain ⟨common, a, b, -⟩ := profiles
    refine notifyBrake_stays_released released ?_ (effectiveProfile_idleSet common a b _)
    simpa [brakeInput, periodNotices_get] using moving

/-! ### What else an effect forms -/

theorem feedbackBase_outputLaw (m : Motion) {s : State} (h : OutputLaw s) : OutputLaw (feedbackBase m s) := by
  have taken {b : BrakeRecord} (state : b.state = (s.gate.brakes.get m).state) : OutputLaw (s.withBrake m b) := by
    intro n moving
    obtain ⟨service, permit, released⟩ := h n moving
    refine ⟨service, permit, ?_⟩
    simp only [State.withBrake, State.withGate_gate, PerMotion.get_set]
    split
    · next same => rw [state, ← same]; exact released
    · exact released
  unfold feedbackBase
  split
  · exact taken rfl
  · split
    · intro n moving
      rw [zeroMotions_motion] at moving ⊢
      have other : n ≠ m := by
        rintro rfl
        simp [onlyMotion, MotionRecord.zeroed] at moving
      have kept : (onlyMotion m).get n = false := by simp [onlyMotion, other]
      simp only [kept] at moving ⊢
      obtain ⟨service, permit, released⟩ := h n moving
      refine ⟨(mayServe_congr ?_ ?_ n).2 service, permit, ?_⟩
      · rw [zeroMotions_keeps]; rfl
      · rw [zeroMotions_keeps]; rfl
      · rw [zeroMotions_gate]
        simp only [State.withBrake, State.withGate_gate, PerMotion.get_set_ne _ _ other]
        exact released
    · exact taken rfl

theorem formedReadiness_outputLaw (r : PerGroup Readiness) {s : State} (h : OutputLaw s) :
    OutputLaw (formedReadiness r s) := by
  intro m moving
  have formed := formedReadiness_formed s r
  by_cases lost : LosesService s r m
  · rw [(formed.lost m lost).1] at moving
    exact absurd rfl moving
  · obtain ⟨motion, brake⟩ := formed.kept m lost
    rw [motion] at moving ⊢
    rw [brake]
    obtain ⟨service, permit, released⟩ := h m moving
    refine ⟨?_, permit, released⟩
    have stays : MayServe { s with shaper := { s.shaper with readiness := r } } m := by
      by_contra left
      exact lost ⟨moving, service, left⟩
    refine (mayServe_congr ?_ ?_ m).2 stays
    · rw [formedReadiness_keeps]; rfl
    · rw [formedReadiness_keeps]; rfl

/-- A written record leaves the brakes, and takes no motion out of service. -/
theorem appliedBase_serves (w : RecordWrite) (s : State) :
    (appliedBase w s).gate.brakes = s.gate.brakes ∧ ∀ m, MayServe s m → MayServe (appliedBase w s) m := by
  cases w with
  | calEncoder e cal zeroing => cases zeroing <;> exact ⟨rfl, fun m h => (mayServe_congr rfl rfl m).2 h⟩
  | sequencer timeout => exact ⟨rfl, fun m h => by cases m <;> exact h⟩
  | _ => exact ⟨rfl, fun m h => (mayServe_congr rfl rfl m).2 h⟩

theorem Base.outputLaw {s b : State} (profiles : ProfileLaw s) (h : OutputLaw s) (base : Base s b) : OutputLaw b := by
  cases base with
  | period => exact periodBlocks_outputLaw profiles h
  | inputEdge m =>
    intro n moving
    obtain ⟨service, permit, released⟩ := h n moving
    refine ⟨service, permit, ?_⟩
    simp only [feedbackEdge, State.withBrake, State.withGate_gate, PerMotion.get_set]
    split
    · next same => exact same ▸ released
    · exact released
  | feedback m => exact feedbackBase_outputLaw m h
  | hold _ =>
    intro m moving
    simp only [staleBase, State.withShaper_shaper, PerMotion.get_map] at moving ⊢
    exact h m moving
  | @written w _ =>
    intro m moving
    obtain ⟨motions, -⟩ := appliedBase_outputs w ((s.withMemory (s.memory.write w)).withStore .idle)
    rw [(motions m).1] at moving
    rw [(motions m).2]
    obtain ⟨service, permit, released⟩ := h m moving
    obtain ⟨brakes, serves⟩ := appliedBase_serves w ((s.withMemory (s.memory.write w)).withStore .idle)
    exact ⟨serves m service, permit, brakes ▸ released⟩
  | fresh mark refs =>
    intro m moving
    simp only [freshStored, State.withShaper_shaper, PerMotion.get_map, storeRequest] at moving ⊢
    obtain ⟨service, permit, released⟩ := h m moving
    exact ⟨service, by simp [permit], released⟩
  | readiness r => exact formedReadiness_outputLaw r h
  | listRead p => cases p <;> exact h
  | restarted _ _ =>
    refine outputLaw_of_still fun m => ?_
    simp [restartBase, noteListChange, restartShaper, restartMotion]
  | _ => exact h

theorem step_outputLaw {s t : State} (hstep : step s = .next t) (profiles : ProfileLaw s) (h : OutputLaw s) :
    OutputLaw t := by
  have settled (s : State) (l : PerPort PortLink) (h : OutputLaw s) : OutputLaw (settle (s.withLinks l)) := by
    intro m
    rw [settle_motion]
    exact h m
  refine step_establishes (P := fun s => ProfileLaw s ∧ OutputLaw s) (fun _ _ h => h) (fun _ h => h.2) settled
    (fun _ _ h => h) (fun s p _ => ?_) (fun s _ => ?_)
    (fun s t h effect => effect.establishes (P := fun s => ProfileLaw s ∧ OutputLaw s)
      (fun _ _ h base => base.outputLaw h.1 h.2) Turn.outputLaw h) ⟨profiles, h⟩ hstep
  · refine outputLaw_of_still fun m => ?_
    cases m <;> rfl
  · have loaded : OutputLaw (loadedBlocks s) :=
      outputLaw_of_still fun m => congrArg MotionRecord.output (PerMotion.get_map _ _ m)
    exact settled _ (release s).ports.links ((release_reports s).outputLaw loaded)

/-- Settles O58: the output law from the profiles in range and itself, the law of publication by itself. -/
theorem outputAndPublishedLawsAreKept : Obligations.OutputAndPublishedLawsAreKept := by
  unfold Obligations.OutputAndPublishedLawsAreKept
  refine ⟨fun s t safe hstep => ?_, fun s t published hstep => step_publishedLaw hstep published⟩
  obtain ⟨-, -, -, profiles, output, -⟩ := safe
  exact step_outputLaw hstep profiles output

end Sys2Proof.Machine
end

section
/-! The laws of the alarm list and of the run permits: what each report makes of a list that keeps its laws (R147 to
R152), that the restraining pairs of the code table leave a full list an entry to evict, and that every step keeps the
list's laws and the permits clear of what trips (R155, R158). -/

namespace Sys2Proof.Machine

/-! ### The list alone -/

/-- An entry's code and source, by which the list holds it once (R148). -/
def AlarmEntry.key (e : AlarmEntry) : AlarmCode × Source := (e.code, e.source)

/-- The list's laws: entries of the code table with its class, each code and source once, at most 32. -/
structure ListKept (l : List AlarmEntry) : Prop where
  entries : ∀ e ∈ l, inCodeTable e.code e.source = true ∧ e.cls = alarmClass e.code e.source
  distinct : (l.map AlarmEntry.key).Nodup
  room : l.length ≤ 32

theorem listKept_nil : ListKept [] := ⟨fun _ he => (nomatch he), List.nodup_nil, Nat.zero_le _⟩

/-- A list whose entries each stand for one of another, in its order, keeps the laws that one does. -/
theorem ListKept.refine {l l' : List AlarmEntry} (h : ListKept l)
    (keys : List.Sublist (l'.map AlarmEntry.key) (l.map AlarmEntry.key))
    (from' : ∀ e' ∈ l', ∃ e ∈ l, e'.key = e.key ∧ e'.cls = e.cls) : ListKept l' := by
  refine ⟨fun e' he' => ?_, h.distinct.sublist keys, ?_⟩
  · obtain ⟨e, he, key, cls⟩ := from' e' he'
    obtain ⟨code, source⟩ := Prod.mk.inj key
    rw [code, source, cls]
    exact h.entries e he
  · have length := keys.length_le
    rw [List.length_map, List.length_map] at length
    exact length.trans h.room

/-- Entries changed but for code, source and class. -/
theorem ListKept.map {l : List AlarmEntry} (h : ListKept l) {f : AlarmEntry → AlarmEntry}
    (keeps : ∀ e, (f e).key = e.key ∧ (f e).cls = e.cls) : ListKept (l.map f) := by
  refine h.refine ?_ fun e' he' => ?_
  · rw [List.map_map, show AlarmEntry.key ∘ f = AlarmEntry.key from funext fun e => (keeps e).1]
  · obtain ⟨e, he, rfl⟩ := List.mem_map.1 he'
    exact ⟨e, he, keeps e⟩

theorem ListKept.sublist {l l' : List AlarmEntry} (h : ListKept l) (sub : List.Sublist l' l) : ListKept l' :=
  h.refine (sub.map _) fun e he => ⟨e, sub.subset he, rfl, rfl⟩

theorem ListKept.changeEntry {l : List AlarmEntry} (h : ListKept l) (c : AlarmCode) (src : Source)
    {f : AlarmEntry → AlarmEntry} (keeps : ∀ e, (f e).key = e.key ∧ (f e).cls = e.cls) :
    ListKept (changeEntry l c src f) :=
  h.map fun e => by
    split
    · exact keeps e
    · exact ⟨rfl, rfl⟩

/-- A new entry of a code and source not in the list, where there is room. -/
theorem ListKept.append {l : List AlarmEntry} (h : ListKept l) {n : AlarmEntry} (table : inCodeTable n.code n.source = true)
    (cls : n.cls = alarmClass n.code n.source) (absent : ∀ e ∈ l, e.code = n.code → e.source ≠ n.source)
    (room : l.length < 32) : ListKept (l ++ [n]) := by
  refine ⟨fun e he => ?_, ?_, by simpa using room⟩
  · rcases List.mem_append.1 he with old | new
    · exact h.entries e old
    · rw [List.mem_singleton.1 new]
      exact ⟨table, cls⟩
  · rw [List.map_append, List.map_cons, List.map_nil, List.nodup_append]
    refine ⟨h.distinct, List.nodup_singleton _, fun key hkey key' hkey' same => ?_⟩
    obtain ⟨e, he, rfl⟩ := List.mem_map.1 hkey
    rw [List.mem_singleton.1 hkey'] at same
    obtain ⟨code, source⟩ := Prod.mk.inj same
    exact absent e he code source

/-! ### Room for what restrains (R152) -/

/-- The code and source pairs of class TRIP, HOLD and LIMIT. -/
def restrainingPairs : List (AlarmCode × Source) :=
  [(.overcurrent, .group .hg), (.overcurrent, .group .dg), (.overcurrent, .group .sg), (.driveFault, .group .hg),
    (.driveFault, .group .dg), (.driveFault, .group .sg), (.brakeFail, .motion .hoist), (.brakeFail, .motion .drag),
    (.brakeFail, .motion .swing), (.brakeFail, .motion .walk), (.supplyLost, .supply), (.stopAll, .portA),
    (.stopAll, .portC), (.transferFail, .sequencer), (.operatorStale, .portA), (.channelFault, .encoder .camLeft),
    (.channelFault, .encoder .camRight), (.channelFault, .analog .hgCurrent), (.channelFault, .analog .dgCurrent),
    (.channelFault, .analog .sgCurrent), (.skew, .motion .walk), (.envelopeInvalid, .envelope), (.intrusion, .envelope)]

theorem mem_alarmCode_listed (c : AlarmCode) : c ∈ AlarmCode.listed := by cases c <;> decide

theorem mem_source_listed (src : Source) : src ∈ Source.listed := by
  cases src with
  | motion m => cases m <;> decide
  | group g => cases g <;> decide
  | encoder e => cases e <;> decide
  | analog a => cases a <;> decide
  | _ => decide

theorem mem_restrainingPairs {c : AlarmCode} {src : Source} (table : inCodeTable c src = true)
    (restrains : alarmClass c src ≠ .warn) : (c, src) ∈ restrainingPairs := by
  have listed : ∀ c ∈ AlarmCode.listed, ∀ src ∈ Source.listed,
      inCodeTable c src = true → alarmClass c src ≠ .warn → (c, src) ∈ restrainingPairs := by decide
  exact listed c (mem_alarmCode_listed c) src (mem_source_listed src) table restrains

/-- A full list holds a WARN entry: the restraining pairs are fewer than its places. -/
theorem ListKept.exists_warn {l : List AlarmEntry} (h : ListKept l) (full : ¬l.length < 32) : ∃ e ∈ l, e.cls = .warn := by
  by_contra none
  have sub : l.map AlarmEntry.key ⊆ restrainingPairs := by
    intro key hkey
    obtain ⟨e, he, rfl⟩ := List.mem_map.1 hkey
    obtain ⟨table, cls⟩ := h.entries e he
    exact mem_restrainingPairs table fun warn => none ⟨e, he, cls.trans warn⟩
  have fewer := (List.subperm_of_subset h.distinct sub).length_le
  rw [List.length_map] at fewer
  exact full (fewer.trans_lt (by decide))

/-- The eviction of the oldest WARN entry makes room. -/
theorem ListKept.evictWarn_room {l : List AlarmEntry} (h : ListKept l) (full : ¬l.length < 32) :
    (evictWarn l).length < 32 := by
  obtain ⟨e, he, warn⟩ := h.exists_warn full
  have length : (evictWarn l).length = l.length - 1 := List.length_eraseP_of_mem he (by simpa using warn)
  have := h.room
  omega

/-! ### The unit -/

/-- The flags and the horn are those the list gives (R81, R158). -/
def Alarms.FlagsFormed (a : Alarms) : Prop :=
  a.hold = PerMotion.of (classFlag .hold a.list) ∧ a.limit = PerMotion.of (classFlag .limit a.list) ∧
  a.horn = hornSounds a.list

/-- The unit keeps its laws. -/
structure Alarms.Lawful (a : Alarms) : Prop where
  list : ListKept a.list
  flags : a.FlagsFormed
  lost : LostLaw a

theorem alarmListLaw_iff (s : State) : AlarmListLaw s ↔ s.alarms.Lawful := by
  have flag (c : AlarmClass) (x : PerMotion Bool) :
      (∀ m, x.get m = true ↔ ∃ e ∈ s.alarms.list, e.cls = c ∧ e.state ≠ .clearedUnack ∧ e.affected.get m = true) ↔
        x = PerMotion.of (classFlag c s.alarms.list) := by
    simp only [← classFlag_iff]
    refine ⟨fun h => PerMotion.ext_get fun m => ?_, fun h m => ?_⟩
    · rw [PerMotion.get_of]
      exact Bool.eq_iff_iff.2 (h m)
    · rw [h, PerMotion.get_of]
  have horn : (s.alarms.horn = true ↔ ∃ e ∈ s.alarms.list, e.cls ≠ .warn ∧ e.state ≠ .activeAck) ↔
      s.alarms.horn = hornSounds s.alarms.list :=
    (Bool.eq_iff_iff.trans (iff_congr Iff.rfl (hornSounds_iff _))).symm
  unfold AlarmListLaw
  rw [flag, flag, horn]
  constructor
  · rintro ⟨entries, distinct, room, hold, limit, horn, lost⟩
    exact ⟨⟨entries, distinct, room⟩, ⟨hold, limit, horn⟩, lost⟩
  · rintro ⟨⟨entries, distinct, room⟩, ⟨hold, limit, horn⟩, lost⟩
    exact ⟨entries, distinct, room, hold, limit, horn, lost⟩

theorem Alarms.withList_flags (a : Alarms) (l : List AlarmEntry) : (a.withList l).FlagsFormed := ⟨rfl, rfl, rfl⟩

/-- Whether a report is of a pair of the code table. -/
def Report.InTable : Report → Prop
  | .raise c src _ => inCodeTable c src = true
  | .momentary c src _ => inCodeTable c src = true
  | .gone _ _ => True

theorem appendEntry_kept {a : Alarms} (h : a.Lawful) {n : AlarmEntry} (table : inCodeTable n.code n.source = true)
    (cls : n.cls = alarmClass n.code n.source) (absent : ∀ e ∈ a.list, e.code = n.code → e.source ≠ n.source) :
    ListKept (appendEntry a n).unit.list ∧ (appendEntry a n).unit.FlagsFormed := by
  unfold appendEntry
  split
  · next room => exact ⟨h.list.append table cls absent room, Alarms.withList_flags _ _⟩
  · next full =>
    split
    · exact ⟨h.list, h.flags⟩
    · exact ⟨(h.list.sublist List.eraseP_sublist).append table cls
        (fun e he => absent e (List.mem_of_mem_eraseP he)) (h.list.evictWarn_room full), Alarms.withList_flags _ _⟩

/-- Every report of a pair of the code table keeps the unit's laws. -/
theorem unitAfter_lawful (arr : Arrangement) {a : Alarms} (h : a.Lawful) {r : Report} (table : r.InTable) :
    (unitAfter arr a r).Lawful := by
  have lost := unitAfter_lostLaw arr (fun e he => (h.list.entries e he).2) h.list.distinct h.lost r
  have changed (c : AlarmCode) (src : Source) {f : AlarmEntry → AlarmEntry}
      (keeps : ∀ e, (f e).key = e.key ∧ (f e).cls = e.cls) :
      ListKept (a.withList (changeEntry a.list c src f)).list ∧ (a.withList (changeEntry a.list c src f)).FlagsFormed :=
    ⟨h.list.changeEntry c src keeps, Alarms.withList_flags _ _⟩
  have kept : ListKept (unitAfter arr a r).list ∧ (unitAfter arr a r).FlagsFormed := by
    cases r with
    | raise c src d =>
      simp only [unitAfter, raiseHeld]
      split
      · next absent =>
        split
        · exact ⟨h.list, h.flags⟩
        · exact appendEntry_kept h table rfl ((findEntry_eq_none _ _ _).1 absent)
      · split
        · exact changed c src fun e => ⟨rfl, rfl⟩
        · split
          · exact ⟨h.list, h.flags⟩
          · exact changed c src fun e => ⟨rfl, rfl⟩
    | momentary c src d =>
      simp only [unitAfter, raiseMomentary]
      split
      · next absent => exact appendEntry_kept h table rfl ((findEntry_eq_none _ _ _).1 absent)
      · exact changed c src fun e => ⟨rfl, rfl⟩
    | gone c src =>
      simp only [unitAfter, conditionGone]
      split
      · exact ⟨h.list, h.flags⟩
      · split
        · exact changed c src fun e => ⟨rfl, rfl⟩
        · exact ⟨h.list.sublist List.filter_sublist, Alarms.withList_flags _ _⟩
        · exact ⟨h.list, h.flags⟩
  exact ⟨kept.1, kept.2, lost⟩

/-! ### What a report trips (R149, R151, R155) -/

/-- A TRIP entry after a raise stood before it with the motions it affects, or is the one raised and handed on. -/
def TripsRaised (a : Alarms) (arr : Arrangement) (c : AlarmCode) (src : Source) (r : Reported) : Prop :=
  ∀ e ∈ r.unit.list, e.cls = .trip →
    (∃ x ∈ a.list, x.cls = .trip ∧ x.affected = e.affected) ∨
    (r.applied = true ∧ alarmClass c src = .trip ∧ e.affected = affectedMotions arr c src)

theorem tripsRaised_same {a u : Alarms} {arr : Arrangement} {c : AlarmCode} {src : Source} {changed applied : Bool}
    (same : u.list = a.list) : TripsRaised a arr c src ⟨u, changed, applied⟩ := fun e he trip =>
  .inl ⟨e, (show u.list = a.list from same) ▸ he, trip, rfl⟩

theorem appendEntry_trips (a : Alarms) (arr : Arrangement) (c : AlarmCode) (src : Source) (d : Option Detail)
    (st : AlarmState) : TripsRaised a arr c src (appendEntry a (newEntry a arr c src d st)) := by
  have behind {l : List AlarmEntry} {u : Alarms} (list : u.list = l ++ [newEntry a arr c src d st]) (sub : l ⊆ a.list) :
      TripsRaised a arr c src ⟨u, true, true⟩ := by
    intro e he trip
    rw [list] at he
    rcases List.mem_append.1 he with old | new
    · exact .inl ⟨e, sub old, trip, rfl⟩
    · rw [List.mem_singleton.1 new] at trip ⊢
      exact .inr ⟨rfl, trip, rfl⟩
  unfold appendEntry
  split
  · exact behind rfl fun _ h => h
  · split
    · exact tripsRaised_same rfl
    · exact behind rfl fun _ h => List.mem_of_mem_eraseP h

theorem changeEntry_trips {a : Alarms} {arr : Arrangement} {c : AlarmCode} {src : Source} (changed : Bool)
    {f : AlarmEntry → AlarmEntry} (keeps : ∀ e, (f e).cls = e.cls ∧ (f e).affected = e.affected) (applied : Bool) :
    TripsRaised a arr c src ⟨a.withList (changeEntry a.list c src f), changed, applied⟩ := by
  intro e he trip
  obtain ⟨x, hx, rfl⟩ := List.mem_map.1 he
  refine .inl ⟨x, hx, ?_⟩
  split at trip
  · next named =>
    rw [if_pos named]
    exact ⟨(keeps x).1 ▸ trip, (keeps x).2.symm⟩
  · next other =>
    rw [if_neg other]
    exact ⟨trip, rfl⟩

theorem reRaise_trips {a : Alarms} (h : ListKept a.list) (arr : Arrangement) (c : AlarmCode) (src : Source)
    (d : Option Detail) (st : AlarmState) :
    TripsRaised a arr c src ⟨a.withList (changeEntry a.list c src (reRaise a arr d st)), true, true⟩ := by
  intro e he trip
  obtain ⟨x, hx, rfl⟩ := List.mem_map.1 he
  split at trip
  · next named =>
    rw [if_pos named]
    have key : x.code = c ∧ x.source = src := by simpa [AlarmEntry.isFor] using named
    obtain ⟨rfl, rfl⟩ := key
    exact .inr ⟨rfl, (h.entries x hx).2.symm.trans trip, rfl⟩
  · next other =>
    rw [if_neg other]
    exact .inl ⟨x, hx, trip, rfl⟩

theorem raiseHeld_trips {a : Alarms} (h : ListKept a.list) (arr : Arrangement) (c : AlarmCode) (src : Source)
    (d : Option Detail) : TripsRaised a arr c src (raiseHeld a arr c src d) := by
  unfold raiseHeld
  split
  · split
    · exact tripsRaised_same rfl
    · exact appendEntry_trips a arr c src d _
  · split
    · exact reRaise_trips h arr c src d _
    · split
      · exact tripsRaised_same rfl
      · refine changeEntry_trips true (fun e => ?_) false
        exact ⟨rfl, rfl⟩

theorem raiseMomentary_trips {a : Alarms} (h : ListKept a.list) (arr : Arrangement) (c : AlarmCode) (src : Source)
    (d : Option Detail) : TripsRaised a arr c src (raiseMomentary a arr c src d) := by
  unfold raiseMomentary
  split
  · exact appendEntry_trips a arr c src d _
  · exact reRaise_trips h arr c src d _

theorem conditionGone_trips (a : Alarms) (c : AlarmCode) (src : Source) :
    ∀ e ∈ (conditionGone a c src).unit.list, e.cls = .trip → ∃ x ∈ a.list, x.cls = .trip ∧ x.affected = e.affected := by
  intro e he trip
  unfold conditionGone at he
  split at he
  · exact ⟨e, he, trip, rfl⟩
  · split at he
    · obtain ⟨x, hx, rfl⟩ := List.mem_map.1 he
      refine ⟨x, hx, ?_⟩
      split at trip
      · next named => rw [if_pos named]; exact ⟨trip, rfl⟩
      · next other => rw [if_neg other]; exact ⟨trip, rfl⟩
    · exact ⟨e, List.mem_of_mem_filter he, trip, rfl⟩
    · exact ⟨e, he, trip, rfl⟩

/-! ### The list and the permits together -/

/-- The unit's laws, and every permit clear of what trips its motion. -/
def Guarded (s : State) : Prop := s.alarms.Lawful ∧ PermitLaw s

theorem guarded_iff (s : State) : Guarded s ↔ AlarmListLaw s ∧ PermitLaw s := and_congr_left' (alarmListLaw_iff s).symm

/-- The list, its flags and its record of what is present without an entry: what the laws read of the unit. -/
def SameUnit (a b : Alarms) : Prop :=
  b.list = a.list ∧ b.hold = a.hold ∧ b.limit = a.limit ∧ b.horn = a.horn ∧ b.lost = a.lost

theorem SameUnit.refl (a : Alarms) : SameUnit a a := ⟨rfl, rfl, rfl, rfl, rfl⟩

theorem SameUnit.lawful {a b : Alarms} (same : SameUnit a b) (h : a.Lawful) : b.Lawful := by
  obtain ⟨list, hold, limit, horn, lost⟩ := same
  refine ⟨list ▸ h.list, ?_, ?_⟩
  · rw [Alarms.FlagsFormed, hold, limit, horn, list]
    exact h.flags
  · rw [LostLaw, list, lost]
    exact h.lost

/-- The laws read the unit and the permits, and a permit cleared breaks none. -/
theorem Guarded.congr {s t : State} (h : Guarded s) (unit : SameUnit s.alarms t.alarms)
    (permits : ∀ m, (t.shaper.motions.get m).permit = true → (s.shaper.motions.get m).permit = true) : Guarded t := by
  refine ⟨unit.lawful h.1, fun m tripped => ?_⟩
  by_contra set
  have tripped : Tripped s m := by
    obtain ⟨e, he, trips⟩ := tripped
    exact ⟨e, unit.1 ▸ he, trips⟩
  exact Bool.false_ne_true ((h.2 m tripped).symm.trans (permits m (Bool.not_eq_false _ ▸ set)))

theorem tripEffects_permit (ms : PerMotion Bool) (s : State) (m : Motion) :
    ((tripEffects ms s).shaper.motions.get m).permit = ((s.shaper.motions.get m).permit && !ms.get m) := by
  cases any : ms.any with
  | false =>
    have none : ms.get m = false := by
      by_contra h
      exact Bool.false_ne_true (any.symm.trans ((PerMotion.any_iff ms).2 ⟨m, Bool.not_eq_false _ ▸ h⟩))
    simp [tripEffects_none any, none]
  | true =>
    rw [tripEffects_eq any]
    simp only [PerMotion.get_map]
    cases ms.get m <;> simp [MotionRecord.stopped]

/-- A raise taken: the unit's new list, and the permits of what it trips cleared. -/
theorem raised_guarded {s : State} (h : Guarded s) {c : AlarmCode} {src : Source} {r : Reported}
    (lawful : r.unit.Lawful) (trips : TripsRaised s.alarms s.sequencer.record.arrangement c src r) :
    Guarded (applyClass r c src (takeReport r s)) := by
  have unit : (applyClass r c src (takeReport r s)).alarms = r.unit := by rw [applyClass_alarms, takeReport_alarms]
  have permit (m : Motion) : ((applyClass r c src (takeReport r s)).shaper.motions.get m).permit =
      ((s.shaper.motions.get m).permit && !(r.applied && alarmClass c src == .trip &&
        (affectedMotions s.sequencer.record.arrangement c src).get m)) := by
    unfold applyClass
    cases applies : r.applied && alarmClass c src == .trip with
    | false => simp [takeReport_shaper]
    | true => simp [tripEffects_permit, takeReport_shaper, takeReport_sequencer]
  refine ⟨unit ▸ lawful, fun m tripped => ?_⟩
  obtain ⟨e, he, trip, affects⟩ := tripped
  rw [permit]
  rcases trips e (unit ▸ he) trip with ⟨x, hx, old, same⟩ | ⟨applied, cls, affected⟩
  · rw [h.2 m ⟨x, hx, old, same ▸ affects⟩]
    rfl
  · rw [affected] at affects
    simp [applied, cls, affects]

theorem reportRaise_guarded {s : State} (h : Guarded s) {c : AlarmCode} {src : Source} (d : Option Detail)
    (table : inCodeTable c src = true) : Guarded (reportRaise c src d s) :=
  raised_guarded h (unitAfter_lawful _ h.1 (r := .raise c src d) table) (raiseHeld_trips h.1.list _ c src d)

theorem reportMomentary_guarded {s : State} (h : Guarded s) {c : AlarmCode} {src : Source} (d : Option Detail)
    (table : inCodeTable c src = true) : Guarded (reportMomentary c src d s) :=
  raised_guarded h (unitAfter_lawful _ h.1 (r := .momentary c src d) table) (raiseMomentary_trips h.1.list _ c src d)

/-- A list taken whose TRIP entries stood before. -/
theorem takeReport_guarded {s : State} (h : Guarded s) {r : Reported} (lawful : r.unit.Lawful)
    (trips : ∀ e ∈ r.unit.list, e.cls = .trip → ∃ x ∈ s.alarms.list, x.cls = .trip ∧ x.affected = e.affected) :
    Guarded (takeReport r s) := by
  refine ⟨takeReport_alarms r s ▸ lawful, fun m tripped => ?_⟩
  obtain ⟨e, he, trip, affects⟩ := tripped
  obtain ⟨x, hx, old, same⟩ := trips e (takeReport_alarms r s ▸ he) trip
  rw [takeReport_shaper]
  exact h.2 m ⟨x, hx, old, same ▸ affects⟩

theorem reportGone_guarded {s : State} (h : Guarded s) (c : AlarmCode) (src : Source) : Guarded (reportGone c src s) :=
  takeReport_guarded h (unitAfter_lawful .uncertain h.1 (r := .gone c src) trivial) (conditionGone_trips s.alarms c src)

theorem takeReports_guarded {s : State} (h : Guarded s) {reports : List Report} (table : ∀ r ∈ reports, r.InTable) :
    Guarded (takeReports reports s) := by
  induction reports generalizing s with
  | nil => exact h
  | cons r rest ih =>
    refine ih ?_ fun x hx => table x (List.mem_cons_of_mem r hx)
    have table := table r List.mem_cons_self
    cases r with
    | raise c src d => exact reportRaise_guarded h d table
    | momentary c src d => exact reportMomentary_guarded h d table
    | gone c src => exact reportGone_guarded h c src

theorem Told.guarded {reports : List Report} {s t : State} (told : Told reports s t) (h : Guarded s)
    (table : ∀ r ∈ reports, r.InTable) : Guarded t := (show t = _ from told) ▸ takeReports_guarded h table

/-! ### The reports of the blocks are of the code table -/

theorem changeReports_inTable {c : AlarmCode} {src : Source} (table : inCodeTable c src = true)
    (before now : Option (Option Detail)) : ∀ r ∈ changeReports c src before now, r.InTable := by
  intro r hr
  unfold changeReports at hr
  split at hr <;> split at hr <;> simp at hr <;> subst hr
  · exact table
  · trivial

theorem channelReports_inTable {src : Source} (table : inCodeTable .channelFault src = true) (first : Bool)
    (before now : Option Detail) : ∀ r ∈ channelReports first src before now, r.InTable := by
  intro r hr
  unfold channelReports at hr
  split at hr <;> split at hr <;> simp at hr <;> subst hr
  · exact table
  · trivial

theorem bandReports_inTable {src : Source} {now : Option AlarmCode} (table : ∀ c ∈ now, inCodeTable c src = true)
    (before : Option AlarmCode) : ∀ r ∈ bandReports src before now, r.InTable := by
  intro r hr
  unfold bandReports at hr
  split at hr
  · cases hr
  · rcases List.mem_append.1 hr with gone | raised
    · obtain ⟨c, -, rfl⟩ := List.mem_map.1 gone
      trivial
    · obtain ⟨c, hc, rfl⟩ := List.mem_map.1 raised
      exact table c (Option.mem_toList.1 hc)

theorem supplyCondition_inTable (b : Bands) : ∀ c ∈ supplyCondition b, inCodeTable c .supply = true := by
  unfold supplyCondition
  cases effectiveSupply b <;> simp [inCodeTable]

theorem boomCondition_inTable (b : Bands) : ∀ c ∈ boomCondition b, inCodeTable c .boom = true := by
  unfold boomCondition
  cases effectiveBoom b <;> simp [inCodeTable]

theorem envelopeReports_inTable (before after : Envelope) (snap : Option Snapshot) :
    ∀ r ∈ envelopeReports before after snap, r.InTable := by
  intro r hr
  simp only [envelopeReports, List.mem_append] at hr
  rcases hr with (hr | hr) | hr
  · exact changeReports_inTable rfl _ _ r hr
  · exact changeReports_inTable rfl _ _ r hr
  · exact changeReports_inTable rfl _ _ r hr

theorem driveFaultReports_inTable (before after : PerGroup Bool) : ∀ r ∈ driveFaultReports before after, r.InTable := by
  intro r hr
  obtain ⟨g, -, hr⟩ := List.mem_flatMap.1 hr
  exact changeReports_inTable rfl _ _ r hr

theorem scanReports_inTable (s t : State) (snap : Snapshot) (trips : Group → Bool) :
    ∀ r ∈ scanReports s t snap trips, r.InTable := by
  intro r hr
  have overcurrent (g : Group) (h : r ∈ if trips g = true then [Report.momentary .overcurrent (.group g) none] else []) :
      r.InTable := by
    split at h <;> simp at h
    subst h
    rfl
  simp only [scanReports, List.mem_append, List.mem_flatMap] at hr
  rcases hr with (((((((⟨e, -, hr⟩ | ⟨a, -, hr⟩) | hr) | hr) | hr) | hr) | hr) | hr) | hr
  · exact channelReports_inTable rfl _ _ _ r hr
  · exact channelReports_inTable rfl _ _ _ r hr
  · exact envelopeReports_inTable _ _ _ r hr
  · exact bandReports_inTable (supplyCondition_inTable _) _ r hr
  · exact bandReports_inTable (boomCondition_inTable _) _ r hr
  · exact overcurrent .hg hr
  · exact overcurrent .dg hr
  · exact overcurrent .sg hr
  · exact changeReports_inTable rfl _ _ r hr

theorem periodReports_inTable (s base : State) (failed : Motion → Bool) :
    ∀ r ∈ periodReports s base failed, r.InTable := by
  intro r hr
  simp only [periodReports, List.mem_append, List.mem_flatMap] at hr
  rcases hr with hr | ⟨m, -, hr | hr⟩
  · exact changeReports_inTable rfl _ _ r hr
  · split at hr <;> simp at hr
    subst hr
    rfl
  · split at hr <;> simp at hr
    subst hr
    trivial

end Sys2Proof.Machine
end

section
/-! Every step keeps the laws of the alarm list and, with them, the run permits clear of what trips their motions (R81,
R147, R148, R152, R155, R158). -/

namespace Sys2Proof.Machine

/-! ### The operations -/

theorem formDriveFaults_guarded {s : State} (h : Guarded s) : Guarded (formDriveFaults s) := by
  refine (formDriveFaults_told s).guarded ?_ (driveFaultReports_inTable _ _)
  exact h.congr (.refl _) fun _ permit => permit

/-- The entries formed again at a change of the arrangement are never of class TRIP (R156). -/
theorem recomputeEntry_keeps (arr : Arrangement) (seconds : Nat) (e : AlarmEntry) :
    (recomputeEntry arr seconds e).key = e.key ∧ (recomputeEntry arr seconds e).cls = e.cls ∧
    (e.code ≠ .channelFault → recomputeEntry arr seconds e = e) := by
  unfold recomputeEntry
  split
  · next formed => exact ⟨rfl, rfl, fun other => absurd formed.1 other⟩
  · exact ⟨rfl, rfl, fun _ => rfl⟩

theorem recomputeAffected_guarded {s : State} (h : Guarded s) : Guarded (recomputeAffected s) := by
  have keeps := recomputeEntry_keeps s.sequencer.record.arrangement s.alarms.seconds
  refine takeReport_guarded h ⟨h.1.list.map fun e => ⟨(keeps e).1, (keeps e).2.1⟩, Alarms.withList_flags _ _, ?_⟩ ?_
  · refine ⟨fun p hp => ⟨(h.1.lost.1 p hp).1, fun e he => ?_⟩, h.1.lost.2⟩
    obtain ⟨x, hx, rfl⟩ := List.mem_map.1 he
    obtain ⟨code, source⟩ := Prod.mk.inj (keeps x).1
    rw [code, source]
    exact (h.1.lost.1 p hp).2 x hx
  · intro e he trip
    obtain ⟨x, hx, rfl⟩ := List.mem_map.1 he
    have cls : x.cls = .trip := (keeps x).2.1 ▸ trip
    have other : x.code ≠ .channelFault := by
      intro code
      have table := (h.1.list.entries x hx).2
      rw [cls, code] at table
      unfold alarmClass at table
      split at table <;> simp_all
    rw [(keeps x).2.2 other]
    exact ⟨x, hx, cls, rfl⟩

theorem acknowledge_keeps {seconds : Nat} {e x : AlarmEntry} (h : acknowledge seconds e = some x) :
    x.key = e.key ∧ x.cls = e.cls ∧ x.affected = e.affected := by
  unfold acknowledge at h
  split at h <;> cases h <;> exact ⟨rfl, rfl, rfl⟩

theorem acknowledgeList_mem {a : Alarms} {selects : AlarmEntry → Bool} {x : AlarmEntry}
    (h : x ∈ acknowledgeList a selects) : ∃ e ∈ a.list, x.key = e.key ∧ x.cls = e.cls ∧ x.affected = e.affected := by
  obtain ⟨e, he, hx⟩ := List.mem_filterMap.1 h
  refine ⟨e, he, ?_⟩
  split at hx
  · exact acknowledge_keeps hx
  · cases hx
    exact ⟨rfl, rfl, rfl⟩

/-- A list whose entries are each dropped or kept under their keys has a sublist of the keys. -/
theorem filterMap_keys {f : AlarmEntry → Option AlarmEntry} (keeps : ∀ e x, f e = some x → x.key = e.key)
    (l : List AlarmEntry) : List.Sublist ((l.filterMap f).map AlarmEntry.key) (l.map AlarmEntry.key) := by
  induction l with
  | nil => exact .slnil
  | cons e rest ih =>
    cases h : f e with
    | none =>
      rw [List.filterMap_cons_none h]
      exact ih.cons _
    | some x =>
      rw [List.filterMap_cons_some h, List.map_cons, List.map_cons, keeps e x h]
      exact ih.cons_cons _

theorem takeAcknowledgement_guarded (selects : AlarmEntry → Bool) {s : State} (h : Guarded s) :
    Guarded (takeAcknowledgement selects s) := by
  refine takeReport_guarded h ⟨h.1.list.refine (filterMap_keys ?_ _) fun x hx => ?_, Alarms.withList_flags _ _, ?_⟩ ?_
  · intro e x hx
    split at hx
    · exact (acknowledge_keeps hx).1
    · cases hx
      rfl
  · obtain ⟨e, he, key, cls, -⟩ := acknowledgeList_mem hx
    exact ⟨e, he, key, cls⟩
  · refine ⟨fun p hp => ⟨(h.1.lost.1 p hp).1, fun x hx => ?_⟩, h.1.lost.2⟩
    obtain ⟨e, he, key, -⟩ := acknowledgeList_mem hx
    obtain ⟨code, source⟩ := Prod.mk.inj key
    rw [code, source]
    exact (h.1.lost.1 p hp).2 e he
  · intro x hx trip
    obtain ⟨e, he, -, cls, affected⟩ := acknowledgeList_mem hx
    exact ⟨e, he, cls ▸ trip, affected.symm⟩

/-! ### The sequencer -/

theorem issueOrder_guarded (kind : Working) {s : State} (h : Guarded s) : Guarded (issueOrder kind s) :=
  formDriveFaults_guarded (h.congr (.refl _) fun _ permit => permit)

theorem refuseSequence_guarded (d : Detail) {s : State} (h : Guarded s) : Guarded (refuseSequence d s) :=
  reportMomentary_guarded h _ rfl

theorem withSequencer_guarded {s : State} (h : Guarded s) (q : Sequencer) : Guarded (s.withSequencer q) :=
  h.congr (.refl _) fun _ permit => permit

theorem serviceQueue_guarded {s : State} (h : Guarded s) : Guarded (serviceQueue s) := by
  refine serviceQueue_keeps (fun s e rest t h _ _ done => ?_) h
  have h := withSequencer_guarded h { s.sequencer with queue := rest }
  cases done with
  | stands => exact h
  | moved _ => exact withSequencer_guarded h _
  | issued kind _ => exact issueOrder_guarded kind h
  | refused d => exact refuseSequence_guarded d h

theorem completeStop_guarded (d : Settled) {s : State} (h : Guarded s) : Guarded (completeStop d s) := by
  unfold completeStop
  split
  · exact withSequencer_guarded h _
  · split
    · exact issueOrder_guarded _ h
    · exact refuseSequence_guarded _ (withSequencer_guarded h _)
  · split
    · exact issueOrder_guarded _ h
    · exact refuseSequence_guarded _ (withSequencer_guarded h _)

theorem periodEndAtSequencer_guarded (notices : PerMotion Notice) {s : State} (h : Guarded s) :
    Guarded (periodEndAtSequencer notices s) :=
  periodEndAtSequencer_keeps h fun _ d _ _ => serviceQueue_guarded (completeStop_guarded d h)

theorem takePark_guarded (p : Port) {s : State} (h : Guarded s) : Guarded (takePark p s) := by
  unfold takePark
  simp only
  split
  · exact withSequencer_guarded h _
  · exact withSequencer_guarded h _
  · exact serviceQueue_guarded (withSequencer_guarded h _)

theorem orderDone_guarded {s : State} (h : Guarded s) : Guarded (orderDone s) := by
  unfold orderDone
  simp only
  refine formDriveFaults_guarded ?_
  have ended (q : Sequencer) := recomputeAffected_guarded (withSequencer_guarded h q)
  split
  · exact reportGone_guarded (ended _) _ _
  · exact ended _

theorem orderFailed_guarded (e : EndedBy) {s : State} (h : Guarded s) : Guarded (orderFailed e s) :=
  formDriveFaults_guarded (reportRaise_guarded (recomputeAffected_guarded (withSequencer_guarded h _)) _ rfl)

/-! ### The other effects -/

/-- Nothing but the unit, untouched, and permits no more than they were. -/
theorem Guarded.withStops {s t : State} (h : Guarded s) (unit : SameUnit s.alarms t.alarms)
    (permits : ∀ m, (t.shaper.motions.get m).permit = (s.shaper.motions.get m).permit) : Guarded t :=
  h.congr unit fun m permit => permits m ▸ permit

theorem zeroMotions_permit (ms : PerMotion Bool) (s : State) (m : Motion) :
    ((zeroMotions ms s).shaper.motions.get m).permit = (s.shaper.motions.get m).permit := by
  rw [zeroMotions_motion]
  split <;> rfl

theorem zeroMotions_guarded (ms : PerMotion Bool) {s : State} (h : Guarded s) : Guarded (zeroMotions ms s) := by
  refine h.withStops ?_ (zeroMotions_permit ms s)
  rw [zeroMotions_keeps]
  exact .refl _

theorem raiseBrakeFail_guarded (m : Motion) {s : State} (h : Guarded s) : Guarded (raiseBrakeFail m s) :=
  reportRaise_guarded h _ rfl

theorem superviseFeedback_guarded (m : Motion) {s : State} (h : Guarded s) : Guarded (superviseFeedback m s) := by
  have braked (b : BrakeRecord) : Guarded (s.withBrake m b) := h.withStops (.refl _) fun _ => rfl
  by_cases set : (s.gate.brakes.get m).state = .set ∧ s.feedbackInputs.get m = true
  · rw [superviseFeedback_set set.1 set.2, feedbackInSet]
    split
    · exact raiseBrakeFail_guarded m (braked _)
    · exact braked _
  · by_cases released : (s.gate.brakes.get m).state = .released ∧ s.feedbackInputs.get m = false
    · rw [superviseFeedback_released released.1 released.2, feedbackInReleased]
      split
      · exact raiseBrakeFail_guarded m (zeroMotions_guarded _ (braked _))
      · exact zeroMotions_guarded _ (braked _)
    · rw [superviseFeedback_quiet set released]
      exact braked _

theorem holdExpires_guarded {s : State} (runs : s.ports.a.holdTimer = true) (h : Guarded s) : Guarded (holdExpires s) := by
  rw [holdExpires_eq runs]
  have base : Guarded (staleBase s) := h.withStops (.refl _) fun m => by simp [staleBase]
  exact reportRaise_guarded base _ rfl

theorem bandEvent_guarded (b : Bands) {s : State} (h : Guarded s) : Guarded (bandEvent b s) := by
  have boom (b : Bands) : boomAlarm (effectiveBoom b) = boomCondition b := by
    unfold boomCondition boomAlarm
    cases effectiveBoom b <;> rfl
  have base : Guarded (s.withBands { b with reportDue := false }) := h.congr (.refl _) fun _ permit => permit
  unfold bandEvent reportBands
  refine (reportBand_told _ _ _ _).guarded ?_ (bandReports_inTable ?_ _)
  · exact (reportBand_told _ _ _ _).guarded base (bandReports_inTable (supplyCondition_inTable b) _)
  · rw [boom]
    exact boomCondition_inTable b

theorem applyWrite_guarded (w : RecordWrite) {s : State} (h : Guarded s) : Guarded (applyWrite w s) := by
  have quiet {t : State} (alarms : t.alarms = s.alarms)
      (permits : ∀ m, (t.shaper.motions.get m).permit = (s.shaper.motions.get m).permit) : Guarded t :=
    h.withStops (alarms ▸ .refl _) permits
  cases w with
  | calEncoder e cal zeroing =>
    cases zeroing with
    | true => exact h
    | false =>
      have scanned (x : Scanner) : Guarded (s.withScanner x) := quiet rfl fun _ => rfl
      show Guarded (recalibrateEncoder e cal s)
      unfold recalibrateEncoder
      simp only
      split
      · exact reportRaise_guarded (scanned _) _ rfl
      · exact scanned _
  | supplyBands t => exact bandEvent_guarded _ h
  | boomBands b => exact bandEvent_guarded _ h
  | association names =>
    refine quiet rfl fun m => ?_
    simp only [applyWrite, applyAssociation, State.withShaper_shaper, PerMotion.get_map]
    exact (associate_output _ _).2
  | _ => exact quiet rfl fun _ => rfl

theorem freshFrame_guarded (mark : Bool) (refs : PerMotion Int) {s : State} (h : Guarded s) :
    Guarded (freshFrame mark refs s) := by
  have reported : Guarded (freshReported mark refs s) := by
    have base : Guarded (freshBase mark refs s) := h.congr (.refl _) fun _ permit => permit
    unfold freshReported
    split
    · exact reportGone_guarded base _ _
    · exact base
  rw [freshFrame_eq]
  refine ⟨reported.1, fun m tripped => ?_⟩
  have trips : tripAffects (freshReported mark refs s).alarms.list m = true := (tripAffects_iff _ m).2 tripped
  have before := reported.2 m tripped
  simp [storeRequest, trips, before]

theorem restartAll_guarded (s : State) : Guarded (restartAll s) := by
  have base : Guarded (restartBase s) := by
    refine ⟨⟨listKept_nil, ⟨rfl, rfl, rfl⟩, ⟨fun p hp => (nomatch hp), List.nodup_nil⟩⟩, fun m _ => ?_⟩
    simp [restartBase, noteListChange, restartShaper, restartMotion]
  rw [restartAll_eq]
  split
  · exact reportRaise_guarded base _ rfl
  · exact base

theorem Effect.guarded {s t : State} (h : Guarded s) (effect : Effect s t) : Guarded t := by
  have same {t : State} (unit : SameUnit s.alarms t.alarms) (motions : t.shaper.motions = s.shaper.motions) :
      Guarded t := h.congr unit fun m permit => motions ▸ permit
  cases effect with
  | scan conversions =>
    have base : Guarded (scannedBlocks conversions s) := same (.refl _) rfl
    exact (scanAll_told conversions s).guarded base (scanReports_inTable _ _ _ _)
  | period =>
    have base : Guarded (periodBlocks s) := h.withStops (.refl _) fun m => by rw [(periodBlocks_formed s).motion m]
    rw [periodAll]
    refine periodEndAtSequencer_guarded _ ?_
    rw [notifyGate_eq_takeReports]
    exact takeReports_guarded base (periodReports_inTable _ _ _)
  | feedback m => exact superviseFeedback_guarded m h
  | hold runs => exact holdExpires_guarded runs h
  | written flight => exact applyWrite_guarded _ (same (.refl _) rfl)
  | committed flight =>
    rw [finishCommit_eq, commitReported]
    refine serviceQueue_guarded ?_
    simp only
    refine Guarded.withStops ?_ (.refl _) fun _ => rfl
    refine (envelopeEvent_told _).guarded ?_ (envelopeReports_inTable _ _ _)
    exact same (.refl _) rfl
  | listRead p => cases p <;> exact same (.refl _) rfl
  | fresh mark refs => exact freshFrame_guarded _ _ h
  | park p => exact takePark_guarded p h
  | queued p _ _ => exact serviceQueue_guarded (withSequencer_guarded h _)
  | orderDone _ => exact serviceQueue_guarded (orderDone_guarded h)
  | orderFailed e _ => exact orderFailed_guarded e h
  | readiness r =>
    have base : Guarded (formedReadiness r s) := by
      refine h.withStops ?_ fun m => ?_
      · rw [formedReadiness_keeps]
        exact .refl _
      · have formed := formedReadiness_formed s r
        by_cases lost : LosesService s r m
        · rw [(formed.lost m lost).1]
        · rw [(formed.kept m lost).1]
    exact (takeReadiness_told r s).guarded base (driveFaultReports_inTable _ _)
  | stopAll p => cases p <;> exact reportMomentary_guarded h _ rfl
  | overrunCleared =>
    have unit : SameUnit s.alarms { s.alarms with overrun := false } := ⟨rfl, rfl, rfl, rfl, rfl⟩
    exact takeReport_guarded h (unit.lawful h.1) fun e he trip => ⟨e, he, trip, rfl⟩
  | acknowledged selects => exact takeAcknowledgement_guarded selects h
  | zeroed e value _ =>
    have base : Guarded (referencedBase e value s) := same (.refl _) rfl
    have reported : Guarded (zeroReported e value s) := by
      unfold zeroReported
      split
      · exact base
      · exact reportGone_guarded base _ _
    exact reported.congr (.refl _) fun _ permit => permit
  | restarted _ _ => exact restartAll_guarded s
  | _ => exact same ⟨rfl, rfl, rfl, rfl, rfl⟩ rfl

/-! ### Every step -/

/-- At reset the list is empty. -/
theorem guarded_of_reset {s : State} (alarms : s.alarms = State.reset.alarms) : Guarded s := by
  refine ⟨alarms ▸ ⟨listKept_nil, ⟨rfl, rfl, rfl⟩, ⟨fun p hp => (nomatch hp), List.nodup_nil⟩⟩, fun m tripped => ?_⟩
  obtain ⟨e, he, -⟩ := tripped
  rw [alarms] at he
  cases he

theorem release_guarded (s : State) : Guarded (release s) := by
  have raises (l : List SettingsRecord) {t : State} (h : Guarded t) : Guarded (l.foldl raiseSettingsCheck t) := by
    induction l generalizing t with
    | nil => exact h
    | cons r rest ih => exact ih (reportMomentary_guarded h _ rfl)
  exact raises _ (guarded_of_reset rfl)

theorem step_guarded {s t : State} (hstep : step s = .next t) (h : Guarded s) : Guarded t := by
  have settled (s : State) (l : PerPort PortLink) (h : Guarded s) : Guarded (settle (s.withLinks l)) :=
    h.withStops (.refl _) fun m => by rw [settle_motion]; rfl
  refine step_establishes (P := Guarded) (fun _ _ h => h) (fun _ h => h) settled (fun _ _ h => h)
    (fun s p _ => ?_) (fun s _ => settled _ (release s).ports.links (release_guarded s))
    (fun s t h effect => effect.guarded h) h hstep
  exact settled _ State.reset.ports.links (guarded_of_reset rfl)

/-- Settles O56: the two laws together, kept by every report of a pair of the code table (`takeReports_guarded`). -/
theorem alarmAndPermitLawsAreKept : Obligations.AlarmAndPermitLawsAreKept := by
  unfold Obligations.AlarmAndPermitLawsAreKept
  exact fun s t list permit hstep => (guarded_iff t).1 (step_guarded hstep ((guarded_iff s).2 ⟨list, permit⟩))

end Sys2Proof.Machine
end

section
/-! The Alarm Unit's statements (09): what a TRIP entry does at once, what each report makes of the list, that a
restraining raise is always listed, STOP-ALL and ACK-ALARM (R149 to R155, R162). -/

namespace Sys2Proof.Machine

/-! ### Delivery -/

/-- A request delivered at a free port: its judgement's answer, held under the response's kind. -/
theorem exec_delivers {c : Instr} {p : Port} {r : Request} (h : requestOf c = some (p, r)) {s t : State}
    (free : PortFree p s) {kind : Byte} (responds : kindOf r ||| 0x80 = kind) {reply : Reply}
    (judged : judgeRequest p r s = (reply, t)) :
    exec c s = .next (settle (holdAnswer p r kind reply.result reply.data t)) := by
  rw [exec_request_free h free, responds, judged]

/-! ### A report taken (R149 to R151, R162) -/

/-- A report's unit taken, with Ports A and C told where it says so. -/
def reportedState (r : Reported) (s : State) : State :=
  { s with
    alarms := r.unit
    ports := { s.ports with
      a := { s.ports.a with listChanged := s.ports.a.listChanged || r.changed }
      c := { s.ports.c with listChanged := s.ports.c.listChanged || r.changed } } }

theorem takeReport_eq (r : Reported) (s : State) : takeReport r s = reportedState r s := by
  unfold takeReport reportedState
  cases r.changed <;> simp [noteListChange, State.withAlarms, State.withPorts]

theorem appendEntry_applied (a : Alarms) {n : AlarmEntry} (restrains : n.cls ≠ .warn) :
    (appendEntry a n).applied = true := by
  unfold appendEntry
  split
  · rfl
  · rfl

theorem hasLost_of_restrains {a : Alarms} {c : AlarmCode} {src : Source} (restrains : alarmClass c src ≠ .warn) :
    a.hasLost c src = false := by simp [Alarms.hasLost, restrains]

/-- A restraining raise is applied with no entry or one in CLEARED-UNACK. -/
theorem raiseHeld_applied {a : Alarms} {c : AlarmCode} {src : Source} (restrains : alarmClass c src ≠ .warn)
    (arr : Arrangement) (d : Option Detail) :
    ((∀ e, findEntry a.list c src = some e → e.state = .clearedUnack) → (raiseHeld a arr c src d).applied = true) ∧
    (∀ e, findEntry a.list c src = some e → e.state ≠ .clearedUnack → (raiseHeld a arr c src d).applied = false) := by
  unfold raiseHeld
  cases entry : findEntry a.list c src with
  | none =>
    refine ⟨fun _ => ?_, fun e he => by cases he⟩
    simp only [hasLost_of_restrains restrains, Bool.false_eq_true, if_false]
    exact appendEntry_applied a restrains
  | some e =>
    refine ⟨fun cleared => ?_, fun x hx active => ?_⟩
    · simp only [cleared e rfl, if_true]
    · cases hx
      simp only [active, if_false]
      split <;> rfl

theorem raiseMomentary_applied {a : Alarms} {c : AlarmCode} {src : Source} (restrains : alarmClass c src ≠ .warn)
    (arr : Arrangement) (d : Option Detail) : (raiseMomentary a arr c src d).applied = true := by
  unfold raiseMomentary
  split
  · exact appendEntry_applied a restrains
  · rfl

/-- Applied to a TRIP entry, a report hands on its effects; any other hands on none (R155). -/
theorem applyClass_trip {r : Reported} {c : AlarmCode} {src : Source} (trip : alarmClass c src = .trip) (s : State) :
    applyClass r c src s =
      if r.applied then tripEffects (affectedMotions s.sequencer.record.arrangement c src) s else s := by
  simp [applyClass, trip]

theorem applyClass_other {r : Reported} {c : AlarmCode} {src : Source} (other : alarmClass c src ≠ .trip) (s : State) :
    applyClass r c src s = s := by simp [applyClass, other]

/-! ### The effects of a trip (R155) -/

theorem stopped_stoppedAtOnce (r : MotionRecord) : StoppedAtOnce r r.stopped :=
  ⟨rfl, rfl, rfl, rfl, rfl, rfl, rfl, rfl, rfl, rfl, rfl⟩

/-- What a trip does to one motion and its brake. -/
theorem tripEffects_motion {ms : PerMotion Bool} (any : ms.any = true) (s : State) (m : Motion) :
    (tripEffects ms s).shaper.motions.get m =
      (if ms.get m then (s.shaper.motions.get m).stopped else s.shaper.motions.get m) ∧
    (tripEffects ms s).gate.brakes.get m =
      (if ms.get m then dropBrake (s.gate.brakes.get m) else s.gate.brakes.get m) ∧
    (tripEffects ms s).shaper.references.outputs.get m = ((tripEffects ms s).shaper.motions.get m).output := by
  rw [tripEffects_eq any]
  simp only [PerMotion.get_map]
  refine ⟨trivial, trivial, ?_⟩
  split <;> rfl

theorem every_of_all {ms : PerMotion Bool} (h : ∀ m, ms.get m = true) : ms.every = true := (PerMotion.every_iff ms).2 h

theorem every_of_spared {ms : PerMotion Bool} {m : Motion} (h : ms.get m = false) : ms.every = false := by
  rw [← Bool.not_eq_true, PerMotion.every_iff]
  exact fun all => Bool.false_ne_true (h.symm.trans (all m))

/-- Settles O42: a trip's effects motion by motion (`tripEffects_motion`), and where a report hands them on
(`raiseHeld_applied`, `raiseMomentary_applied`). -/
theorem tripTakesEffectAtOnce : Obligations.TripTakesEffectAtOnce := by
  unfold Obligations.TripTakesEffectAtOnce
  refine ⟨fun s ms => ⟨fun none => ?_, fun some' => ?_⟩, fun s c src d => ⟨fun trip => ⟨fun cleared => ?_, ?_, ?_⟩,
    fun other => ⟨?_, ?_⟩, ?_⟩⟩
  · refine tripEffects_none ?_ s
    rw [← Bool.not_eq_true, PerMotion.any_iff]
    rintro ⟨m, h⟩
    exact Bool.false_ne_true ((none m).symm.trans h)
  · have any := (PerMotion.any_iff ms).2 some'
    have eq := tripEffects_eq any s
    refine ⟨fun m => ?_, fun walk => ?_, fun walk => ?_, fun all => ?_, fun ⟨m, spared⟩ => ?_, ?_⟩
    · obtain ⟨motion, brake, published⟩ := tripEffects_motion any s m
      refine ⟨fun named => ?_, fun spared => ?_, published⟩
      · rw [motion, brake, if_pos named, if_pos named]
        exact ⟨stopped_stoppedAtOnce _, dropBrake_dropped _⟩
      · rw [motion, brake, spared]
        exact ⟨rfl, rfl⟩
    · rw [eq]
      exact if_pos walk
    · rw [eq]
      exact if_neg (by simp [walk])
    · rw [eq]
      simp only [every_of_all all, if_true]
      exact ⟨modeAfterTrip_trippedTo _, trivial⟩
    · rw [eq]
      exact if_neg (by simp [every_of_spared spared])
    · simp only [eq]
  · have cleared' (e : AlarmEntry) (he : findEntry s.alarms.list c src = some e) : e.state = .clearedUnack := by
      obtain ⟨mem, code, source⟩ := findEntry_mem he
      exact cleared e mem code source
    refine ⟨_, (raiseHeld_changed s.alarms s.sequencer.record.arrangement c src d).trans ?_, ?_⟩
    · refine or_congr_right (or_congr_right (exists_congr fun e => ?_))
      exact ⟨And.left, fun he => ⟨he, cleared' e he⟩⟩
    · rw [reportRaise, takeReport_eq, applyClass_trip trip,
        (raiseHeld_applied (by simp [trip]) _ d).1 cleared', if_pos rfl]
      rfl
  · rintro ⟨e, mem, code, source⟩ active
    cases entry : findEntry s.alarms.list c src with
    | none => exact absurd source ((findEntry_eq_none _ _ _).1 entry e mem code)
    | some x =>
      obtain ⟨mem', code', source'⟩ := findEntry_mem entry
      have active := active x mem' code' source'
      refine ⟨_, (raiseHeld_changed s.alarms s.sequencer.record.arrangement c src d).trans ?_, ?_⟩
      · refine or_congr_right (or_congr_right ⟨fun ⟨y, hy, cleared⟩ => ?_, False.elim⟩)
        rw [entry] at hy
        cases hy
        exact active cleared
      · rw [reportRaise, takeReport_eq, applyClass_trip trip, (raiseHeld_applied (by simp [trip]) _ d).2 x entry active]
        rfl
  · refine ⟨_, raiseMomentary_changed s.alarms s.sequencer.record.arrangement c src d, ?_⟩
    rw [reportMomentary, takeReport_eq, applyClass_trip trip, raiseMomentary_applied (by simp [trip]), if_pos rfl]
    rfl
  · refine ⟨_, raiseHeld_changed s.alarms s.sequencer.record.arrangement c src d, ?_⟩
    rw [reportRaise, takeReport_eq, applyClass_other other]
    rfl
  · refine ⟨_, raiseMomentary_changed s.alarms s.sequencer.record.arrangement c src d, ?_⟩
    rw [reportMomentary, takeReport_eq, applyClass_other other]
    rfl
  · refine ⟨_, (conditionGone_changed s.alarms c src).trans (by simp), ?_⟩
    rw [reportGone, takeReport_eq]
    rfl

/-! ### The list after a report (R149 to R152) -/

theorem mem_forget_iff (a : Alarms) (c : AlarmCode) (src : Source) (p : AlarmCode × Source) :
    p ∈ (a.forget c src).lost ↔ p ∈ a.lost ∧ p ≠ (c, src) := by simp [Alarms.forget]

theorem mem_lose_iff (a : Alarms) (e : AlarmEntry) (p : AlarmCode × Source) :
    p ∈ (a.lose (some e)).lost ↔ p ∈ a.lost ∨ e.state ≠ .clearedUnack ∧ p = (e.code, e.source) := by
  simp only [Alarms.lose, Option.elim, lostAfter]
  split
  · next cleared => simp [cleared]
  · next active => simp [active, or_comm]

/-- A new entry behind a list with room; dropped from a full one where it is WARN; in the place of the oldest WARN entry
where it restrains (R149, R152). -/
theorem appendEntry_cases (a : Alarms) (n : AlarmEntry) :
    (a.list.length < 32 → (appendEntry a n).unit = (a.forget n.code n.source).withList (a.list ++ [n])) ∧
    (32 ≤ a.list.length → n.cls = .warn → (appendEntry a n).unit = a.lose (some n)) ∧
    (32 ≤ a.list.length → n.cls ≠ .warn →
      (appendEntry a n).unit = (a.lose (oldestWarn a.list)).withList (evictWarn a.list ++ [n])) := by
  unfold appendEntry Config.alarmCapacity
  refine ⟨fun room => ?_, fun full warn => ?_, fun full restrains => ?_⟩
  · rw [if_pos room]
  · rw [if_neg (Nat.not_lt.2 full), if_pos warn]
  · rw [if_neg (Nat.not_lt.2 full), if_neg restrains]

theorem oldestWarn_append_cons {l₁ l₂ : List AlarmEntry} {w : AlarmEntry} (warn : w.cls = .warn)
    (before : ∀ x ∈ l₁, x.cls ≠ .warn) : oldestWarn (l₁ ++ w :: l₂) = some w :=
  List.find?_eq_some_iff_append.2 ⟨by simp [warn], l₁, l₂, rfl, by simpa using before⟩

/-- A condition gone with no entry leaves the unit but for its record of what is present without one (R150). -/
theorem conditionGone_absent {a : Alarms} {c : AlarmCode} {src : Source} (absent : findEntry a.list c src = none) :
    (conditionGone a c src).unit = a.forget c src := by rw [conditionGone, absent]

/-- A condition gone against an entry, by the entry's state (R150). -/
theorem conditionGone_present {a : Alarms} {c : AlarmCode} {src : Source} {e : AlarmEntry}
    (entry : findEntry a.list c src = some e) :
    (e.state = .activeUnack → (conditionGone a c src).unit =
      a.withList (changeEntry a.list c src fun e => { e with state := .clearedUnack, changedAt := a.seconds })) ∧
    (e.state = .activeAck → (conditionGone a c src).unit = a.withList (removeEntry a.list c src)) ∧
    (e.state = .clearedUnack → (conditionGone a c src).unit = a) := by
  rw [conditionGone, entry]
  refine ⟨fun state => ?_, fun state => ?_, fun state => ?_⟩ <;> simp only [state]

theorem raiseHeld_absent {a : Alarms} {c : AlarmCode} {src : Source} (absent : findEntry a.list c src = none)
    (arr : Arrangement) (d : Option Detail) :
    (a.hasLost c src = true → (raiseHeld a arr c src d).unit = a) ∧
    (¬a.hasLost c src = true → (raiseHeld a arr c src d).unit =
      (appendEntry a (newEntry a arr c src d .activeUnack)).unit) := by
  rw [raiseHeld, absent]
  exact ⟨fun lost => by simp only [lost, if_true], fun fresh => by simp only [fresh]; rfl⟩

theorem raiseHeld_present {a : Alarms} {c : AlarmCode} {src : Source} {e : AlarmEntry}
    (entry : findEntry a.list c src = some e) (arr : Arrangement) (d : Option Detail) :
    (e.state = .clearedUnack →
      (raiseHeld a arr c src d).unit = a.withList (changeEntry a.list c src (reRaise a arr d .activeUnack))) ∧
    (e.state ≠ .clearedUnack → e.detail = d → (raiseHeld a arr c src d).unit = a) ∧
    (e.state ≠ .clearedUnack → e.detail ≠ d → (raiseHeld a arr c src d).unit =
      a.withList (changeEntry a.list c src fun e => { e with detail := d, changedAt := a.seconds })) := by
  rw [raiseHeld, entry]
  refine ⟨fun cleared => ?_, fun active same => ?_, fun active differs => ?_⟩
  · simp only [cleared, if_true]
  · simp only [active, same, if_false, if_true]
  · simp only [active, differs, if_false]

theorem raiseMomentary_absent {a : Alarms} {c : AlarmCode} {src : Source} (absent : findEntry a.list c src = none)
    (arr : Arrangement) (d : Option Detail) : (raiseMomentary a arr c src d).unit =
      (appendEntry a (newEntry a arr c src d .clearedUnack)).unit := by rw [raiseMomentary, absent]

theorem raiseMomentary_present {a : Alarms} {c : AlarmCode} {src : Source} {e : AlarmEntry}
    (entry : findEntry a.list c src = some e) (arr : Arrangement) (d : Option Detail) :
    (raiseMomentary a arr c src d).unit = a.withList (changeEntry a.list c src (reRaise a arr d .clearedUnack)) := by
  rw [raiseMomentary, entry]

theorem hasLost_iff (a : Alarms) (c : AlarmCode) (src : Source) :
    a.hasLost c src = true ↔ alarmClass c src = .warn ∧ (c, src) ∈ a.lost := by simp [Alarms.hasLost]

/-- Settles O43: the tables of each report, by the entry found (`raiseHeld_present`, `raiseMomentary_present`,
`conditionGone_present`) or by what is appended (`appendEntry_cases`). -/
theorem alarmListFollowsReports : Obligations.AlarmListFollowsReports := by
  unfold Obligations.AlarmListFollowsReports
  refine ⟨fun a arr e l₁ l₂ d list others => ?_, fun a arr c src d absent => ?_, fun s c src reports warn lost absent quiet => ?_⟩
  · have entry : findEntry a.list e.code e.source = some e := by
      rw [list]
      exact findEntry_append_cons fun x hx => others x (List.mem_append_left _ hx)
    have changed (f : AlarmEntry → AlarmEntry) :
        (a.withList (changeEntry a.list e.code e.source f)).list = l₁ ++ f e :: l₂ := by
      rw [Alarms.withList_list, list]
      exact changeEntry_append_cons f others
    obtain ⟨reraised, same, detailed⟩ := raiseHeld_present entry arr d
    obtain ⟨unack, ack, cleared⟩ := conditionGone_present entry
    have momentary := raiseMomentary_present entry arr d
    refine ⟨fun state => ?_, fun state differs => ?_, fun state equal => ?_, ?_, fun state => ?_, fun state => ?_,
      fun state => ?_, ?_, ?_, ?_⟩
    · rw [reraised state, changed]
      rfl
    · rw [detailed state differs, changed]
    · rw [same state equal]
    · rw [momentary, changed]
      rfl
    · rw [unack state, changed]
    · rw [ack state, Alarms.withList_list, list]
      exact removeEntry_append_cons others
    · rw [cleared state]
    · by_cases state : e.state = .clearedUnack
      · rw [reraised state]
        rfl
      · by_cases equal : e.detail = d
        · rw [same state equal]
        · rw [detailed state equal]
          rfl
    · rw [momentary]
      rfl
    · cases state : e.state with
      | activeUnack => rw [unack state]; rfl
      | activeAck => rw [ack state]; rfl
      | clearedUnack => rw [cleared state]
  · have entry : findEntry a.list c src = none := (findEntry_eq_none _ _ _).2 absent
    obtain ⟨stays, appended⟩ := raiseHeld_absent entry arr d
    refine ⟨?_, fun p => ?_, fun present => stays ((hasLost_iff _ _ _).2 present), fun st u raised => ?_⟩
    · rw [conditionGone_absent entry]
      rfl
    · rw [conditionGone_absent entry]
      exact mem_forget_iff a c src p
    · have unit : u = (appendEntry a (newEntry a arr c src d st)).unit := by
        rcases raised with ⟨rfl, fresh, rfl⟩ | ⟨rfl, rfl⟩
        · exact appended (mt (hasLost_iff _ _ _).1 fresh)
        · exact raiseMomentary_absent entry arr d
      obtain ⟨room, dropped, evicted⟩ := appendEntry_cases a (newEntry a arr c src d st)
      refine ⟨fun short => ?_, fun full isWarn => ?_, fun l₁ w l₂ full restrains list isWarn before => ?_⟩
      · rw [unit, room short]
        exact ⟨rfl, rfl, mem_forget_iff a c src⟩
      · rw [unit, dropped full isWarn]
        refine ⟨rfl, fun p => (mem_lose_iff a _ p).trans (or_congr_right (and_congr_left' ?_))⟩
        rcases raised with ⟨rfl, -⟩ | ⟨rfl, -⟩ <;> simp [newEntry]
      · rw [unit, evicted full restrains, list, oldestWarn_append_cons isWarn before, evictWarn_append_cons isWarn before]
        exact ⟨rfl, rfl, fun p => mem_lose_iff a w p⟩
  · have alarms : (takeReports reports s).alarms = _ := alarmsAfter_eq reports s
    simp only [alarms]
    have kept (l : List Report) (quiet : ∀ r ∈ l, r ≠ .gone c src ∧ ∀ d, r ≠ .momentary c src d) (a : Alarms)
        (h : (c, src) ∈ a.lost ∧ ∀ e ∈ a.list, e.code = c → e.source ≠ src) :
        (c, src) ∈ (l.foldl (unitAfter s.sequencer.record.arrangement) a).lost ∧
          ∀ e ∈ (l.foldl (unitAfter s.sequencer.record.arrangement) a).list, e.code = c → e.source ≠ src := by
      induction l generalizing a with
      | nil => exact h
      | cons r rest ih =>
        obtain ⟨notGone, notMomentary⟩ := quiet r List.mem_cons_self
        exact ih (fun x hx => quiet x (List.mem_cons_of_mem r hx)) _
          (unitAfter_lost _ (p := (c, src)) warn h.1 h.2 notGone notMomentary)
    exact kept reports quiet s.alarms ⟨lost, absent⟩

/-! ### A restraining raise is listed (09, A full list) -/

/-- An entry of a code and source in a list. -/
theorem exists_changed {l : List AlarmEntry} {c : AlarmCode} {src : Source} {e : AlarmEntry}
    (entry : findEntry l c src = some e) {f : AlarmEntry → AlarmEntry} (keeps : (f e).key = e.key) :
    f e ∈ changeEntry l c src f ∧ (f e).code = c ∧ (f e).source = src := by
  obtain ⟨mem, code, source⟩ := findEntry_mem entry
  obtain ⟨sameCode, sameSource⟩ := Prod.mk.inj keeps
  refine ⟨List.mem_map.2 ⟨e, mem, if_pos ?_⟩, sameCode.trans code, sameSource.trans source⟩
  exact (AlarmEntry.isFor_iff _ _ _).2 ⟨code, source⟩

/-- A new restraining entry stands in the list, at its end. -/
theorem mem_appendEntry (a : Alarms) {n : AlarmEntry} (restrains : n.cls ≠ .warn) : n ∈ (appendEntry a n).unit.list := by
  obtain ⟨room, -, evicted⟩ := appendEntry_cases a n
  by_cases short : a.list.length < 32
  · rw [room short]
    simp
  · rw [evicted (Nat.not_lt.1 short) restrains]
    simp

theorem raiseHeld_lists (a : Alarms) (arr : Arrangement) {c : AlarmCode} {src : Source} (d : Option Detail)
    (restrains : alarmClass c src ≠ .warn) :
    ∃ e ∈ (raiseHeld a arr c src d).unit.list, e.code = c ∧ e.source = src ∧ e.state ≠ .clearedUnack := by
  cases entry : findEntry a.list c src with
  | none =>
    rw [(raiseHeld_absent entry arr d).2 (by simp [hasLost_of_restrains restrains])]
    exact ⟨_, mem_appendEntry a restrains, rfl, rfl, by simp [newEntry]⟩
  | some e =>
    obtain ⟨reraised, same, detailed⟩ := raiseHeld_present entry arr d
    by_cases state : e.state = .clearedUnack
    · rw [reraised state]
      obtain ⟨mem, code, source⟩ := exists_changed entry (f := reRaise a arr d .activeUnack) rfl
      exact ⟨_, mem, code, source, by simp [reRaise]⟩
    · by_cases equal : e.detail = d
      · rw [same state equal]
        obtain ⟨mem, code, source⟩ := findEntry_mem entry
        exact ⟨e, mem, code, source, state⟩
      · rw [detailed state equal]
        obtain ⟨mem, code, source⟩ :=
          exists_changed entry (f := fun e => { e with detail := d, changedAt := a.seconds }) rfl
        exact ⟨_, mem, code, source, state⟩

theorem raiseMomentary_lists (a : Alarms) (arr : Arrangement) {c : AlarmCode} {src : Source} (d : Option Detail)
    (restrains : alarmClass c src ≠ .warn) : ∃ e ∈ (raiseMomentary a arr c src d).unit.list,
      e.code = c ∧ e.source = src ∧ e.state = .clearedUnack ∧ e.affected = affectedMotions arr c src := by
  cases entry : findEntry a.list c src with
  | none =>
    rw [raiseMomentary_absent entry arr d]
    exact ⟨_, mem_appendEntry a restrains, rfl, rfl, rfl, rfl⟩
  | some e =>
    rw [raiseMomentary_present entry arr d]
    obtain ⟨mem, code, source⟩ := exists_changed entry (f := reRaise a arr d .clearedUnack) rfl
    refine ⟨_, mem, code, source, rfl, ?_⟩
    obtain ⟨-, code, source⟩ := findEntry_mem entry
    rw [← code, ← source]
    rfl

theorem reportRaise_alarms (c : AlarmCode) (src : Source) (d : Option Detail) (s : State) :
    (reportRaise c src d s).alarms = (raiseHeld s.alarms s.sequencer.record.arrangement c src d).unit :=
  Report.take_alarms (.raise c src d) s

theorem reportMomentary_alarms (c : AlarmCode) (src : Source) (d : Option Detail) (s : State) :
    (reportMomentary c src d s).alarms = (raiseMomentary s.alarms s.sequencer.record.arrangement c src d).unit :=
  Report.take_alarms (.momentary c src d) s

/-- Settles O44: the raise is entered (`raiseHeld_lists`, `raiseMomentary_lists`), and the laws are kept since a full list
has a WARN entry to evict (`ListKept.exists_warn`). -/
theorem restrainingRaiseIsListed : Obligations.RestrainingRaiseIsListed := by
  unfold Obligations.RestrainingRaiseIsListed
  intro s c src d law table restrains
  have lawful := (alarmListLaw_iff s).1 law
  rw [alarmListLaw_iff, alarmListLaw_iff, reportRaise_alarms, reportMomentary_alarms]
  refine ⟨⟨unitAfter_lawful _ lawful (r := .raise c src d) table, raiseHeld_lists _ _ d restrains⟩,
    unitAfter_lawful _ lawful (r := .momentary c src d) table, ?_⟩
  obtain ⟨e, mem, code, source, state, -⟩ := raiseMomentary_lists s.alarms s.sequencer.record.arrangement d restrains
  exact ⟨e, mem, code, source, state⟩

/-! ### STOP-ALL (R154) -/

theorem allMotions_get (m : Motion) : allMotions.get m = true := by cases m <;> rfl

/-- A STOP-ALL reported: its entry, and the effects on all four motions. -/
theorem stopAll_reported {src : Source} (s : State) :
    reportMomentary .stopAll src none s = tripEffects allMotions
      (reportedState (raiseMomentary s.alarms s.sequencer.record.arrangement .stopAll src none) s) := by
  rw [reportMomentary, takeReport_eq, applyClass_trip rfl, raiseMomentary_applied (by simp [alarmClass]), if_pos rfl]
  rfl

theorem dropped_not_lifted (b : BrakeRecord) : ¬Lifted (dropBrake b) := by
  obtain ⟨state⟩ := b
  cases state <;> simp [dropBrake, Lifted]

/-- A trip of all four motions, as a whole. -/
theorem tripEffects_all (s : State) :
    tripEffects allMotions s = { s with
      shaper := { s.shaper with
        motions := s.shaper.motions.map fun _ r => r.stopped
        references := { s.shaper.references with outputs := s.shaper.motions.map fun _ _ => 0 } }
      gate := { s.gate with brakes := s.gate.brakes.map fun _ b => dropBrake b }
      walk := { s.walk with walkLeft := 0, walkRight := 0 }
      sequencer := { s.sequencer with queue := [], mode := modeAfterTrip s.sequencer.mode } } := by
  rw [tripEffects_eq rfl]
  rfl

/-- No line leads to a motion whose brake is not lifted (R100, R110). -/
theorem lines_off_of_not_lifted {s : State} (running : s.power = .running) {m : Motion}
    (h : ¬Lifted (s.gate.brakes.get m)) : (linesOf s).brake.get m = false ∧ (linesOf s).runEnable.get m = false := by
  have off : brakeEnergised (s.gate.brakes.get m) = false := by rwa [← Bool.not_eq_true, brakeEnergised_iff]
  rw [linesOf_running running]
  simp [runEnabled, off]

/-- Settles O45: the momentary raise is entered and trips all four motions (`stopAll_reported`). -/
theorem stopAllStopsEverything : Obligations.StopAllStopsEverything := by
  unfold Obligations.StopAllStopsEverything
  intro s p src port free law
  have judged : judgeRequest p .stopAll s = (⟨.accepted, []⟩, reportMomentary .stopAll src none s) := by
    rcases port with ⟨rfl, rfl⟩ | ⟨rfl, rfl⟩ <;> rfl
  have table : inCodeTable .stopAll src = true := by rcases port with ⟨rfl, rfl⟩ | ⟨rfl, rfl⟩ <;> rfl
  have lawful := unitAfter_lawful s.sequencer.record.arrangement ((alarmListLaw_iff s).1 law)
    (r := .momentary .stopAll src none) table
  obtain ⟨e, mem, code, source, state, affected⟩ :=
    raiseMomentary_lists s.alarms s.sequencer.record.arrangement none (c := .stopAll) (src := src) (by simp [alarmClass])
  have cls : e.cls = .trip := by rw [(lawful.list.entries e mem).2, code, source]; rfl
  refine ⟨_, exec_delivers (kind := 0x84) rfl free rfl judged, rfl, ?_⟩
  rw [stopAll_reported, tripEffects_all]
  refine ⟨⟨e, mem, code, source, state, cls, affected⟩, fun m => ?_, rfl, rfl, modeAfterTrip_trippedTo _, rfl, rfl, ?_⟩
  · have idle : ¬Lifted (dropBrake (s.gate.brakes.get m)) := dropped_not_lifted _
    refine ⟨_, stopped_stoppedAtOnce _, ?_, ?_, ?_, ?_⟩
    · rw [settle_motion]
      simp [holdAnswer, State.withLink, reportedState]
    · simpa [holdAnswer, State.withLink, reportedState] using dropBrake_dropped _
    · simp [holdAnswer, State.withLink]
    · rw [settle_lines]
      refine lines_off_of_not_lifted ?_ ?_
      · exact free.1
      · simpa [holdAnswer, State.withLink, reportedState] using idle
  · rw [settle_lines, linesOf_running]
    · exact lawful.flags.2.2.trans ((hornSounds_iff _).2 ⟨e, mem, by simp [cls], by simp [state]⟩)
    · exact free.1

end Sys2Proof.Machine
end

section
/-! ACK-ALARM and DRIVE-STATE (R153, R159, R162): what an acknowledgement and the three values of the drives make of the
list and of the motions. -/

namespace Sys2Proof.Machine

/-! ### ACK-ALARM (R153) -/

theorem acknowledges_iff (a : Alarms) (named : AlarmEntry → Bool) :
    acknowledges a named = true ↔ ∃ e ∈ a.list, named e = true ∧ e.state ≠ .activeAck := by
  simp [acknowledges]

/-- An acknowledgement changes the unit's list, what the list forms, and the list-changed marks. -/
theorem takeAcknowledgement_follows (named : AlarmEntry → Bool) (s : State) : ∃ t, takeAcknowledgement named s = t ∧
    t.alarms.list = acknowledgeList s.alarms named ∧
    t.alarms = { s.alarms with
      list := t.alarms.list, hold := t.alarms.hold, limit := t.alarms.limit, horn := t.alarms.horn } ∧
    t = { s with
      alarms := t.alarms
      ports := { s.ports with
        a := { s.ports.a with listChanged := t.ports.a.listChanged }
        c := { s.ports.c with listChanged := t.ports.c.listChanged } } } ∧
    (t.ports.a.listChanged = true ↔
      s.ports.a.listChanged = true ∨ ∃ e ∈ s.alarms.list, named e = true ∧ e.state ≠ .activeAck) ∧
    (t.ports.c.listChanged = true ↔
      s.ports.c.listChanged = true ∨ ∃ e ∈ s.alarms.list, named e = true ∧ e.state ≠ .activeAck) := by
  refine ⟨_, takeReport_eq _ s, rfl, rfl, rfl, ?_, ?_⟩ <;>
    exact (Bool.or_eq_true _ _).to_iff.trans (or_congr_right (acknowledges_iff s.alarms named))

/-- Settles O46: the selector's cases, each the acknowledgement of what it names (`takeAcknowledgement_follows`). -/
theorem acknowledgementFollowsTheTable : Obligations.AcknowledgementFollowsTheTable := by
  unfold Obligations.AcknowledgementFollowsTheTable
  intro s code source free after taken refused
  have after_eq : after = acknowledge s.alarms.seconds := by
    funext e
    unfold acknowledge
    cases h : e.state <;> simp only [after, h]
  have takes (named : AlarmEntry → Bool)
      (judged : judgeRequest .a (.ackAlarm code source) s = (⟨.accepted, []⟩, takeAcknowledgement named s)) :
      taken named := by
    obtain ⟨t, rfl, follows⟩ := takeAcknowledgement_follows named s
    refine ⟨_, exec_delivers (kind := 0x85) rfl free (by simp [kindOf]) judged, ?_⟩
    rw [after_eq]
    exact follows
  have refuses (result : ResultCode)
      (judged : judgeRequest .a (.ackAlarm code source) s = (⟨result, []⟩, s)) : refused result :=
    exec_delivers (kind := 0x85) rfl free (by simp [kindOf]) judged
  have owner : judgeRequest .a (.ackAlarm code source) s = takeAckAlarm code source s := rfl
  rw [owner] at takes refuses
  refine ⟨fun all all' => takes _ ?_, fun c src hc hsrc => ?_, fun some' none' => refuses _ ?_⟩
  · rw [takeAckAlarm, if_pos ⟨all, all'⟩]
    rfl
  · have some' : ¬(code = absent ∧ source = absent) := by
      rintro ⟨rfl, rfl⟩
      cases hc
    have taking : takeAckAlarm code source s = if (findEntry s.alarms.list c src).isSome then
        done (takeAcknowledgement (fun e => e.isFor c src) s) else refuse .notFound s := by
      rw [takeAckAlarm, if_neg some', hc, hsrc]
    refine ⟨fun ⟨e, mem, hcode, hsource⟩ => takes _ ?_, fun spared => refuses _ ?_⟩
    · have found : (findEntry s.alarms.list c src).isSome = true := by
        rw [Option.isSome_iff_ne_none, ne_eq, findEntry_eq_none]
        exact fun absent => absent e mem hcode hsource
      rw [taking, if_pos found]
      rfl
    · rw [taking, (findEntry_eq_none _ _ _).2 spared]
      rfl
  · rw [takeAckAlarm, if_neg (show ¬(code = absent ∧ source = absent) from some')]
    rcases none' with h | h <;> rw [h]
    · rfl
    · cases alarmCodeOfCode code <;> rfl

/-! ### One entry through the reports of others -/

/-- The code and source a report is of. -/
def Report.key : Report → AlarmCode × Source
  | .raise c src _ => (c, src)
  | .momentary c src _ => (c, src)
  | .gone c src => (c, src)

theorem ListKept.findEntry_of_mem {l : List AlarmEntry} (h : ListKept l) {e : AlarmEntry} (mem : e ∈ l) :
    findEntry l e.code e.source = some e := by
  cases found : findEntry l e.code e.source with
  | none => exact absurd rfl ((findEntry_eq_none _ _ _).1 found e mem rfl)
  | some x =>
    obtain ⟨mem', code, source⟩ := findEntry_mem found
    rw [List.inj_on_of_nodup_map h.distinct mem' mem (Prod.ext code source)]

/-- In a lawful list the entry found is the one there is. -/
theorem ListKept.findEntry_iff {l : List AlarmEntry} (h : ListKept l) {c : AlarmCode} {src : Source} {e : AlarmEntry} :
    findEntry l c src = some e ↔ e ∈ l ∧ e.code = c ∧ e.source = src := by
  refine ⟨findEntry_mem, ?_⟩
  rintro ⟨mem, rfl, rfl⟩
  exact h.findEntry_of_mem mem

/-- The eviction spares what restrains (R152). -/
theorem findEntry_evictWarn_restraining {l : List AlarmEntry} (classed : ∀ e ∈ l, e.cls = alarmClass e.code e.source)
    {c : AlarmCode} {src : Source} (restrains : alarmClass c src ≠ .warn) :
    findEntry (evictWarn l) c src = findEntry l c src := by
  induction l with
  | nil => rfl
  | cons e rest ih =>
    unfold findEntry evictWarn at *
    by_cases warn : e.cls = .warn
    · have other : e.isFor c src = false := isFor_eq_false fun ⟨code, source⟩ => by
        rw [classed e List.mem_cons_self, code, source] at warn
        exact restrains warn
      rw [List.eraseP_cons_of_pos (by simp [warn]), List.find?_cons_of_neg (by simp [other])]
    · rw [List.eraseP_cons_of_neg (by simp [warn]), List.find?_cons, List.find?_cons,
        ih fun x hx => classed x (List.mem_cons_of_mem e hx)]

theorem findEntry_appendEntry_other {a : Alarms} (h : ListKept a.list) {n : AlarmEntry} {c : AlarmCode} {src : Source}
    (restrains : alarmClass c src ≠ .warn) (other : ¬(n.code = c ∧ n.source = src)) :
    findEntry (appendEntry a n).unit.list c src = findEntry a.list c src := by
  obtain ⟨room, dropped, evicted⟩ := appendEntry_cases a n
  have unfound := isFor_eq_false other
  rcases Nat.lt_or_ge a.list.length 32 with short | full
  · rw [room short, Alarms.withList_list, findEntry_append unfound]
  · by_cases warn : n.cls = .warn
    · rw [dropped full warn, Alarms.lose_list]
    · rw [evicted full warn, Alarms.withList_list, findEntry_append unfound,
        findEntry_evictWarn_restraining (fun e he => (h.entries e he).2) restrains]

/-- A report of another code or source leaves a restraining entry as it is (R149 to R152). -/
theorem findEntry_unitAfter_other (arr : Arrangement) {a : Alarms} (h : ListKept a.list) {c : AlarmCode} {src : Source}
    (restrains : alarmClass c src ≠ .warn) {r : Report} (other : r.key ≠ (c, src)) :
    findEntry (unitAfter arr a r).list c src = findEntry a.list c src := by
  have differs {c' : AlarmCode} {src' : Source} (h : (c', src') ≠ (c, src)) : ¬(c' = c ∧ src' = src) :=
    fun ⟨code, source⟩ => h (by rw [code, source])
  have changed {c' : AlarmCode} {src' : Source} (h : (c', src') ≠ (c, src)) (f : AlarmEntry → AlarmEntry)
      (keeps : ∀ e, (f e).key = e.key) : findEntry (changeEntry a.list c' src' f) c src = findEntry a.list c src :=
    findEntry_changeEntry (fun e => Prod.mk.inj (keeps e)) (differs h)
  cases r with
  | raise c' src' d =>
    rw [unitAfter]
    cases entry : findEntry a.list c' src' with
    | none =>
      obtain ⟨stays, appended⟩ := raiseHeld_absent entry arr d
      by_cases lost : a.hasLost c' src' = true
      · rw [stays lost]
      · rw [appended lost, findEntry_appendEntry_other h restrains (differs other)]
    | some e =>
      obtain ⟨reraised, same, detailed⟩ := raiseHeld_present entry arr d
      by_cases state : e.state = .clearedUnack
      · rw [reraised state, Alarms.withList_list]
        exact changed other _ fun _ => rfl
      · by_cases equal : e.detail = d
        · rw [same state equal]
        · rw [detailed state equal, Alarms.withList_list]
          exact changed other _ fun _ => rfl
  | momentary c' src' d =>
    rw [unitAfter]
    cases entry : findEntry a.list c' src' with
    | none => rw [raiseMomentary_absent entry, findEntry_appendEntry_other h restrains (differs other)]
    | some e =>
      rw [raiseMomentary_present entry, Alarms.withList_list]
      exact changed other _ fun _ => rfl
  | gone c' src' =>
    rw [unitAfter]
    cases entry : findEntry a.list c' src' with
    | none => rw [conditionGone_absent entry, Alarms.forget_list]
    | some e =>
      obtain ⟨unack, ack, cleared⟩ := conditionGone_present entry
      cases state : e.state with
      | activeUnack =>
        rw [unack state, Alarms.withList_list]
        exact changed other _ fun _ => rfl
      | activeAck => rw [ack state, Alarms.withList_list, findEntry_removeEntry (differs other)]
      | clearedUnack => rw [cleared state]

theorem takeReports_lawful {rs : List Report} (table : ∀ r ∈ rs, r.InTable) {s : State} (h : s.alarms.Lawful) :
    (takeReports rs s).alarms.Lawful := by
  induction rs generalizing s with
  | nil => exact h
  | cons r rest ih =>
    refine ih (fun x hx => table x (List.mem_cons_of_mem r hx)) ?_
    rw [Report.take_alarms]
    exact unitAfter_lawful _ h (table r List.mem_cons_self)

theorem findEntry_takeReports_other {rs : List Report} (table : ∀ r ∈ rs, r.InTable) {s : State} (h : s.alarms.Lawful)
    {c : AlarmCode} {src : Source} (restrains : alarmClass c src ≠ .warn) (other : ∀ r ∈ rs, r.key ≠ (c, src)) :
    findEntry (takeReports rs s).alarms.list c src = findEntry s.alarms.list c src := by
  induction rs generalizing s with
  | nil => rfl
  | cons r rest ih =>
    have lawful : (r.take s).alarms.Lawful := by
      rw [Report.take_alarms]
      exact unitAfter_lawful _ h (table r List.mem_cons_self)
    have rest' := ih (fun x hx => table x (List.mem_cons_of_mem r hx)) lawful
      fun x hx => other x (List.mem_cons_of_mem r hx)
    rw [Report.take_alarms, findEntry_unitAfter_other _ h.list restrains (other r List.mem_cons_self)] at rest'
    exact rest'

/-! ### One entry through its own report -/

/-- A raise where no active entry stands leaves one in ACTIVE-UNACK, with the motions it affects now (R149). -/
theorem raiseHeld_fresh (a : Alarms) (arr : Arrangement) {c : AlarmCode} {src : Source} (d : Option Detail)
    (restrains : alarmClass c src ≠ .warn) (quiet : ∀ e, findEntry a.list c src = some e → e.state = .clearedUnack) :
    ∃ e ∈ (raiseHeld a arr c src d).unit.list,
      e.code = c ∧ e.source = src ∧ e.state = .activeUnack ∧ e.affected = affectedMotions arr c src := by
  cases entry : findEntry a.list c src with
  | none =>
    rw [(raiseHeld_absent entry arr d).2 (by simp [hasLost_of_restrains restrains])]
    exact ⟨_, mem_appendEntry a restrains, rfl, rfl, rfl, rfl⟩
  | some e =>
    rw [(raiseHeld_present entry arr d).1 (quiet e entry)]
    obtain ⟨mem, code, source⟩ := exists_changed entry (f := reRaise a arr d .activeUnack) rfl
    refine ⟨_, mem, code, source, rfl, ?_⟩
    obtain ⟨-, code, source⟩ := findEntry_mem entry
    rw [← code, ← source]
    rfl

/-- A condition gone leaves no active entry (R150). -/
theorem conditionGone_inactive {a : Alarms} (h : ListKept a.list) {c : AlarmCode} {src : Source} {e : AlarmEntry}
    (mem : e ∈ (conditionGone a c src).unit.list) (code : e.code = c) (source : e.source = src) :
    e.state = .clearedUnack := by
  cases entry : findEntry a.list c src with
  | none =>
    rw [conditionGone_absent entry] at mem
    exact absurd source ((findEntry_eq_none _ _ _).1 entry e mem code)
  | some x =>
    obtain ⟨unack, ack, cleared⟩ := conditionGone_present entry
    cases state : x.state with
    | activeUnack =>
      rw [unack state] at mem
      obtain ⟨y, -, rfl⟩ := List.mem_map.1 mem
      split at code
      · next is => rw [if_pos is]
      · next isNot =>
        rw [if_neg isNot] at source
        exact absurd ((AlarmEntry.isFor_iff _ _ _).2 ⟨code, source⟩) isNot
    | activeAck =>
      rw [ack state] at mem
      have isNot := (List.mem_filter.1 mem).2
      rw [(AlarmEntry.isFor_iff _ _ _).2 ⟨code, source⟩] at isNot
      cases isNot
    | clearedUnack =>
      rw [cleared state] at mem
      rw [← state, Option.some.inj ((h.findEntry_iff.2 ⟨mem, code, source⟩).symm.trans entry)]

/-! ### What a chain of reports trips (R155) -/

/-- Whether a report hands on the effects of a TRIP entry that affects a motion (R149, R151, R155). -/
def Report.Trips (s : State) (m : Motion) : Report → Prop
  | .raise c src _ => (alarmClass c src = .trip ∧ (affectedMotions s.sequencer.record.arrangement c src).get m = true) ∧
      ∀ e, findEntry s.alarms.list c src = some e → e.state = .clearedUnack
  | .momentary c src _ => alarmClass c src = .trip ∧ (affectedMotions s.sequencer.record.arrangement c src).get m = true
  | .gone _ _ => False

theorem Report.Trips.mayTrip {r : Report} {s : State} {m : Motion} (h : r.Trips s m) :
    r.MayTrip s.sequencer.record.arrangement m := by
  cases r with
  | raise c src d => exact h.1
  | momentary c src d => exact h
  | gone c src => exact h

/-- A trip that affects a motion, and one that does not. -/
theorem tripEffects_of_affects {ms : PerMotion Bool} (s : State) {m : Motion} (affects : ms.get m = true) :
    (tripEffects ms s).shaper.motions.get m = (s.shaper.motions.get m).stopped ∧
    (tripEffects ms s).gate.brakes.get m = dropBrake (s.gate.brakes.get m) := by
  obtain ⟨motion, brake, -⟩ := tripEffects_motion ((PerMotion.any_iff ms).2 ⟨m, affects⟩) s m
  rw [motion, brake, if_pos affects, if_pos affects]
  exact ⟨rfl, rfl⟩

/-- One report at one motion. -/
theorem Report.take_motion (r : Report) (s : State) (m : Motion) :
    (r.Trips s m → (r.take s).shaper.motions.get m = (s.shaper.motions.get m).stopped ∧
      (r.take s).gate.brakes.get m = dropBrake (s.gate.brakes.get m)) ∧
    (¬r.Trips s m → (r.take s).shaper.motions.get m = s.shaper.motions.get m ∧
      (r.take s).gate.brakes.get m = s.gate.brakes.get m) := by
  refine ⟨fun trips => ?_, fun spared => ?_⟩
  · cases r with
    | raise c src d =>
      obtain ⟨⟨trip, affects⟩, quiet⟩ := trips
      rw [Report.take, reportRaise, takeReport_eq, applyClass_trip trip,
        (raiseHeld_applied (by simp [trip]) _ d).1 quiet, if_pos rfl]
      exact tripEffects_of_affects _ affects
    | momentary c src d =>
      obtain ⟨trip, affects⟩ := trips
      rw [Report.take, reportMomentary, takeReport_eq, applyClass_trip trip, raiseMomentary_applied (by simp [trip]),
        if_pos rfl]
      exact tripEffects_of_affects _ affects
    | gone c src => exact trips.elim
  · by_cases may : r.MayTrip s.sequencer.record.arrangement m
    · cases r with
      | raise c src d =>
        have active : ∃ e, findEntry s.alarms.list c src = some e ∧ e.state ≠ .clearedUnack := by
          by_contra none
          exact spared ⟨may, fun e he => by_contra fun state => none ⟨e, he, state⟩⟩
        obtain ⟨e, entry, state⟩ := active
        rw [Report.take, reportRaise, takeReport_eq, applyClass_trip may.1,
          (raiseHeld_applied (by simp [may.1]) _ d).2 e entry state, if_neg Bool.false_ne_true]
        exact ⟨rfl, rfl⟩
      | momentary c src d => exact absurd may spared
      | gone c src => exact may.elim
    · obtain ⟨motion, brake, -⟩ := Report.take_spares may
      exact ⟨motion, brake⟩

theorem dropped_of_dropped_dropBrake {b b' : BrakeRecord} (h : dropped (dropBrake b) b') : dropped b b' :=
  dropped_trans (Or.inl rfl) h

/-- Reports of different codes and sources stop a motion exactly where one of them trips it. -/
theorem takeReports_motion {rs : List Report} (table : ∀ r ∈ rs, r.InTable) (keys : (rs.map Report.key).Nodup)
    {s : State} (h : s.alarms.Lawful) (m : Motion) :
    ((∃ r ∈ rs, r.Trips s m) → (takeReports rs s).shaper.motions.get m = (s.shaper.motions.get m).stopped ∧
      dropped (s.gate.brakes.get m) ((takeReports rs s).gate.brakes.get m)) ∧
    ((∀ r ∈ rs, ¬r.Trips s m) → (takeReports rs s).shaper.motions.get m = s.shaper.motions.get m ∧
      (takeReports rs s).gate.brakes.get m = s.gate.brakes.get m) := by
  induction rs generalizing s with
  | nil => exact ⟨fun ⟨r, mem, _⟩ => (nomatch mem), fun _ => ⟨rfl, rfl⟩⟩
  | cons r rest ih =>
    rw [List.map_cons, List.nodup_cons] at keys
    obtain ⟨fresh, keys⟩ := keys
    have lawful : (r.take s).alarms.Lawful := by
      rw [Report.take_alarms]
      exact unitAfter_lawful _ h (table r List.mem_cons_self)
    obtain ⟨stops, spares⟩ := ih (fun x hx => table x (List.mem_cons_of_mem r hx)) keys lawful
    obtain ⟨first, unfirst⟩ := r.take_motion s m
    have same (x : Report) (hx : x ∈ rest) : x.Trips (r.take s) m ↔ x.Trips s m := by
      have record := (takeReports_reports [r] s).record
      have record : (r.take s).sequencer.record = s.sequencer.record := record
      have other : r.key ≠ x.key := fun eq => fresh (eq ▸ List.mem_map_of_mem hx)
      cases x with
      | raise c src d =>
        simp only [Report.Trips, record]
        refine and_congr_right fun ⟨trip, _⟩ => ?_
        rw [Report.take_alarms, findEntry_unitAfter_other _ h.list (by simp [trip]) other]
      | momentary c src d => simp only [Report.Trips, record]
      | gone c src => exact Iff.rfl
    change ((∃ x ∈ r :: rest, x.Trips s m) → (takeReports rest (r.take s)).shaper.motions.get m = _ ∧
      dropped _ ((takeReports rest (r.take s)).gate.brakes.get m)) ∧ (_ →
      (takeReports rest (r.take s)).shaper.motions.get m = _ ∧ (takeReports rest (r.take s)).gate.brakes.get m = _)
    refine ⟨fun some' => ?_, fun none' => ?_⟩
    · by_cases later : ∃ x ∈ rest, x.Trips (r.take s) m
      · obtain ⟨motion, brake⟩ := stops later
        by_cases now : r.Trips s m
        · obtain ⟨motion', brake'⟩ := first now
          rw [motion, motion']
          exact ⟨rfl, dropped_of_dropped_dropBrake (brake' ▸ brake)⟩
        · obtain ⟨motion', brake'⟩ := unfirst now
          rw [motion, motion']
          exact ⟨rfl, brake' ▸ brake⟩
      · obtain ⟨motion, brake⟩ := spares fun x hx trips => later ⟨x, hx, trips⟩
        have now : r.Trips s m := by
          obtain ⟨x, hx, trips⟩ := some'
          rcases List.mem_cons.1 hx with rfl | hx
          · exact trips
          · exact absurd ⟨x, hx, (same x hx).2 trips⟩ later
        obtain ⟨motion', brake'⟩ := first now
        rw [motion, motion', brake, brake']
        exact ⟨rfl, Or.inl rfl⟩
    · obtain ⟨motion, brake⟩ := spares fun x hx trips => none' x (List.mem_cons_of_mem r hx) ((same x hx).1 trips)
      obtain ⟨motion', brake'⟩ := unfirst (none' r List.mem_cons_self)
      rw [motion, motion', brake, brake']
      exact ⟨rfl, rfl⟩

/-- A report before others of other codes and sources: what it makes of the list stands at the end. -/
theorem takeReports_findEntry_last {pre post : List Report} {r : Report} (table : ∀ x ∈ pre ++ r :: post, x.InTable)
    {s : State} (h : s.alarms.Lawful) {c : AlarmCode} {src : Source} (restrains : alarmClass c src ≠ .warn)
    (after : ∀ x ∈ post, x.key ≠ (c, src)) : (takeReports pre s).alarms.Lawful ∧
      findEntry (takeReports (pre ++ r :: post) s).alarms.list c src =
        findEntry (unitAfter s.sequencer.record.arrangement (takeReports pre s).alarms r).list c src := by
  have lawful : (takeReports pre s).alarms.Lawful :=
    takeReports_lawful (fun x hx => table x (List.mem_append_left _ hx)) h
  have taken : (r.take (takeReports pre s)).alarms =
      unitAfter s.sequencer.record.arrangement (takeReports pre s).alarms r := by
    rw [Report.take_alarms, (takeReports_reports pre s).record]
  refine ⟨lawful, ?_⟩
  rw [takeReports_append, ← taken]
  refine findEntry_takeReports_other (rs := post) (s := r.take (takeReports pre s))
    (fun x hx => table x (List.mem_append_right _ (List.mem_cons_of_mem r hx))) ?_ restrains after
  rw [taken]
  exact unitAfter_lawful _ lawful (table r (List.mem_append_right _ List.mem_cons_self))

/-- A report among others of other codes and sources: what it makes of the list before it stands at the end. -/
theorem takeReports_findEntry {rs : List Report} (table : ∀ r ∈ rs, r.InTable) (keys : (rs.map Report.key).Nodup)
    {s : State} (h : s.alarms.Lawful) {r : Report} (mem : r ∈ rs) {c : AlarmCode} {src : Source} (key : r.key = (c, src))
    (restrains : alarmClass c src ≠ .warn) : ∃ a : Alarms, a.Lawful ∧
      findEntry a.list c src = findEntry s.alarms.list c src ∧
      findEntry (takeReports rs s).alarms.list c src =
        findEntry (unitAfter s.sequencer.record.arrangement a r).list c src := by
  obtain ⟨pre, post, rfl⟩ := List.append_of_mem mem
  rw [List.map_append, List.map_cons, List.nodup_append, List.nodup_cons] at keys
  obtain ⟨-, ⟨unlater, -⟩, unearlier⟩ := keys
  have before : ∀ x ∈ pre, x.key ≠ (c, src) := fun x hx eq =>
    unearlier _ (List.mem_map_of_mem hx) _ List.mem_cons_self (eq.trans key.symm)
  have after : ∀ x ∈ post, x.key ≠ (c, src) := fun x hx eq =>
    unlater (key.trans eq.symm ▸ List.mem_map_of_mem hx)
  obtain ⟨lawful, last⟩ := takeReports_findEntry_last table h restrains after
  exact ⟨_, lawful,
    findEntry_takeReports_other (fun x hx => table x (List.mem_append_left _ hx)) h restrains before, last⟩

/-- A restraining momentary raise before reports of other codes and sources leaves its entry in CLEARED-UNACK (R151). -/
theorem takeReports_momentary {pre post : List Report} {c : AlarmCode} {src : Source} {d : Option Detail}
    (table : ∀ x ∈ pre ++ .momentary c src d :: post, x.InTable) {s : State} (h : s.alarms.Lawful)
    (restrains : alarmClass c src ≠ .warn) (after : ∀ x ∈ post, x.key ≠ (c, src)) :
    ∃ e ∈ (takeReports (pre ++ .momentary c src d :: post) s).alarms.list, e.code = c ∧ e.source = src ∧
      e.state = .clearedUnack ∧ e.cls = alarmClass c src ∧
      e.affected = affectedMotions s.sequencer.record.arrangement c src := by
  obtain ⟨lawful, last⟩ := takeReports_findEntry_last table h restrains after
  have raised := (unitAfter_lawful s.sequencer.record.arrangement lawful
    (table _ (List.mem_append_right _ List.mem_cons_self))).list
  obtain ⟨e, he, code, source, state, affected⟩ :=
    raiseMomentary_lists (takeReports pre s).alarms s.sequencer.record.arrangement d restrains
  refine ⟨e, (findEntry_mem (last.trans (raised.findEntry_iff.2 ⟨he, code, source⟩))).1, code, source, state, ?_, affected⟩
  rw [(raised.entries e he).2, code, source]

/-- A restraining raise among reports of other codes and sources leaves an active entry, a new or re-raised one where
none was active (R149). -/
theorem takeReports_raised {rs : List Report} (table : ∀ r ∈ rs, r.InTable) (keys : (rs.map Report.key).Nodup)
    {s : State} (h : s.alarms.Lawful) {c : AlarmCode} {src : Source} {d : Option Detail} (mem : .raise c src d ∈ rs)
    (restrains : alarmClass c src ≠ .warn) :
    (∃ e ∈ (takeReports rs s).alarms.list, e.code = c ∧ e.source = src ∧ e.state ≠ .clearedUnack) ∧
    ((∀ e ∈ s.alarms.list, e.code = c → e.source = src → e.state = .clearedUnack) →
      ∃ e ∈ (takeReports rs s).alarms.list, e.code = c ∧ e.source = src ∧ e.state = .activeUnack ∧
        e.cls = alarmClass c src ∧ e.affected = affectedMotions s.sequencer.record.arrangement c src) := by
  obtain ⟨a, lawful, before, after⟩ := takeReports_findEntry table keys h mem rfl restrains
  have raised := (unitAfter_lawful s.sequencer.record.arrangement lawful (table _ mem)).list
  have final := (takeReports_lawful table h).list
  have stands {e : AlarmEntry} (he : e ∈ (raiseHeld a s.sequencer.record.arrangement c src d).unit.list)
      (code : e.code = c) (source : e.source = src) : e ∈ (takeReports rs s).alarms.list :=
    (findEntry_mem (after.trans (raised.findEntry_iff.2 ⟨he, code, source⟩))).1
  refine ⟨?_, fun quiet => ?_⟩
  · obtain ⟨e, he, code, source, state⟩ := raiseHeld_lists a s.sequencer.record.arrangement d restrains
    exact ⟨e, stands he code source, code, source, state⟩
  · have quiet (e : AlarmEntry) (he : findEntry a.list c src = some e) : e.state = .clearedUnack := by
      obtain ⟨he, code, source⟩ := findEntry_mem (before.symm.trans he)
      exact quiet e he code source
    obtain ⟨e, he, code, source, state, affected⟩ := raiseHeld_fresh a s.sequencer.record.arrangement d restrains quiet
    refine ⟨e, stands he code source, code, source, state, ?_, affected⟩
    rw [(raised.entries e he).2, code, source]

/-- A restraining condition gone among reports of other codes and sources leaves no active entry (R150). -/
theorem takeReports_ended {rs : List Report} (table : ∀ r ∈ rs, r.InTable) (keys : (rs.map Report.key).Nodup)
    {s : State} (h : s.alarms.Lawful) {c : AlarmCode} {src : Source} (mem : .gone c src ∈ rs)
    (restrains : alarmClass c src ≠ .warn) {e : AlarmEntry} (he : e ∈ (takeReports rs s).alarms.list)
    (code : e.code = c) (source : e.source = src) : e.state = .clearedUnack := by
  obtain ⟨a, lawful, -, after⟩ := takeReports_findEntry table keys h mem rfl restrains
  have found := after.symm.trans ((takeReports_lawful table h).list.findEntry_iff.2 ⟨he, code, source⟩)
  exact conditionGone_inactive lawful.list (findEntry_mem found).1 code source

/-! ### DRIVE-STATE (R159) -/

/-- The reports of the DRIVE-FAULT conditions are those that appear and those that end. -/
theorem mem_driveFaultReports {before after : PerGroup Bool} {r : Report} : r ∈ driveFaultReports before after ↔ ∃ g,
    (r = .raise .driveFault (.group g) none ∧ after.get g = true ∧ before.get g = false) ∨
    (r = .gone .driveFault (.group g) ∧ after.get g = false ∧ before.get g = true) := by
  have group (g : Group) : r ∈ changeReports .driveFault (.group g) (bare (before.get g)) (bare (after.get g)) ↔
      (r = .raise .driveFault (.group g) none ∧ after.get g = true ∧ before.get g = false) ∨
      (r = .gone .driveFault (.group g) ∧ after.get g = false ∧ before.get g = true) := by
    cases before.get g <;> cases after.get g <;> simp [changeReports, bare]
  simp only [driveFaultReports, List.mem_flatMap, group]
  refine exists_congr fun g => and_iff_right ?_
  cases g <;> simp

theorem driveFaultReports_keys (before after : PerGroup Bool) :
    ((driveFaultReports before after).map Report.key).Nodup := by
  have group (g : Group) : List.Sublist
      ((changeReports .driveFault (.group g) (bare (before.get g)) (bare (after.get g))).map Report.key)
      [(AlarmCode.driveFault, Source.group g)] := by
    cases before.get g <;> cases after.get g <;> simp [changeReports, bare, Report.key]
  have all := ((group .hg).append (group .dg)).append (group .sg)
  refine List.Nodup.sublist (l₂ := [(AlarmCode.driveFault, Source.group .hg), (.driveFault, .group .dg),
    (.driveFault, .group .sg)]) ?_ (by decide)
  simpa [driveFaultReports] using all

theorem fedBy_spares (g : Group) (arr : Arrangement) : ∃ m, (fedBy g arr).get m = false := by
  cases g with
  | sg => exact ⟨.hoist, rfl⟩
  | hg => exact ⟨.swing, by cases arr <;> rfl⟩
  | dg => exact ⟨.swing, by cases arr <;> rfl⟩

/-- No chain of DRIVE-FAULT reports affects all four motions. -/
theorem driveFaultReports_sequencer (before after : PerGroup Bool) (s : State) :
    (takeReports (driveFaultReports before after) s).sequencer = s.sequencer := by
  refine takeReports_sequencer fun r hr => ?_
  obtain ⟨g, ⟨rfl, -⟩ | ⟨rfl, -⟩⟩ := mem_driveFaultReports.1 hr
  · obtain ⟨m, spared⟩ := fedBy_spares g s.sequencer.record.arrangement
    exact ⟨m, fun may => Bool.false_ne_true (spared.symm.trans may.2)⟩
  · exact ⟨.hoist, id⟩

/-- The reports of DRIVE-FAULT trip a motion exactly where DriveFaultTrips has it. -/
theorem driveFaultReports_trips {s base : State} (list : base.alarms.list = s.alarms.list) (h : ListKept s.alarms.list)
    (record : base.sequencer.record = s.sequencer.record) (m : Motion) :
    (∃ r ∈ driveFaultReports s.alarms.driveFault base.alarms.driveFault, r.Trips base m) ↔ DriveFaultTrips s base m := by
  have quiet (g : Group) : (∀ e, findEntry s.alarms.list .driveFault (.group g) = some e → e.state = .clearedUnack) ↔
      ∀ e ∈ s.alarms.list, e.code = .driveFault → e.source = .group g → e.state = .clearedUnack := by
    simp only [h.findEntry_iff, and_imp]
  constructor
  · rintro ⟨r, hr, trips⟩
    obtain ⟨g, ⟨rfl, now, was⟩ | ⟨rfl, -⟩⟩ := mem_driveFaultReports.1 hr
    · obtain ⟨⟨-, affects⟩, none⟩ := trips
      rw [record] at affects
      rw [list] at none
      exact ⟨g, now, was, affects, (quiet g).1 none⟩
    · exact trips.elim
  · rintro ⟨g, now, was, affects, none⟩
    refine ⟨_, mem_driveFaultReports.2 ⟨g, .inl ⟨rfl, now, was⟩⟩, ⟨rfl, ?_⟩, ?_⟩
    · rw [record]
      exact affects
    · rw [list]
      exact (quiet g).2 none

/-- A brake that keeps its law is dropped once by any number of drop orders. -/
theorem Dropped.of_dropped {b b' : BrakeRecord} (remembered : b.remembered = true → b.state = .setting)
    (h : dropped b b') : Dropped b b' := by
  rcases h with rfl | rfl
  · exact dropBrake_dropped b
  · obtain ⟨state, line, feedback, count, idle, rem, fail⟩ := b
    cases state <;> cases rem <;> simp_all [dropBrake, Dropped]

theorem not_lifted_of_dropped {b b' : BrakeRecord} (h : dropped b b') : ¬Lifted b' := by
  rcases h with rfl | rfl <;> exact dropped_not_lifted _

theorem holdAnswer_keeps (p : Port) (r : Request) (kind : Byte) (result : ResultCode) (data : List Byte) (s : State) :
    (holdAnswer p r kind result data s).shaper = s.shaper ∧ (holdAnswer p r kind result data s).gate = s.gate ∧
    (holdAnswer p r kind result data s).sequencer = s.sequencer ∧ (holdAnswer p r kind result data s).alarms = s.alarms :=
  ⟨rfl, rfl, rfl, rfl⟩

theorem formedReadiness_lawful {s base : State} {r : PerGroup Readiness} (formed : ReadinessFormed s base r)
    (h : s.alarms.Lawful) : base.alarms.Lawful ∧ base.alarms.list = s.alarms.list := by
  rw [formed.rest]
  exact ⟨⟨h.list, h.flags, h.lost⟩, rfl⟩

/-- A motion and its brake through the reports of a DRIVE-STATE. -/
theorem formedReadiness_motion {s base : State} {r : PerGroup Readiness} (formed : ReadinessFormed s base r)
    (h : s.alarms.Lawful) (m : Motion) :
    (DriveFaultTrips s base m →
      (takeReports (driveFaultReports s.alarms.driveFault base.alarms.driveFault) base).shaper.motions.get m =
        (base.shaper.motions.get m).stopped ∧
      dropped (base.gate.brakes.get m)
        ((takeReports (driveFaultReports s.alarms.driveFault base.alarms.driveFault) base).gate.brakes.get m)) ∧
    (¬DriveFaultTrips s base m →
      (takeReports (driveFaultReports s.alarms.driveFault base.alarms.driveFault) base).shaper.motions.get m =
        base.shaper.motions.get m ∧
      (takeReports (driveFaultReports s.alarms.driveFault base.alarms.driveFault) base).gate.brakes.get m =
        base.gate.brakes.get m) := by
  obtain ⟨lawful, list⟩ := formedReadiness_lawful formed h
  have record : base.sequencer.record = s.sequencer.record := by rw [formed.rest]
  have trips := driveFaultReports_trips list h.list record m
  obtain ⟨stops, spares⟩ := takeReports_motion (driveFaultReports_inTable s.alarms.driveFault base.alarms.driveFault)
    (driveFaultReports_keys _ _) lawful m
  refine ⟨fun some' => stops (trips.2 some'), fun none' => spares fun x hx hit => none' (trips.1 ⟨x, hx, hit⟩)⟩

/-- Settles O47: the blocks formed (`formedReadiness_formed`), and the entries, the trips and the sequencer after exactly
the reports of DRIVE-FAULT (`takeReports_raised`, `takeReports_ended`, `formedReadiness_motion`). -/
theorem driveStateIsTaken : Obligations.DriveStateIsTaken := by
  unfold Obligations.DriveStateIsTaken
  intro s values r free drive law hg dg sg
  have lawful := (alarmListLaw_iff s).1 law
  have formed := formedReadiness_formed s r
  have counted (h : BrakeLaw s) : BrakeLaw (formedReadiness r s) := (Base.readiness r).brakeLaw h
  have told := takeReadiness_told r s
  unfold Told at told
  have judged : judgeRequest .b (.driveState values) s =
      (⟨.accepted, [motionByte (PerMotion.of (inService (takeReadiness r s)))]⟩, takeReadiness r s) := by
    change takeDriveState values s = _
    rw [takeDriveState, readinessOf, hg, dg, sg]
  have ran := exec_delivers (c := .driveState .b values) (kind := 0x8B) rfl free (by simp [kindOf]) judged
  rw [told] at ran
  generalize formedReadiness r s = base at *
  generalize takeReadiness r s = taken at *
  subst told
  obtain ⟨lawful', list⟩ := formedReadiness_lawful formed lawful
  have table := driveFaultReports_inTable s.alarms.driveFault base.alarms.driveFault
  have keys := driveFaultReports_keys s.alarms.driveFault base.alarms.driveFault
  have reports := takeReports_reports (driveFaultReports s.alarms.driveFault base.alarms.driveFault) base
  have sequencer := driveFaultReports_sequencer s.alarms.driveFault base.alarms.driveFault base
  have motions := formedReadiness_motion formed lawful
  have baseSequencer : base.sequencer = s.sequencer := by rw [formed.rest]
  have baseAlarms : base.alarms = { s.alarms with driveReport := r, driveFault := base.alarms.driveFault } :=
    congrArg State.alarms formed.rest
  have baseReadiness : base.shaper.readiness = r := by rw [formed.rest]
  have affected (g : Group) : affectedMotions base.sequencer.record.arrangement .driveFault (.group g) =
      fedBy g s.sequencer.record.arrangement := by rw [baseSequencer]; rfl
  have raised := fun g => takeReports_raised (d := none) (c := .driveFault) (src := .group g) table keys lawful'
  have gone := fun g => takeReports_ended (c := .driveFault) (src := .group g) table keys lawful'
  generalize unit : takeReports (driveFaultReports s.alarms.driveFault base.alarms.driveFault) base = u at *
  have readiness : u.shaper.readiness = r := reports.readiness.trans baseReadiness
  have report : u.alarms.driveReport = r := reports.driveReport.trans (by rw [baseAlarms])
  have sequencer := sequencer.trans baseSequencer
  have serves (m : Motion) : MayServe u m ↔ MayServe { s with shaper := { s.shaper with readiness := r } } m :=
    mayServe_congr (s := { s with shaper := { s.shaper with readiness := r } }) sequencer readiness m
  have shown : (settle (holdAnswer .b (.driveState values) 0x8B .accepted
      [motionByte (PerMotion.of (inService u))] u)).shaper.motions.map (fun _ x => x.inService) =
        PerMotion.of (inService u) := by
    refine PerMotion.ext_get fun m => ?_
    rw [PerMotion.get_map, settle_motion, PerMotion.get_of]
    rfl
  generalize ended : settle (holdAnswer .b (.driveState values) 0x8B .accepted
    [motionByte (PerMotion.of (inService u))] u) = t at *
  have gate : t.gate = u.gate := by rw [← ended]; rfl
  have alarms : t.alarms = u.alarms := by rw [← ended]; rfl
  have references : t.shaper.references = u.shaper.references := by rw [← ended]; rfl
  have motion (m : Motion) : t.shaper.motions.get m =
      { u.shaper.motions.get m with inService := (t.shaper.motions.get m).inService } := by
    rw [← ended, settle_motion]
    rfl
  have endedSequencer : t.sequencer.mode = s.sequencer.mode ∧ t.sequencer.queue = s.sequencer.queue ∧
      t.sequencer.record = s.sequencer.record := by
    rw [← ended, ← sequencer]
    exact ⟨rfl, rfl, rfl⟩
  obtain ⟨mode, queue, record⟩ := endedSequencer
  have endedReadiness : t.shaper.readiness = r := by rw [← ended, ← readiness]; rfl
  have serves (m : Motion) : MayServe t m ↔ MayServe { s with shaper := { s.shaper with readiness := r } } m := by
    rw [← serves, ← ended, ← inService_iff, ← inService_iff, settle_inService]
    rfl
  have faults : t.alarms.driveFault = base.alarms.driveFault := by rw [alarms, reports.driveFault]
  refine ⟨t, base, ran, formed, by rw [shown, unit, ended], endedReadiness, ?_, fun g now was => ?_, fun g now was e he => ?_, ?_,
    fun m output served unserved => ?_, fun m => ⟨fun trips => ?_, fun spared => ?_⟩, record, mode, queue, ?_⟩
  · refine ⟨by rw [endedReadiness, alarms, report], fun g => ?_⟩
    rw [faults, formed.fault g, alarms, report, record]
  · rw [faults] at now
    obtain ⟨stands, fresh⟩ := raised g (mem_driveFaultReports.2 ⟨g, .inl ⟨rfl, now, was⟩⟩) (by simp [alarmClass])
    rw [list, affected] at fresh
    rw [alarms]
    exact ⟨stands, fresh⟩
  · rw [faults] at now
    rw [alarms] at he
    exact gone g (mem_driveFaultReports.2 ⟨g, .inr ⟨rfl, now, was⟩⟩) (by simp [alarmClass]) he
  · rw [faults, alarms, alarmsAfter_eq, ← unit]
    exact (alarmsAfter_eq _ base).trans (by rw [baseSequencer, baseAlarms])
  · have lost : LosesService s r m := ⟨output, served, mt (serves m).2 unserved⟩
    obtain ⟨zeroed, drops⟩ := formed.lost m lost
    have still : (u.shaper.motions.get m).output = 0 ∧ (u.shaper.motions.get m).target = 0 ∧
        (u.shaper.motions.get m).dwell = 0 ∧ (u.shaper.motions.get m).reversalPending = false := by
      rcases reports.motion m with ⟨same, -⟩ | ⟨same, -⟩ <;> rw [same, zeroed] <;> exact ⟨rfl, rfl, rfl, rfl⟩
    have idle : ¬Lifted (u.gate.brakes.get m) := by
      rcases reports.motion m with ⟨-, same⟩ | ⟨-, drops'⟩
      · rw [same, drops.eq_dropBrake]
        exact dropped_not_lifted _
      · exact not_lifted_of_dropped drops'
    have published : u.shaper.references.outputs.get m = 0 := by
      rcases reports.published with ⟨-, same⟩ | same
      · rw [same, formed.republished.1 ⟨m, lost⟩ m, zeroed]
      · rw [same, outputsOf, PerMotion.get_map, still.1]
    rw [motion, gate, references]
    exact ⟨still.1, still.2.1, still.2.2.1, still.2.2.2, published, idle⟩
  · obtain ⟨stopped, drops⟩ := (motions m).1 trips
    rw [motion, gate, stopped]
    refine ⟨stopped_stoppedAtOnce _, not_lifted_of_dropped drops, fun law => Dropped.of_dropped ?_ drops⟩
    exact (counted law m).2.2
  · obtain ⟨same, sameBrake⟩ := (motions m).2 spared
    have permit : (base.shaper.motions.get m).permit = (s.shaper.motions.get m).permit := by
      by_cases lost : LosesService s r m
      · rw [(formed.lost m lost).1]
      · rw [(formed.kept m lost).1]
    refine ⟨?_, by rw [gate, sameBrake], ?_, fun kept => ?_⟩
    · rw [← same]
      exact motion m
    · rw [motion, same]
      exact permit
    · have kept : ¬LosesService s r m := fun ⟨output, served, unserved⟩ => by
        rcases kept with serving | still | unserving
        · exact unserved ((serves m).1 serving)
        · exact output still
        · exact unserving served
      obtain ⟨motion', brake⟩ := formed.kept m kept
      rw [motion, gate, same, sameBrake, motion', brake]
      exact ⟨rfl, rfl⟩
  · rw [shown, ← ended]
    rfl

end Sys2Proof.Machine
end

section
/-! Supply, reset and the store (11), and the single edges, seconds and marks (01, 09): what cuts a write off, what a
completed write leaves in the memory and at its owner, and that the reset values keep every law. -/

namespace Sys2Proof.Machine

/-! ### Reset -/

theorem memory_factory_profiles : Memory.factory.ProfilesInRange :=
  by
  obtain ⟨common, part⟩ := factoryProfiles_inRange
  unfold Memory.ProfilesInRange
  rw [Memory.factory_load]
  simpa using ⟨common, part⟩

theorem memory_factory_zones : Memory.factory.ZonesInRange := by
  refine (Memory.zonesInRange_iff _).2 ⟨by simp [Memory.factory, Config.zonePositions], fun i r hr => ?_⟩
  obtain ⟨j, hj, rfl⟩ := Option.map_eq_some_iff.1 ((List.getElem?_map).symm.trans hr)
  obtain ⟨hi, rfl⟩ := List.getElem?_eq_some_iff.1 hj
  rw [List.getElem_range]
  exact forall_mem_sealed (R := fun entry => ∀ z ∈ entry, ZoneInRange z) _ fun z hz => by cases hz

theorem settle_reset : settle State.reset = State.reset := by rfl

/-- Settles O9: each law at the reset values, by the lemmas of its block. -/
theorem resetIsSafe : Obligations.ResetIsSafe := by
  unfold Obligations.ResetIsSafe Safe
  have guarded : Guarded State.reset := guarded_of_reset rfl
  have output (m : Motion) : (State.reset.shaper.motions.get m).output = 0 := by cases m <;> rfl
  refine ⟨settle_reset ▸ settle_coherent State.reset, (alarmListLaw_iff _).2 guarded.1, guarded.2, ?_,
    outputLaw_of_still output, publishedLaw_of_zero rfl output rfl rfl, queueLaw_of_empty rfl,
    orderLaw_of_reset rfl rfl rfl rfl, ?_, ?_, ?_, ?_, driveLaw_of_reset rfl rfl⟩
  · exact (profileLaw_iff _).2 ⟨⟨factoryProfiles_inRange.1, factoryProfiles_inRange.2, factoryProfiles_inRange.2⟩,
      memory_factory_profiles, List.forall_mem_nil _⟩
  · exact (tableLaw_iff _).2 ⟨resetEnvelope_tabled, memory_factory_zones, List.forall_mem_nil _⟩
  · exact (measuredLaw_iff _).2 ⟨resetScanner_inRange (fun e => by cases e <;> exact ⟨_, rfl⟩)
      (fun a => by cases a <;> exact ⟨_, rfl⟩), resetWalk_inRange⟩
  · exact brakeLaw_of_reset fun m => by cases m <;> exact ⟨_, rfl⟩
  · exact freshnessLaw_of_reset rfl fun m => by cases m <;> exact ⟨_, rfl⟩

/-! ### Edges, seconds and marks -/

/-- An event of the running part. -/
theorem runningEvent_running {s : State} (running : s.power = .running) (f : State → State) :
    runningEvent f s = .next (settle (f s)) := if_pos running

/-- Settles O10: the four commands run by their definitions; the seconds count stops at its end. -/
theorem edgesSecondsAndMarks : Obligations.EdgesSecondsAndMarks := by
  unfold Obligations.EdgesSecondsAndMarks
  refine ⟨fun s e running => ⟨(runningEvent_running running (fun s => s.withScanner (encoderEdge e true s.scanner)) :),
      (runningEvent_running running (fun s => s.withScanner (encoderEdge e false s.scanner)) :)⟩,
    fun s running reachable => ?_, fun s => ⟨fun free => exec_delivers rfl free (by simp [kindOf]) rfl,
      fun p port free => ?_⟩⟩
  · refine (runningEvent_running running _).trans ?_
    have stops : min Config.secondsMax (s.alarms.seconds + 1) =
        if s.alarms.seconds = 4294967295 then 4294967295 else s.alarms.seconds + 1 := by
      unfold Config.secondsMax
      split <;> omega
    rw [tickSeconds, stops]
    rfl
  · have judged : judgeRequest p .clearOverrun s =
        (⟨.accepted, []⟩, takeReport ⟨{ s.alarms with overrun := false }, s.alarms.overrun, false⟩ s) := by
      cases p with
      | b => exact absurd rfl port
      | _ => rfl
    rw [exec_delivers (kind := 0x87) rfl free (by simp [kindOf]) judged, takeReport_eq]
    rfl

/-! ### A write cut off (R183) -/

theorem heldInReset_eq (power : Power) (off : power ≠ .running) (s : State) : heldInReset power s = resetHeld power s := by
  have memory : (cutOff s).memory = memoryAfterCut s := by
    unfold cutOff memoryAfterCut
    cases s.store <;> rfl
  rw [heldInReset, resetHeld, memory]
  cases power with
  | running => exact absurd rfl off
  | _ => rfl

theorem exec_reset (s : State) : exec .powerOn s = .next (resetHeld .loading s) ∧
    exec .powerLoss s = .next (resetHeld .off s) ∧
    (s.power ≠ .off → exec .externalReset s = .next (resetHeld .loading s)) ∧
    (s.power = .off → exec .externalReset s = .next s) := by
  have loading := heldInReset_eq .loading (by decide) s
  have off := heldInReset_eq .off (by decide) s
  have external : exec .externalReset s = execExternalReset s := rfl
  rw [external, execExternalReset, ← loading, ← off]
  refine ⟨rfl, rfl, fun supplied => ?_, fun unsupplied => by rw [unsupplied]⟩
  cases power : s.power with
  | off => exact absurd power supplied
  | _ => rfl

/-- A write in flight leaves its record failing, and no other. -/
theorem memoryAfterCut_recordAt {s : State} {w : RecordWrite} {rest : List RecordWrite}
    (flight : s.store = .writing w ∨ s.store = .committing w rest) :
    (memoryAfterCut s).recordAt w.name = none ∧
    ∀ n, n ≠ w.name → (memoryAfterCut s).recordAt n = s.memory.recordAt n := by
  have spoiled : memoryAfterCut s = s.memory.spoil w := by
    rcases flight with flight | flight <;> rw [memoryAfterCut, flight]
  rw [spoiled]
  exact ⟨(Memory.recordAt_spoil _ _ _).trans (if_pos rfl), fun n other => (Memory.recordAt_spoil _ _ _).trans (if_neg other)⟩

/-- Settles O4: the commands by `exec_reset`, the record cut off by `memoryAfterCut_recordAt`. -/
theorem supplyAndResetHoldThePart : Obligations.SupplyAndResetHoldThePart := by
  unfold Obligations.SupplyAndResetHoldThePart
  refine ⟨exec_reset, fun s w rest running flight c command => ?_⟩
  obtain ⟨on, loss, reset, -⟩ := exec_reset s
  have cut := memoryAfterCut_recordAt flight
  rcases command with rfl | rfl | rfl
  · exact ⟨_, loss, rfl, cut⟩
  · exact ⟨_, reset (by simp [running]), rfl, cut⟩
  · exact ⟨_, on, rfl, cut⟩

/-! ### A write completed (R181 to R183) -/

theorem exec_written {s : State} {w : RecordWrite} (running : s.power = .running) (flight : s.store = .writing w) :
    exec .storeWriteCompletion s = .next (settle (applyWrite w (afterWrite s))) := by
  refine (runningEvent_running running _).trans ?_
  rw [completeWrite, flight, afterWrite, flight]
  rfl

theorem afterWrite_eq {s : State} {w : RecordWrite} (flight : s.store = .writing w) :
    afterWrite s = { s with store := .idle, memory := s.memory.write w } := by rw [afterWrite, flight]

theorem appliedBase_memory (w : RecordWrite) (s : State) : (appliedBase w s).memory = s.memory := by
  cases w with
  | calEncoder e cal zeroing =>
    cases zeroing
    · unfold appliedBase recalibratedBase
      simp only
      split <;> rfl
    · rfl
  | _ => rfl

theorem recordAt_written {mem : Memory} {w : RecordWrite} (fits : ∀ i entry, w = .zone i entry → i < mem.zones.length) :
    (mem.write w).recordAt w.name = some w.written ∧
    ∀ n, n ≠ w.name → (mem.write w).recordAt n = mem.recordAt n :=
  ⟨(Memory.recordAt_write _ _ fits _).trans (if_pos rfl), fun _ other => (Memory.recordAt_write _ _ fits _).trans (if_neg other)⟩

/-- The same fields at two positions have two check words: the check words begin with different names (R181). -/
theorem check_ne_of_name {w v : RecordWrite} (hw : w.name.number < 46) (hv : v.name.number < 46)
    (names : w.name.number ≠ v.name.number) (fields : w.fieldBytes = v.fieldBytes) : w.check ≠ v.check := by
  intro same
  rw [RecordWrite.check, RecordWrite.check, fields] at same
  have begun : crcByte 0xFFFF (nat8 w.name.number) = crcByte 0xFFFF (nat8 v.name.number) :=
    crc_foldl_injective v.fieldBytes same
  have shifted := crcShift_injective begun
  have bytes : nat8 w.name.number = nat8 v.name.number :=
    (BitVec.append_left_inj _).1 ((BitVec.xor_right_inj _).1 shifted)
  have numbers := congrArg BitVec.toNat bytes
  rw [nat8, nat8, BitVec.toNat_ofNat, BitVec.toNat_ofNat] at numbers
  omega

/-- Settles O5: the records by `recordAt_written`, the check words by `check_ne_of_name`. -/
theorem completedRecordIsWritten : Obligations.CompletedRecordIsWritten := by
  unfold Obligations.CompletedRecordIsWritten
  refine ⟨fun s w running positions fits => ⟨fun flight => ?_, fun next rest flight => ?_⟩,
    fun α form r x => readRecord_some form r x, fun w v hw hv names fields => check_ne_of_name hw hv names fields⟩
  · have stored := applyWrite_reports w (afterWrite s)
    have memory : (applyWrite w (afterWrite s)).memory = s.memory.write w := by
      rw [stored.memory, appliedBase_memory, afterWrite_eq flight]
    have store : (applyWrite w (afterWrite s)).store = .idle := by
      rw [stored.store, (appliedBase_store w _).1, afterWrite_eq flight]
    refine ⟨_, exec_written running flight, store, ?_⟩
    rw [settle_memory, memory]
    exact recordAt_written fun i entry form => positions ▸ fits i entry form
  · have completed : completeCommitRecord s = { s with store := .committing next rest, memory := s.memory.write w } := by
      rw [completeCommitRecord, flight]
      rfl
    have ran := (runningEvent_running running completeCommitRecord :)
    rw [completed] at ran
    obtain ⟨written, others⟩ := recordAt_written (mem := s.memory) fun i entry form => positions ▸ fits i entry form
    exact ⟨_, ran, rfl, written, others, rfl⟩

/-- Settles O6: each owner's part of `applyWrite`, case by case. -/
theorem writtenSettingsTakeEffect : Obligations.WrittenSettingsTakeEffect := by
  unfold Obligations.WrittenSettingsTakeEffect
  refine ⟨fun s running => ?_, fun s names running flight => ?_, fun s e cal running flight => ⟨fun valid => ?_, fun other => ?_⟩⟩
  · have takes (w : RecordWrite) (t : State) (applied : applyWrite w (afterWrite s) = t) (flight : s.store = .writing w) :
        exec .storeWriteCompletion s = .next (settle t) := applied ▸ exec_written running flight
    refine ⟨fun p flight => takes _ _ ?_ flight, fun p flight => takes _ _ ?_ flight, fun p flight => takes _ _ ?_ flight,
      fun e cal flight => takes _ _ ?_ flight, fun a cal flight => takes _ _ ?_ flight, fun trip flight => takes _ _ ?_ flight,
      fun h flight => takes _ _ ?_ flight, fun w flight => takes _ _ ?_ flight, fun n flight => takes _ _ ?_ flight,
      fun n flight => takes _ _ ?_ flight⟩ <;>
    · rw [afterWrite_eq flight]
      rfl
  · refine ⟨_, exec_written running flight, ?_, fun m => ?_⟩
    · rw [afterWrite_eq flight]
      rfl
    · have at_motion : (applyWrite (.association names) (afterWrite s)).shaper.motions.get m =
          associate (names.get m) (s.shaper.motions.get m) := by
        rw [afterWrite_eq flight]
        exact PerMotion.get_map _ _ m
      rw [at_motion, associate]
      refine ⟨fun same => if_pos same, fun differs stopped => ?_, fun differs moving => ?_⟩
      · rw [if_neg differs, if_pos stopped]
      · rw [if_neg differs, if_neg moving]
  · refine (exec_written running flight).trans ?_
    rw [applyWrite, if_neg Bool.false_ne_true, recalibrateEncoder, afterWrite_eq flight]
    exact congrArg (fun t => Host.Outcome.next (settle t)) (if_pos valid)
  · refine (exec_written running flight).trans ?_
    rw [applyWrite, if_neg Bool.false_ne_true, recalibrateEncoder, afterWrite_eq flight]
    exact congrArg (fun t => Host.Outcome.next (settle t)) (if_neg other)

end Sys2Proof.Machine
end

section
/-! What a scan completion makes of the channels, the bands, the integrators and the walk, the reports it makes (01, 02, 08),
and the completion of a threshold write (R28). -/

namespace Sys2Proof.Machine

/-! ### The channels (R3 to R12) -/

theorem scanAll_scanner (conversions : PerAnalog Sample) (s : State) :
    (scanAll conversions s).scanner = scanChannels conversions s.scanner := (scanAll_reports conversions s).scanner

/-- Settles O11: each channel by its own scan (`scanEncoder_scanned`, `scanAnalog_scanned`). -/
theorem scanUpdatesChannels : Obligations.ScanUpdatesChannels := by
  unfold Obligations.ScanUpdatesChannels
  refine ⟨fun s conversions running scale => ⟨_, exec_scanCompletion_running conversions running, fun e =>
    ⟨_, encoderScaled_scales e _ _ (scale e), ?_⟩⟩,
    fun s conversions running => ⟨_, exec_scanCompletion_running conversions running, fun a => ?_⟩⟩
  · rw [settle_scanner, scanAll_scanner, scanChannels_encoder]
    exact scanEncoder_scanned e _
  · rw [settle_scanner, scanAll_scanner, scanChannels_analog]
    exact scanAnalog_scanned a _ _

/-! ### The reports of a scan (R13, R26, R30, R46 to R48, R139) -/

/-- Settles O13: the scan is its reports of the scanned blocks (`scanAll_eq_takeReports`), which change no alarm themselves. -/
theorem scanMakesReports : Obligations.ScanMakesReports := by
  unfold Obligations.ScanMakesReports
  intro s conversions running
  have h := scanAll_reports conversions s
  have same : scanReports s (settle (scanAll conversions s)) (scanSnapshot conversions s.scanner)
      (integratorTrips conversions s) = reportsOfScan conversions s :=
    scanReports_congr h.scanner h.envelope h.bands (congrArg (·.skewCondition) h.walk_eq)
  have told : (scanAll conversions s).alarms = alarmsAfter (reportsOfScan conversions s) s := by
    rw [scanAll_eq_takeReports, alarmsAfter_eq]
    exact alarmsAfter_eq _ (scannedBlocks conversions s)
  refine ⟨_, scanSnapshot conversions s.scanner, integratorTrips conversions s,
    exec_scanCompletion_running conversions running, congrArg (·.snapshot) h.scanner, scanIntegrator_trips_iff s _, ?_,
    congrArg (·.reportDue) h.scanner, congrArg (·.reportDue) h.bands, congrArg (·.reportDue) h.walk_eq, ?_⟩
  · rw [same, settle_alarms, told]
  · rw [settle_envelope, h.envelope]
    exact scannedEnvelope_told _ _ _

/-! ### The band records (R19 to R25) -/

theorem scanSupply_debounced (x : SupplyThresholds) (v : AnalogSample) (r : BandRecord SupplyBand) :
    ∃ seen, SupplySeen x v seen ∧ Debounced supplyRank 4 100 seen r (scanSupply x v r) := by
  unfold scanSupply
  split
  · next valid =>
    refine ⟨_, ?_, debounce_debounced supplyRank 4 100 (classifySupply x v.value) r⟩
    unfold classifySupply
    split_ifs with normal low sag
    · exact ⟨valid, normal⟩
    · exact ⟨valid, not_le.1 normal, low⟩
    · exact ⟨valid, not_le.1 normal, not_le.1 low, sag⟩
    · exact ⟨valid, not_le.1 normal, not_le.1 low, not_le.1 sag⟩
  · next fault => exact ⟨none, fault, restartDebounce_debounced supplyRank 4 100 r⟩

theorem scanBoom_debounced (x : BoomSettings) (v : AnalogSample) (r : BandRecord BoomBand) :
    ∃ seen, BoomSeen x v seen ∧ Debounced boomRank 10 40 seen r (scanBoom x v r) := by
  unfold scanBoom
  split
  · next valid =>
    refine ⟨_, ?_, debounce_debounced boomRank 10 40 (classifyBoom x v.value) r⟩
    unfold classifyBoom
    split_ifs with empty normal heavy
    · exact ⟨valid, empty⟩
    · exact ⟨valid, not_le.1 empty, normal⟩
    · exact ⟨valid, not_le.1 empty, not_lt.1 normal, heavy⟩
    · exact ⟨valid, not_le.1 empty, not_lt.1 normal, not_lt.1 heavy⟩
  · next fault => exact ⟨none, fault, restartDebounce_debounced boomRank 10 40 r⟩

/-- Settles O16: each record by its classification and `debounce_debounced`; the effective bands by their definitions. -/
theorem scanDebouncesBands : Obligations.ScanDebouncesBands := by
  unfold Obligations.ScanDebouncesBands
  refine ⟨fun s conversions running => ⟨_, scanSnapshot conversions s.scanner,
    exec_scanCompletion_running conversions running, congrArg (·.snapshot) (scanAll_scanner conversions s), ?_⟩, fun b => ?_⟩
  · rw [settle_bands, (scanAll_reports conversions s).bands]
    exact ⟨scanSupply_debounced _ _ _, scanBoom_debounced _ _ _⟩
  · refine ⟨fun h => if_pos h, fun h => if_neg (by simp [h]), fun h => if_pos h, fun h => if_neg (by simp [h]),
      fun h => ?_, fun h => ?_, fun h => ?_, fun h => ?_⟩ <;> rw [budget, h] <;> rfl

/-! ### The integrators (R29 to R31) -/

theorem channelReports_code {first : Bool} {src : Source} {before now : Option Detail} :
    ∀ r ∈ channelReports first src before now, r.key.1 = .channelFault := by
  unfold channelReports
  split <;> split <;> simp [Report.key]

theorem changeReports_key {c : AlarmCode} {src : Source} {before now : Option (Option Detail)} :
    ∀ r ∈ changeReports c src before now, r.key = (c, src) := by
  unfold changeReports
  split <;> split <;> simp [Report.key]

/-- The reports of a scan after those of the integrators are of SKEW. -/
def skewReports (s t : State) : List Report :=
  changeReports .skew (.motion .walk) (bare (s.walk.skewCondition && !s.walk.reportDue)) (bare t.walk.skewCondition)

/-- The OVERCURRENT report of a group, where its integrator trips. -/
def overcurrentReports (trips : Group → Bool) (g : Group) : List Report :=
  if trips g = true then [.momentary .overcurrent (.group g) none] else []

theorem overcurrentReports_key (trips : Group → Bool) (g : Group) :
    ∀ r ∈ overcurrentReports trips g, r.key = (.overcurrent, .group g) := by
  unfold overcurrentReports
  split <;> simp [Report.key]

/-- The reports of a scan before those of the integrators: of the channels, the Envelope Unit and the bands. -/
def leadingReports (s t : State) (snap : Snapshot) : List Report :=
  let first (due : Bool) (was : Option AlarmCode) : Option AlarmCode := if due = true then none else was
  (EncoderId.all.flatMap fun e => channelReports s.scanner.reportDue (.encoder e) (encoderCondition s.scanner e)
      (encoderCondition t.scanner e)) ++
    (AnalogId.all.flatMap fun a => channelReports s.scanner.reportDue (.analog a) (analogCondition s.scanner a)
      (analogCondition t.scanner a)) ++
    envelopeReports s.envelope t.envelope (some snap) ++
    bandReports .supply (first s.bands.reportDue (supplyCondition s.bands)) (supplyCondition t.bands) ++
    bandReports .boom (first s.bands.reportDue (boomCondition s.bands)) (boomCondition t.bands)

theorem scanReports_eq (s t : State) (snap : Snapshot) (trips : Group → Bool) :
    scanReports s t snap trips = leadingReports s t snap ++ overcurrentReports trips .hg ++ overcurrentReports trips .dg ++
      overcurrentReports trips .sg ++ skewReports s t := rfl

/-- The OVERCURRENT report of a group that trips is the last of its code and source. -/
theorem scanReports_overcurrent (s t : State) (snap : Snapshot) {trips : Group → Bool} {g : Group}
    (tripped : trips g = true) : ∃ pre post, scanReports s t snap trips =
      pre ++ .momentary .overcurrent (.group g) none :: post ∧ ∀ r ∈ post, r.key ≠ (.overcurrent, .group g) := by
  have skew : ∀ r ∈ skewReports s t, r.key ≠ (.overcurrent, .group g) := fun r hr eq => by
    rw [changeReports_key r hr] at eq
    cases eq
  have other {g' : Group} (ne : g' ≠ g) : ∀ r ∈ overcurrentReports trips g', r.key ≠ (.overcurrent, .group g) :=
    fun r hr eq => by
      rw [overcurrentReports_key trips g' r hr] at eq
      cases eq
      exact ne rfl
  have hit : overcurrentReports trips g = [.momentary .overcurrent (.group g) none] := if_pos tripped
  have split (before after : List Report)
      (eq : scanReports s t snap trips = before ++ overcurrentReports trips g ++ after)
      (spared : ∀ r ∈ after, r.key ≠ (.overcurrent, .group g)) : ∃ pre post, scanReports s t snap trips =
        pre ++ .momentary .overcurrent (.group g) none :: post ∧ ∀ r ∈ post, r.key ≠ (.overcurrent, .group g) := by
    rw [hit] at eq
    exact ⟨before, after, by rw [eq]; simp, spared⟩
  have both {l l' : List Report} (h : ∀ r ∈ l, r.key ≠ (.overcurrent, .group g))
      (h' : ∀ r ∈ l', r.key ≠ (.overcurrent, .group g)) : ∀ r ∈ l ++ l', r.key ≠ (.overcurrent, .group g) :=
    List.forall_mem_append.2 ⟨h, h'⟩
  cases g with
  | hg =>
    refine split (leadingReports s t snap) (overcurrentReports trips .dg ++ (overcurrentReports trips .sg ++ skewReports s t))
      (by simp only [scanReports_eq, List.append_assoc]) ?_
    exact both (other (by decide)) (both (other (by decide)) skew)
  | dg =>
    refine split (leadingReports s t snap ++ overcurrentReports trips .hg) (overcurrentReports trips .sg ++ skewReports s t)
      (by simp only [scanReports_eq, List.append_assoc]) ?_
    exact both (other (by decide)) skew
  | sg => exact split _ (skewReports s t) rfl skew

/-- An integrator's step: 0 while held, else one up or down, and 0 with a trip at its count. -/
theorem scanIntegrator_steps (s : State) (snap : Snapshot) (g : Group) :
    let x := snap.analogs.get (currentChannel g)
    let n := s.bands.integrators.get g
    let next := if s.bands.trip.levels.get g < x.value.natAbs then n + 1 else n - 1
    let held := x.state ≠ .valid ∨ s.sequencer.record.order = .pending ∧ g ≠ .sg
    let stepped := scanIntegrator s.bands (orderPending s.sequencer) snap g
    (held → stepped.1 = 0) ∧ (¬held → next < s.bands.trip.counts.get g → stepped.1 = next) ∧
    (¬held → s.bands.trip.counts.get g ≤ next → stepped = (0, true)) := by
  intro x n next held stepped
  have held_iff : (blanked (orderPending s.sequencer) g || x.state != .valid) = true ↔ held := by
    cases g <;> simp [blanked, orderPending, held, or_comm]
  have eq : stepped = stepIntegrator (blanked (orderPending s.sequencer) g || x.state != .valid)
    (s.bands.trip.levels.get g) (s.bands.trip.counts.get g) x.value n := rfl
  refine ⟨fun h => ?_, fun h short => ?_, fun h reached => ?_⟩
  · rw [eq, stepIntegrator, if_pos (held_iff.2 h)]
  · rw [eq, stepIntegrator, if_neg (mt held_iff.1 h)]
    exact congrArg Prod.fst (if_neg (Nat.not_le.2 short))
  · rw [eq, stepIntegrator, if_neg (mt held_iff.1 h)]
    exact if_pos reached

theorem orderDone_bands (s : State) : (orderDone s).bands = s.bands := by
  unfold orderDone
  simp only
  rw [formDriveFaults_bands]
  split
  · exact (reportGone_reports _ _ _).bands.trans (recomputeAffected_reports _).bands
  · exact (recomputeAffected_reports _).bands

theorem orderFailed_bands (e : EndedBy) (s : State) : (orderFailed e s).bands = s.bands := by
  unfold orderFailed
  simp only
  rw [formDriveFaults_bands]
  exact (reportRaise_reports _ _ _ _).bands.trans (recomputeAffected_reports _).bands

/-- Integrators at 0 stay so through reports and the sequencer's part. -/
theorem Turn.integratorsBlanked (s t : State) (h : IntegratorsBlanked s) (turn : Turn s t) : IntegratorsBlanked t := by
  unfold IntegratorsBlanked at *
  cases turn with
  | reports only => exact only.bands ▸ h
  | issued kind _ =>
    have bands : (issueOrder kind s).bands = blankIntegrators s.bands := formDriveFaults_bands _
    rw [bands]
    exact ⟨rfl, rfl⟩
  | done _ => exact orderDone_bands s ▸ h
  | failed e _ => exact orderFailed_bands e s ▸ h
  | _ => exact h

/-- A PENDING order blanks the integrators in the base of every effect. -/
theorem Base.integratorsBlanked (s b : State) (h : OrderLaw s ∧ s.sequencer.record.order = .pending) (base : Base s b) :
    IntegratorsBlanked b := by
  obtain ⟨law, pending⟩ := h
  obtain ⟨order, -⟩ := (orderLaw_iff s).1 law
  refine (Base.orderKept s b order base).2 ?_
  rcases base.sequencer with same | ⟨parked, -⟩
  · rw [same]
    exact pending
  · obtain ⟨d, transferring⟩ := order.1.transferring.1 pending
    rw [parked] at transferring
    cases transferring

/-- A command is a step of the state with it at the front of the queue. -/
theorem step_of_exec {c : Instr} {s t : State} (h : exec c s = .next t) :
    step { s with pending := c :: s.pending } = .next t := h

theorem exec_integratorsBlanked {c : Instr} {s t : State} (law : OrderLaw s) (ran : exec c s = .next t)
    (pending : s.sequencer.record.order = .pending) : IntegratorsBlanked t := by
  refine step_establishes (P := fun s => OrderLaw s ∧ s.sequencer.record.order = .pending) (L := IntegratorsBlanked)
    (fun _ _ h => h) (fun s h => ((orderLaw_iff s).1 h.1).1.2 h.2) (fun _ _ h => h) (fun _ _ h => h)
    (fun s p _ => ⟨rfl, rfl⟩) (fun s _ => ?_)
    (fun s t h effect => effect.establishes Base.integratorsBlanked Turn.integratorsBlanked h)
    (s := { s with pending := c :: s.pending }) ⟨law, pending⟩ (step_of_exec ran)
  have loaded : IntegratorsBlanked (loadedBlocks s) := ⟨rfl, rfl⟩
  exact (show IntegratorsBlanked (release s) from Turn.integratorsBlanked _ _ loaded (.reports (release_reports s)))

/-- Settles O17: the step by `scanIntegrator_steps`, the entry by `takeReports_momentary`, and the integrators at 0 by the
order's law or the bases and turns of every command (`exec_integratorsBlanked`). -/
theorem scanStepsIntegrators : Obligations.ScanStepsIntegrators := by
  unfold Obligations.ScanStepsIntegrators
  refine ⟨fun s conversions running law => ?_, fun c s t law ran pending => ?_⟩
  · refine ⟨_, scanSnapshot conversions s.scanner, exec_scanCompletion_running conversions running,
      congrArg (·.snapshot) (scanAll_scanner conversions s), fun g => ?_⟩
    obtain ⟨held, short, reached⟩ := scanIntegrator_steps s (scanSnapshot conversions s.scanner) g
    have after : (settle (scanAll conversions s)).bands.integrators.get g =
        (scanIntegrator s.bands (orderPending s.sequencer) (scanSnapshot conversions s.scanner) g).1 := by
      rw [settle_bands, (scanAll_reports conversions s).bands]
      exact PerGroup.get_map _ _ g
    refine ⟨fun h => after.trans (held h), fun h less => after.trans (short h less), fun h least => ?_⟩
    have stepped := reached h least
    refine ⟨after.trans (congrArg Prod.fst stepped), ?_⟩
    have tripped : integratorTrips conversions s g = true := congrArg Prod.snd stepped
    obtain ⟨pre, post, split, last⟩ := scanReports_overcurrent s (scannedBlocks conversions s)
      (scanSnapshot conversions s.scanner) tripped
    have table := scanReports_inTable s (scannedBlocks conversions s) (scanSnapshot conversions s.scanner)
      (integratorTrips conversions s)
    rw [split] at table
    have entered := takeReports_momentary table (s := scannedBlocks conversions s) ((alarmListLaw_iff s).1 law)
      (by simp [alarmClass]) last
    rw [← split] at entered
    rw [settle_alarms, scanAll_eq_takeReports]
    exact entered
  · rcases pending with before | after
    · exact exec_integratorsBlanked law ran before
    · have law : OrderLaw t := step_orderLaw (s := { s with pending := c :: s.pending }) (step_of_exec ran) law
      exact ((orderLaw_iff t).1 law).1.2 after

/-! ### The Walk Tracker (R134 to R139) -/

theorem walkPositionOf_bounds (l r : Int) :
    2 * walkPositionOf l r ≤ l + r ∧ l + r < 2 * walkPositionOf l r + 2 := by
  have floor : walkPositionOf l r = (l + r) / 2 := Int.fdiv_eq_ediv_of_nonneg _ (by decide)
  omega

/-- The tracked quantities of a scan, by the cams' states. -/
theorem trackWalk_tracked (snap : Snapshot) (w : WalkTracker) :
    let l := snap.encoders.camLeft
    let r := snap.encoders.camRight
    let t := trackWalk snap w
    (l.state = .valid → r.state = .valid → t.leftPosition = l.value ∧ t.rightPosition = r.value ∧
      t.skew = max (-9999) (min 9999 (l.value - r.value)) ∧
      2 * t.walkPosition ≤ l.value + r.value ∧ l.value + r.value < 2 * t.walkPosition + 2 ∧
      t.steps = Int.tdiv t.walkPosition 360) ∧
    (l.state ≠ .valid ∨ r.state ≠ .valid → t.leftPosition = w.leftPosition ∧ t.rightPosition = w.rightPosition ∧
      t.skew = w.skew ∧ t.walkPosition = w.walkPosition ∧ t.steps = w.steps) ∧
    t.leftAngle = (if l.state = .valid then snap.camLeftAngle else w.leftAngle) ∧
    t.rightAngle = (if r.state = .valid then snap.camRightAngle else w.rightAngle) ∧
    (t.leftInRest = true ↔ l.state = .valid ∧ InRest w.settings t.leftAngle) ∧
    (t.rightInRest = true ↔ r.state = .valid ∧ InRest w.settings t.rightAngle) ∧
    (t.bothInRest = true ↔ t.leftInRest = true ∧ t.rightInRest = true) := by
  intro l r t
  have rest (valid : Bool) (angle : Nat) :
      (valid && inRestSector w.settings angle) = true ↔ valid = true ∧ InRest w.settings angle :=
    (Bool.and_eq_true _ _).to_iff.trans (and_congr_right' decide_eq_true_iff)
  by_cases both : l.state = .valid ∧ r.state = .valid
  · have eq : t = _ := if_pos both
    obtain ⟨floor, above⟩ := walkPositionOf_bounds l.value r.value
    rw [eq]
    refine ⟨fun _ _ => ⟨rfl, rfl, rfl, floor, above, rfl⟩, fun none => ?_, rfl, rfl, ?_, ?_, (Bool.and_eq_true _ _).to_iff⟩
    · exact absurd both (not_and_or.2 none)
    · exact (rest _ _).trans (and_congr_left' beq_iff_eq)
    · exact (rest _ _).trans (and_congr_left' beq_iff_eq)
  · have eq : t = _ := if_neg both
    rw [eq]
    refine ⟨fun left right => absurd ⟨left, right⟩ both, fun _ => ⟨rfl, rfl, rfl, rfl, rfl⟩, rfl, rfl, ?_, ?_,
      (Bool.and_eq_true _ _).to_iff⟩
    · exact (rest _ _).trans (and_congr_left' beq_iff_eq)
    · exact (rest _ _).trans (and_congr_left' beq_iff_eq)

theorem judgeSkew_iff (present : Bool) (skew : Int) (trip : Nat) :
    (present = false → (judgeSkew present skew trip = true ↔ trip ≤ skew.natAbs)) ∧
    (present = true → (judgeSkew present skew trip = true ↔ trip / 2 ≤ skew.natAbs)) := by
  cases present <;> simp [judgeSkew]

/-- Settles O41: the tracker is `trackWalk` with its condition judged, whatever a trip of WALK makes of the sides. -/
theorem scanTracksTheWalk : Obligations.ScanTracksTheWalk := by
  unfold Obligations.ScanTracksTheWalk
  intro s conversions running
  refine ⟨_, scanSnapshot conversions s.scanner, exec_scanCompletion_running conversions running,
    congrArg (·.snapshot) (scanAll_scanner conversions s), ?_⟩
  have h := scanAll_reports conversions s
  have walk : (scanAll conversions s).walk = { scannedWalk (scanSnapshot conversions s.scanner) s.walk with
      walkLeft := (scanAll conversions s).walk.walkLeft, walkRight := (scanAll conversions s).walk.walkRight } := h.walk_eq
  obtain ⟨left, right, settings⟩ := scannedWalk_keeps (scanSnapshot conversions s.scanner) s.walk
  have sides : (scanAll conversions s).walk.walkLeft = s.walk.walkLeft ∧
      (scanAll conversions s).walk.walkRight = s.walk.walkRight ∨
      (scanAll conversions s).walk.walkLeft = 0 ∧ (scanAll conversions s).walk.walkRight = 0 ∧
        (scanAll conversions s).shaper.motions.walk.output = 0 := by
    rcases h.walk with ⟨-, same⟩ | ⟨stopped, zero⟩
    · exact .inl ⟨(congrArg (·.walkLeft) same).trans left, (congrArg (·.walkRight) same).trans right⟩
    · exact .inr ⟨congrArg (·.walkLeft) zero, congrArg (·.walkRight) zero, congrArg (·.output) stopped⟩
  obtain ⟨absent, present⟩ := judgeSkew_iff s.walk.skewCondition
    (trackWalk (scanSnapshot conversions s.scanner) s.walk).skew s.walk.settings.trip
  obtain ⟨tracked, held, leftAngle, rightAngle, leftRest, rightRest, both⟩ :=
    trackWalk_tracked (scanSnapshot conversions s.scanner) s.walk
  have output : (settle (scanAll conversions s)).shaper.motions.walk.output =
      (scanAll conversions s).shaper.motions.walk.output := rfl
  rw [output, settle_walk]
  generalize (scanAll conversions s).walk.walkLeft = l at *
  generalize (scanAll conversions s).walk.walkRight = r at *
  rw [walk]
  exact ⟨tracked, held, leftAngle, rightAngle, leftRest, rightRest, both, absent, present, sides, settings⟩

/-! ### Threshold writes (R28) -/

theorem reportBand_same (src : Source) (c : Option AlarmCode) (s : State) : reportBand src c c s = s := if_pos rfl

/-- A monitor's event by what it was first told or is told again (R26). -/
theorem bandEvent_cases (now : Bands) (s : State) :
    (s.bands.reportDue = false → bandEvent now s =
      reportBand .boom (boomAlarm (effectiveBoom s.bands)) (boomAlarm (effectiveBoom now))
        (reportBand .supply (supplyAlarm (effectiveSupply s.bands)) (supplyAlarm (effectiveSupply now))
          (s.withBands { now with reportDue := false }))) ∧
    (s.bands.reportDue = true → bandEvent now s =
      reportBand .boom none (boomAlarm (effectiveBoom now))
        (reportBand .supply none (supplyAlarm (effectiveSupply now)) (s.withBands { now with reportDue := false }))) := by
  unfold bandEvent reportBands
  constructor <;>
  · intro due
    rw [due]
    rfl

/-- Settles O18: the write restarts one record, so the other record's condition stands and its own becomes that of LOW or
HEAVY; the monitor's event of the two (`bandEvent_cases`). -/
theorem bandWriteRestartsDebounce : Obligations.BandWriteRestartsDebounce := by
  unfold Obligations.BandWriteRestartsDebounce
  intro s running
  refine ⟨fun x flight => ?_, fun x flight => ?_⟩
  · intro base
    obtain ⟨again, first⟩ := bandEvent_cases
      { s.bands with thresholds := x, supply := restartDebounce s.bands.supply } (afterWrite s)
    have ran : exec .storeWriteCompletion s = .next (settle (bandEvent _ (afterWrite s))) := exec_written running flight
    have bands : (afterWrite s).bands = s.bands := by rw [afterWrite_eq flight]
    have boom : effectiveBoom { s.bands with thresholds := x, supply := restartDebounce s.bands.supply } =
        effectiveBoom s.bands := rfl
    rw [bands] at ran again first
    rw [boom] at again first
    refine ⟨fun due => ran.trans ?_, fun due => ran.trans ?_⟩
    · rw [again due, reportBand_same]
      cases effectiveSupply s.bands <;> rfl
    · rw [first due]
      cases effectiveBoom s.bands <;> rfl
  · intro base
    obtain ⟨again, first⟩ := bandEvent_cases
      { s.bands with boomSettings := x, boom := restartDebounce s.bands.boom } (afterWrite s)
    have ran : exec .storeWriteCompletion s = .next (settle (bandEvent _ (afterWrite s))) := exec_written running flight
    have bands : (afterWrite s).bands = s.bands := by rw [afterWrite_eq flight]
    have supply : effectiveSupply { s.bands with boomSettings := x, boom := restartDebounce s.bands.boom } =
        effectiveSupply s.bands := rfl
    rw [bands] at ran again first
    rw [supply] at again first
    refine ⟨fun due => ran.trans ?_, fun due => ran.trans ?_⟩
    · rw [again due, reportBand_same]
      cases effectiveBoom s.bands <;> rfl
    · rw [first due]
      cases effectiveSupply s.bands <;> rfl

/-! ### ZERO-CHANNEL (R14) -/

theorem clampZeroValue_eq (e : EncoderId) (v : Int) : clampZeroValue e v =
    if v < encoderLow e then encoderLow e else if encoderHigh e < v then encoderHigh e else v := by
  rw [← clampInt_eq (encoderLow_le_high e)]
  cases e <;> rfl

theorem clampZeroValue_between (e : EncoderId) (v : Int) :
    encoderLow e ≤ clampZeroValue e v ∧ clampZeroValue e v ≤ encoderHigh e := by
  have ends := encoderLow_le_high e
  rw [clampZeroValue_eq]
  split_ifs <;> omega

/-- The counts from an offset set back from a count by a difference that fits in 32 bits. -/
theorem counts_of_offset (count : Word) {x : Int} (low : -2147483648 ≤ x) (high : x < 2147483648) :
    (count - (count - BitVec.ofInt 32 x)).toInt = x := by
  rw [sub_sub_cancel, BitVec.toInt_ofInt]
  exact Int.bmod_eq_of_le (by omega) (by omega)

/-- A truncated quotient of a number not below 0. -/
theorem tdiv_bounds {x : Int} (nonneg : 0 ≤ x) {k : Int} (pos : 0 < k) :
    Int.tdiv x k * k ≤ x ∧ x < Int.tdiv x k * k + k := by
  rw [Int.tdiv_eq_ediv_of_nonneg nonneg]
  exact ⟨Int.ediv_mul_le _ pos.ne', by linarith [Int.lt_ediv_add_one_mul_self x pos]⟩

/-- A payout scaled back from the offset of a value: not above the value, and short of it by less than a step. -/
theorem payout_scales_back {v scale : Int} (low : 0 ≤ v) (pos : 0 < scale) :
    let w := Int.tdiv (Int.tdiv (v * 1000) scale * scale) 1000
    w ≤ v ∧ 1000 * (v - w) < 1000 + scale := by
  intro w
  obtain ⟨under, short⟩ := tdiv_bounds (x := v * 1000) (by positivity) pos
  have nonneg : 0 ≤ Int.tdiv (v * 1000) scale * scale :=
    mul_nonneg (Int.tdiv_nonneg (by positivity) pos.le) pos.le
  obtain ⟨under', short'⟩ := tdiv_bounds nonneg (by decide : (0 : Int) < 1000)
  change w * 1000 ≤ _ at under'
  change _ < w * 1000 + 1000 at short'
  constructor <;> linarith

/-- Two numbers with the same floor of a quotient are one. -/
theorem eq_of_floor {scale x v w k : Int} (pos : 0 < scale) (v_le : v * scale ≤ x * k) (v_lt : x * k < (v + 1) * scale)
    (w_le : w * scale ≤ x * k) (w_lt : x * k < (w + 1) * scale) : w = v := by
  have below : w < v + 1 := lt_of_mul_lt_mul_right (w_le.trans_lt v_lt) pos.le
  have above : v < w + 1 := lt_of_mul_lt_mul_right (v_le.trans_lt w_lt) pos.le
  omega

theorem ceilDiv_spec (x : Int) {k : Int} (pos : 0 < k) : x ≤ ceilDiv x k * k ∧ ceilDiv x k * k < x + k := by
  have floor : ceilDiv x k = -(-x / k) := congrArg Neg.neg (Int.fdiv_eq_ediv_of_nonneg _ pos.le)
  have under := Int.ediv_mul_le (-x) pos.ne'
  have short := Int.lt_ediv_add_one_mul_self (-x) pos
  rw [floor]
  constructor <;> linarith

theorem scale_bounds {e : EncoderId} {cal : EncoderCal} (clamped : clampEncoderCal e cal = cal) :
    match e with
    | .hoistPayout => 1 ≤ cal.scale ∧ cal.scale ≤ 5000
    | .dragPayout => 1 ≤ cal.scale ∧ cal.scale ≤ 5000
    | .swingAngle => 3600 ≤ cal.scale ∧ cal.scale ≤ 1000000
    | .camLeft => 360 ≤ cal.scale ∧ cal.scale ≤ 100000
    | .camRight => 360 ≤ cal.scale ∧ cal.scale ≤ 100000 := by
  have scale := congrArg EncoderCal.scale clamped
  cases e <;> simp only [clampEncoderCal, clampNat] at scale ⊢ <;> omega

/-- A payout referenced to a value scales to the truncated value, by `payout_scales_back` (R5, R14). -/
theorem payout_counts {scale : Nat} (one : 1 ≤ scale) (most : scale ≤ 5000) {v : Int} (low : 0 ≤ v) (high : v ≤ 30000)
    (count : Word) :
    (count - (count - BitVec.ofInt 32 (Int.tdiv (v * 1000) scale))).toInt = Int.tdiv (v * 1000) scale := by
  have pos : (0 : Int) < scale := by omega
  have nonneg : 0 ≤ Int.tdiv (v * 1000) scale := Int.tdiv_nonneg (by omega) pos.le
  obtain ⟨under, -⟩ := tdiv_bounds (x := v * 1000) (by omega) pos
  have least : Int.tdiv (v * 1000) scale ≤ Int.tdiv (v * 1000) scale * scale := le_mul_of_one_le_right nonneg (by omega)
  exact counts_of_offset count (by omega) (by omega)

/-- A turn's count referenced to a value: the counts of the value, rounded up, lie between it and the next (R6, R7, R14). -/
theorem turn_counts {scale : Nat} {k v : Int} (pos : 0 < k) (step : k ≤ scale) :
    v * scale ≤ ceilDiv (v * scale) k * k ∧ ceilDiv (v * scale) k * k < (v + 1) * scale := by
  obtain ⟨least, less⟩ := ceilDiv_spec (v * scale) pos
  exact ⟨least, by linarith⟩

/-- A swing referenced to a value scales to it: the counts of the value stay within a turn (R6). -/
theorem swing_scales_back {scale : Nat} (bounds : 3600 ≤ scale ∧ scale ≤ 1000000) {v w : Int} (low : 0 ≤ v)
    (high : v ≤ 3599) {count : Word}
    (scales : w * scale ≤ (count - (count - BitVec.ofInt 32 (ceilDiv (v * scale) 3600))).toInt % scale * 3600 ∧
      (count - (count - BitVec.ofInt 32 (ceilDiv (v * scale) 3600))).toInt % scale * 3600 < (w + 1) * scale) : w = v := by
  obtain ⟨least, less⟩ := turn_counts (v := v) (k := 3600) (by decide) (by omega : (3600 : Int) ≤ scale)
  have nonneg : 0 ≤ v * scale := mul_nonneg low (by omega)
  have turn : (v + 1) * scale ≤ 3600 * scale := mul_le_mul_of_nonneg_right (by omega) (by omega)
  have below : ceilDiv (v * scale) 3600 < scale := by linarith
  have above : 0 ≤ ceilDiv (v * scale) 3600 := by linarith
  rw [counts_of_offset count (by omega) (by omega), Int.emod_eq_of_lt above below] at scales
  exact eq_of_floor (by omega) least less scales.1 scales.2

/-- The scaled value of the offset that ZERO-CHANNEL forms, at the same count (R14). -/
theorem zeroOffset_scales {e : EncoderId} {cal : EncoderCal} (clamped : clampEncoderCal e cal = cal) {v w : Int}
    (low : encoderLow e ≤ v) (high : v ≤ encoderHigh e) {count : Word}
    (scales : EncoderScales e { cal with offset := zeroOffset e cal count v } count w) :
    if e = .hoistPayout ∨ e = .dragPayout then
      w = Int.tdiv (Int.tdiv (v * 1000) cal.scale * cal.scale) 1000 ∧ w ≤ v ∧ 1000 * (v - w) < 1000 + cal.scale
    else w = v := by
  have payout (bounds : 1 ≤ cal.scale ∧ cal.scale ≤ 5000) (low : 0 ≤ v) (high : v ≤ 30000)
      (scales : w = Int.tdiv ((count - (count - BitVec.ofInt 32 (Int.tdiv (v * 1000) cal.scale))).toInt * cal.scale) 1000) :
      w = Int.tdiv (Int.tdiv (v * 1000) cal.scale * cal.scale) 1000 ∧ w ≤ v ∧ 1000 * (v - w) < 1000 + cal.scale := by
    rw [payout_counts bounds.1 bounds.2 low high] at scales
    obtain ⟨under, short⟩ := payout_scales_back (scale := cal.scale) low (by omega)
    exact ⟨scales, scales ▸ under, scales ▸ short⟩
  have cam (bounds : 360 ≤ cal.scale ∧ cal.scale ≤ 100000) (low : -999999 ≤ v) (high : v ≤ 999999)
      (scales : w * cal.scale ≤ (count - (count - BitVec.ofInt 32 (ceilDiv (v * cal.scale) 360))).toInt * 360 ∧
        (count - (count - BitVec.ofInt 32 (ceilDiv (v * cal.scale) 360))).toInt * 360 < (w + 1) * cal.scale) : w = v := by
    obtain ⟨least, less⟩ := turn_counts (v := v) (k := 360) (by decide) (by omega : (360 : Int) ≤ cal.scale)
    have fits : -99999900000 ≤ v * cal.scale ∧ v * cal.scale ≤ 99999900000 := by
      constructor <;> nlinarith
    have counts := counts_of_offset count (x := ceilDiv (v * cal.scale) 360) (by linarith) (by linarith)
    rw [counts] at scales
    exact eq_of_floor (by omega) least less scales.1 scales.2
  have bounds := scale_bounds clamped
  cases e with
  | hoistPayout =>
    rw [if_pos (by simp)]
    exact payout bounds low high scales
  | dragPayout =>
    rw [if_pos (by simp)]
    exact payout bounds low high scales
  | camLeft =>
    rw [if_neg (by simp)]
    exact cam bounds low high scales
  | camRight =>
    rw [if_neg (by simp)]
    exact cam bounds low high scales
  | swingAngle =>
    rw [if_neg (by simp)]
    exact swing_scales_back bounds low high scales

/-- Settles O15: the request's checks passed, the channel referenced, and the value scaled back (`zeroOffset_scales`). -/
theorem zeroChannelReferences : Obligations.ZeroChannelReferences := by
  unfold Obligations.ZeroChannelReferences
  intro s channel value e free parked idle named clamped
  obtain ⟨low, high⟩ := clampZeroValue_between e value.toInt
  have judged : judgeRequest .c (.zeroChannel channel value) s =
      (⟨clampedResult (decide (clampZeroValue e value.toInt ≠ value.toInt)), []⟩,
        zeroChannel e (clampZeroValue e value.toInt) s) := by
    change takeZeroChannel channel value s = _
    have notBusy : storeBusy s = false := by simp [storeBusy, idle]
    rw [takeZeroChannel, named]
    simp [parked, notBusy]
  have ran := exec_delivers (c := .zeroChannel .c channel value) (kind := 0x8E) rfl free (by simp [kindOf]) judged
  refine ⟨_, clampZeroValue e value.toInt, _, clampZeroValue_eq e _, rfl, ran.trans ?_,
    fun w scales => zeroOffset_scales clamped low high scales⟩
  have answered : clampedResult (decide (clampZeroValue e value.toInt ≠ value.toInt)) =
      if clampZeroValue e value.toInt = value.toInt then .accepted else .adjusted := by
    by_cases same : clampZeroValue e value.toInt = value.toInt <;> simp [clampedResult, same]
  rw [answered, zeroChannel_eq]
  rfl

end Sys2Proof.Machine
end

section
/-! Operator requests and the feedback of the brakes (04, 06): what a fresh frame, the end of the hold timer, an input edge
and a taken feedback change leave. -/

namespace Sys2Proof.Machine

/-! ### A fresh MOTION-REQUEST (R69, R70, R73, R75) -/

theorem clampReference_eq (x : Half) :
    clampReference x = if x.toInt < -1000 then -1000 else if 1000 < x.toInt then 1000 else x.toInt :=
  clampInt_eq (by decide) _

theorem centred_iff (refs : PerMotion Int) : centred refs = true ↔ ∀ m, refs.get m = 0 := by
  simp [centred, PerMotion.every_iff]

/-- A fresh frame leaves FRESH with its mark, whatever it reports (R70). -/
theorem freshFrame_freshness (mark : Bool) (refs : PerMotion Int) (s : State) :
    (freshFrame mark refs s).ports.a.freshness = .fresh :=
  congrArg (·.freshness) (freshReported_reports mark refs s).portA

theorem freshReported_shaper (mark : Bool) (refs : PerMotion Int) (s : State) :
    (freshReported mark refs s).shaper = s.shaper := by
  rw [freshReported_eq]
  rfl

theorem takeMotionRequest_fresh {s : State} {mark : Bool}
    (fresh : s.ports.a.freshness = .never ∨ s.ports.a.lastMark ≠ some mark) (refs : PerMotion Half) :
    takeMotionRequest (bool8 mark) refs s =
      (⟨clampedResult (decide ((refs.map fun _ x => clampReference x) ≠ refs.map fun _ x => x.toInt)),
          motionReply (freshFrame mark (refs.map fun _ x => clampReference x) s)⟩,
        freshFrame mark (refs.map fun _ x => clampReference x) s) := by
  rw [takeMotionRequest, markOfCode_bool8]
  refine if_neg fun repeated => ?_
  rcases fresh with never | other
  · exact repeated.1 never
  · exact other repeated.2

theorem clampedResult_eq {α : Type} [DecidableEq α] (a b : α) :
    clampedResult (decide (a ≠ b)) = if a = b then .accepted else .adjusted := by
  by_cases same : a = b <;> simp [clampedResult, same]

/-- Settles O24: the frame by its parts (`freshFrame_eq`), the timer by `holdExpires_eq`. -/
theorem freshnessFollowsRequestsAndTimer : Obligations.FreshnessFollowsRequestsAndTimer := by
  unfold Obligations.FreshnessFollowsRequestsAndTimer
  constructor
  · intro s mark refs free fresh stored
    have clamped : (refs.map fun _ x => clampReference x) = PerMotion.of stored := by
      refine PerMotion.ext_get fun m => ?_
      rw [PerMotion.get_map, PerMotion.get_of, clampReference_eq]
    have judged := judgeRequest_motionRequest (bool8 mark) refs s
    rw [takeMotionRequest_fresh fresh, clamped, clampedResult_eq] at judged
    have ran := exec_delivers (c := .motionRequest .a (bool8 mark) refs) rfl free
      (responseKind_motionRequest (bool8 mark) refs) judged
    have reply : motionReply (freshFrame mark (PerMotion.of stored) s) =
        [1, motionByte ((freshFrame mark (PerMotion.of stored) s).shaper.motions.map fun _ r => r.permit)] := by
      rw [motionReply, freshFrame_freshness]
      rfl
    rw [reply] at ran
    refine ⟨centred (PerMotion.of stored), freshBase mark (PerMotion.of stored) s,
      freshReported mark (PerMotion.of stored) s, freshFrame mark (PerMotion.of stored) s, ?_, rfl, ?_, fun m => ?_, ?_, ran⟩
    · rw [centred_iff]
      simp only [PerMotion.get_of]
    · simp only [freshReported, Bool.and_eq_true]
    · have motion : (freshFrame mark (PerMotion.of stored) s).shaper.motions.get m =
          storeRequest (freshReported mark (PerMotion.of stored) s).alarms.list (PerMotion.of stored) m
            (s.shaper.motions.get m) := by
        rw [freshFrame_eq, freshReported_shaper]
        exact PerMotion.get_map _ _ m
      refine ⟨(s.shaper.motions.get m).permit || (decide (stored m = 0) &&
        !tripAffects (freshReported mark (PerMotion.of stored) s).alarms.list m), ?_, motion.trans ?_⟩
      · simp [← tripAffects_iff]
      · simp only [storeRequest, PerMotion.get_of]
    · rw [freshFrame_eq, freshReported_shaper]
      rfl
  · intro s running runs
    exact (runningEvent_running running holdExpires).trans (by rw [holdExpires_eq runs]; rfl)

/-! ### Feedback (R101, R103 to R107) -/

theorem takeFeedback_running {s : State} {m : Motion} (filters : (s.gate.brakes.get m).filtering = true) :
    takeFeedback m s = superviseFeedback m s := if_pos filters

theorem feedbackInSet_eq (m : Motion) (b : BrakeRecord) (s : State) : feedbackInSet m b s =
    if b.fail = false ∧ s.gate.reportDue ≠ .reset then
      reportRaise .brakeFail (.motion m) none (s.withBrake m { b with fail := true })
    else s.withBrake m { b with fail := true } := by
  simp only [feedbackInSet, failBrake, Bool.and_eq_true, Bool.not_eq_true', bne_iff_ne]
  rfl

theorem feedbackInReleased_eq (m : Motion) (b : BrakeRecord) (s : State) : feedbackInReleased m b s =
    if b.fail = false then reportRaise .brakeFail (.motion m) none
      (zeroMotions (onlyMotion m) (s.withBrake m { b with state := .setting, count := 0, fail := true }))
    else zeroMotions (onlyMotion m) (s.withBrake m { b with state := .setting, count := 0, fail := true }) := by
  simp only [feedbackInReleased, failBrake, toSetting, Bool.not_eq_true']
  rfl

/-- Settles O35: the edge by its definition, the change by the three cases of `superviseFeedback`. -/
theorem feedbackIsFilteredAndSupervised : Obligations.FeedbackIsFilteredAndSupervised := by
  unfold Obligations.FeedbackIsFilteredAndSupervised
  constructor
  · intro s m level
    exact ⟨fun running => if_pos running, fun off => if_neg off⟩
  · intro s m running filters level b noted
    have ran : exec (.feedbackChange m) s = .next (settle (superviseFeedback m s)) :=
      (runningEvent_running running (takeFeedback m)).trans (by rw [takeFeedback_running filters])
    refine ⟨fun state released => ran.trans ?_, fun state lost => ran.trans ?_, fun set released => ran.trans ?_⟩
    · rw [superviseFeedback_set state released, feedbackInSet_eq]
      rfl
    · rw [superviseFeedback_released state lost, feedbackInReleased_eq]
      rfl
    · rw [superviseFeedback_quiet]
      · rfl
      · rintro ⟨state, shown⟩
        exact Bool.false_ne_true ((set state).symm.trans shown)
      · rintro ⟨state, shown⟩
        exact Bool.false_ne_true (shown.symm.trans (released state))

end Sys2Proof.Machine
end

section
/-! What a port refuses (10), the steps of a port that carry no request, and the mode requests that are not taken. -/

namespace Sys2Proof.Machine

/-! ### The catalogue (R170) -/

theorem kindAllowed_outside {kind : Byte} (outside : kind.toNat = 0 ∨ 0x15 < kind.toNat) (p : Port) :
    kindAllowed kind p = none := by
  unfold kindAllowed
  split <;> first | rfl | omega

/-- The requests a frame can be read as are of a kind of the catalogue. -/
theorem kindAllowed_eq {r : Request} (known : ∀ k, r ≠ .unknownKind k) (fits : ∀ k l, r ≠ .badLength k l) (p : Port) :
    kindAllowed (kindOf r) p = some (mayCarry p r) := by
  cases r with
  | unknownKind k => exact absurd rfl (known k)
  | badLength k l => exact absurd rfl (fits k l)
  | _ => cases p <;> rfl

theorem requestOf_ne_badLength {c : Instr} {p : Port} {r : Request} (asked : requestOf c = some (p, r)) (k : Byte)
    (l : List Byte) : r ≠ .badLength k l := by
  rintro rfl
  cases c <;> simp [requestOf] at asked

theorem judgeRequest_outside {kind : Byte} (outside : kind.toNat = 0 ∨ 0x15 < kind.toNat) (p : Port) (s : State) :
    judgeRequest p (.unknownKind kind) s = (⟨.unknownKind, []⟩, s) := by
  simp only [judgeRequest, kindOf, kindAllowed_outside outside]
  rfl

theorem judgeRequest_notPermitted {p : Port} {r : Request} (known : ∀ k, r ≠ .unknownKind k)
    (fits : ∀ k l, r ≠ .badLength k l) (other : mayCarry p r = false) (s : State) :
    judgeRequest p r s = (⟨.notPermitted, []⟩, s) := by
  simp only [judgeRequest, kindAllowed_eq known fits, other]
  rfl

theorem completeFrame_held {p : Port} {s : State} (held : (s.ports.links.get p).held.isSome = true) (r : Request) :
    completeFrame p r s = dropFrame p s := by
  simp only [completeFrame, held, if_true]

/-- Settles O48: the catalogue judges before any owner, and a frame that completes while the port holds a request only
ends. -/
theorem portRefusesBeforeOwners : Obligations.PortRefusesBeforeOwners := by
  unfold Obligations.PortRefusesBeforeOwners
  refine fun s p => ⟨fun kind free outside => ?_, fun c r asked => ⟨fun free known other => ?_, fun running held => ?_⟩⟩
  · exact exec_delivers rfl free rfl (judgeRequest_outside outside p s)
  · exact exec_delivers asked free rfl (judgeRequest_notPermitted known (requestOf_ne_badLength asked) other s)
  · rw [exec_request asked, runningEvent_running running, completeFrame_held held]
    rfl

/-! ### The steps of a port that carry no request (R166 to R169) -/

theorem PerPort.set_get_self {α : Type} (v : PerPort α) (p : Port) : v.set p (v.get p) = v := by
  cases p <;> rfl

theorem startResponse_held {p : Port} {s : State} {r : Request} {x : Response}
    (held : (s.ports.links.get p).held = some ⟨r, x, false⟩) :
    startResponse p s =
      s.withLink p { s.ports.links.get p with held := some ⟨r, x, true⟩, sending := responseFrame x } := by
  simp [startResponse, held]

theorem endResponse_answering {p : Port} {s : State} {r : Request} {x : Response}
    (held : (s.ports.links.get p).held = some ⟨r, x, true⟩) :
    endResponse p s = s.withLink p { s.ports.links.get p with held := none, sending := [] } := by
  simp [endResponse, held]

theorem receiveCharacter_hunting {p : Port} {s : State} (hunting : (s.ports.links.get p).frame = none) (b : Byte) :
    receiveCharacter p b s = s.withLink p { s.ports.links.get p with
      frame := if b = Config.startByte then some startedFrame else none } := by
  have stands : { s.ports.links.get p with frame := none } = s.ports.links.get p := by rw [← hunting]
  unfold receiveCharacter
  simp only [hunting]
  by_cases start : b = Config.startByte
  · rw [if_pos start, if_pos start]
  · rw [if_neg start, if_neg start, stands, State.withLink, State.withPorts, PerPort.set_get_self]

theorem receiveCharacter_continues {p : Port} {s : State} {f g : Frame} {b : Byte}
    (receiving : (s.ports.links.get p).frame = some f) (goes : assemble f b = .continues g) :
    receiveCharacter p b s = s.withLink p { s.ports.links.get p with frame := some g } := by
  simp only [receiveCharacter, receiving, goes]

theorem receiveCharacter_discarded {p : Port} {s : State} {f : Frame} {b : Byte}
    (receiving : (s.ports.links.get p).frame = some f) (goes : assemble f b = .discarded) :
    receiveCharacter p b s = s.withLink p { s.ports.links.get p with frame := none } := by
  simp only [receiveCharacter, receiving, goes]
  rfl

/-- Settles O51: each step is its definition; a character goes by the position of the frame in progress. -/
theorem portStepsChangeTheLinkAlone : Obligations.PortStepsChangeTheLinkAlone := by
  unfold Obligations.PortStepsChangeTheLinkAlone
  refine ⟨fun s p running => ⟨runningEvent_running running (dropFrame p), runningEvent_running running (dropFrame p),
    fun held => ?_, fun r x held => ?_, fun r x held => ?_⟩, fun s p b running => ?_⟩
  · refine (runningEvent_running running (discardWhileHeld p)).trans ?_
    rw [discardWhileHeld, if_pos held]
    rfl
  · exact (runningEvent_running running (startResponse p)).trans (by rw [startResponse_held held]; rfl)
  · exact (runningEvent_running running (endResponse p)).trans (by rw [endResponse_answering held]; rfl)
  · have received : exec (.characterReceived p b) s = .next (settle (receiveCharacter p b s)) :=
      runningEvent_running running (receiveCharacter p b)
    simp only [received]
    refine ⟨fun hunting start => ?_, fun hunting other => ?_, fun f receiving kind => ?_,
      fun f k receiving kind length => ?_, fun f k n receiving kind length => ⟨fun room => ?_, fun whole check => ?_⟩⟩
    · rw [receiveCharacter_hunting hunting, if_pos (show b = Config.startByte from start)]; rfl
    · rw [receiveCharacter_hunting hunting, if_neg (show ¬b = Config.startByte from other)]; rfl
    · rw [receiveCharacter_continues receiving (g := { f with kind := some b }) (by simp [assemble, kind])]; rfl
    · by_cases short : b.toNat ≤ 96
      · rw [receiveCharacter_continues receiving (g := { f with length := some b })
          (by simp [assemble, kind, length, Config.maxPayload, short]), if_pos short]
        rfl
      · rw [receiveCharacter_discarded receiving (by simp [assemble, kind, length, Config.maxPayload, short]),
          if_neg short]
        rfl
    · rw [receiveCharacter_continues receiving (g := { f with payload := f.payload ++ [b] })
        (by simp [assemble, kind, length, room])]
      rfl
    · rw [receiveCharacter_continues receiving (g := { f with check := some b })
        (by simp [assemble, kind, length, check, Nat.not_lt.2 whole])]
      rfl

/-! ### The queue served (R119) -/

theorem serviceQueue_of_not_mayTake {s : State} (stays : mayTake s = false) : serviceQueue s = s := by
  unfold serviceQueue
  cases hq : s.sequencer.queue with
  | nil => rfl
  | cons e rest => simp [takeEntries, hq, stays]

/-- A queue of one entry that may be taken: the entry's row of R121, with nothing left to wait. -/
theorem serviceQueue_one {s : State} {e : QueueEntry} (queue : s.sequencer.queue = [e]) (may : mayTake s = true) :
    serviceQueue s = takeEntry e.request (s.withSequencer { s.sequencer with queue := [] }) := by
  simp [serviceQueue, queue, takeEntries, may]

/-! ### PARK (R117 to R119, R121) -/

/-- Past the port's checks a request is its owner's. -/
theorem judgeRequest_owned {p : Port} {r : Request} (allowed : kindAllowed (kindOf r) p = some true)
    (fits : lengthFits r = true) (s : State) : judgeRequest p r s = ownerAnswer p r s := by
  simp only [judgeRequest, allowed, fits, if_true]

theorem judgeRequest_modeRequest {p : Port} (carries : p ≠ .b) (code : Byte) (s : State) :
    judgeRequest p (.modeRequest code) s = takeModeRequest p code s := by
  cases p with
  | a => exact judgeRequest_owned rfl rfl s
  | b => exact absurd rfl carries
  | c => exact judgeRequest_owned rfl rfl s

theorem exec_modeRequest {p : Port} {s : State} (carries : p ≠ .b) (free : PortFree p s) {code : Byte}
    {request : Settled} (named : settledOfCode code = some request) {result : ResultCode} {t : State}
    (judged : judgeModeRequest request p s = (result, t)) (refused : result ≠ .accepted → t = s) :
    exec (.modeRequest p code) s = .next (settle (holdAnswer p (.modeRequest code) 0x83 result
      (if result = .accepted then modeReply t else []) t)) := by
  refine exec_delivers (reply := ⟨result, if result = .accepted then modeReply t else []⟩) rfl free
    (by simp [kindOf]) ?_
  rw [judgeRequest_modeRequest carries]
  simp only [takeModeRequest, named, judged]
  split
  · next accepted => rw [accepted]
  · next other => rw [refused other]; rfl

/-- A PARK request in a settled mode: its entry waits alone, and is taken where it may be. -/
theorem takePark_settled {s : State} (p : Port) (settled : isSettled s.sequencer.mode = true) :
    takePark p s = serviceQueue (s.withSequencer { s.sequencer with queue := [⟨.parked, p⟩] }) := by
  rcases (isSettled_iff _).1 settled with mode | mode | mode <;> simp only [takePark, mode]

theorem takePark_taken {s : State} (p : Port) (settled : isSettled s.sequencer.mode = true)
    (free : s.envelope.edit ≠ .committing) :
    takePark p s = takeEntry .parked (s.withSequencer { s.sequencer with queue := [] }) := by
  rw [takePark_settled p settled,
    serviceQueue_one (s := s.withSequencer { s.sequencer with queue := [⟨.parked, p⟩] }) rfl
      ((mayTake_iff _).2 ⟨settled, free⟩)]
  rfl

/-- Settles O36: the mode decides between a discard, a wait behind a commit, a stop and a new destination. -/
theorem parkRequestStops : Obligations.ParkRequestStops := by
  unfold Obligations.ParkRequestStops
  intro s p carries free answered
  have takes {data : List Byte} {q : Sequencer} (taken : takePark p s = s.withSequencer q)
      (shows : [modeCode q.mode, destinationCode q.mode, nat8 q.queue.length] = data) :
      exec (.modeRequest p 0) s = answered data q :=
    shows ▸ exec_modeRequest carries free (request := .parked) (t := s.withSequencer q) rfl
      (by rw [judgeModeRequest, taken]) (fun refused => absurd rfl refused)
  have taken := takePark_taken (s := s) p
  refine ⟨fun mode idle => takes ?_ ?_, fun mode busy => takes ?_ ?_, fun mode idle => takes ?_ ?_,
    fun mode idle => takes ?_ ?_, fun source d mode => takes ?_ ?_, fun d mode => takes ?_ ?_⟩
  · rw [taken (by simp [mode, isSettled]) idle]
    simp [takeEntry, mode]
  · simp only [mode]; rfl
  · rw [takePark_settled p (by simp [mode, isSettled]), serviceQueue_of_not_mayTake (by simp [mayTake, busy])]
  · simp only [mode]; rfl
  · rw [taken (by simp [mode, isSettled]) idle]
    simp [takeEntry, mode, setMode, State.withSequencer]
  · rfl
  · rw [taken (by simp [mode, isSettled]) idle]
    simp [takeEntry, mode, setMode, State.withSequencer]
  · rfl
  · simp only [takePark, mode]
  · rfl
  · simp only [takePark, mode]
  · rfl

/-! ### DIG and WALK requests not taken at once (R116) -/

theorem settledOfCode_settledCode (request : Settled) : settledOfCode (settledCode request) = some request := by
  cases request <;> rfl

theorem walkRequestRefused_iff (s : State) :
    walkRequestRefused s = true ↔ ¬(MayWalk s ∧ s.sequencer.mode ≠ .walk) := by
  rw [← walkPermitUnmoded_iff]
  cases mode : s.sequencer.mode <;> simp [walkRequestRefused, isSettled, walkPermitOk, mode]

/-- The permit and supply tests of a DIG or WALK request (R116). -/
def RequestAllowed (request : Settled) (s : State) : Prop :=
  (request = .dig → effectiveSupply s.bands ≠ .lost) ∧
    (request = .walk → MayWalk s ∧ s.sequencer.mode ≠ .walk)

theorem judgeModeRequest_fromC {request : Settled} (moves : request ≠ .parked) (s : State) :
    judgeModeRequest request .c s = (.notPermitted, s) := by
  cases request with
  | parked => exact absurd rfl moves
  | dig => rfl
  | walk => rfl

theorem judgeModeRequest_refused {request : Settled} (moves : request ≠ .parked) {s : State}
    (barred : ¬RequestAllowed request s) : judgeModeRequest request .a s = (.notPermitted, s) := by
  cases request with
  | parked => exact absurd rfl moves
  | dig =>
    have lost : effectiveSupply s.bands = .lost := by simpa [RequestAllowed] using barred
    simp [judgeModeRequest, lost]
  | walk =>
    have refused : walkRequestRefused s = true :=
      (walkRequestRefused_iff s).2 fun may => barred ⟨by simp, fun _ => may⟩
    simp [judgeModeRequest, refused]

theorem judgeModeRequest_allowed {request : Settled} (moves : request ≠ .parked) {s : State}
    (allowed : RequestAllowed request s) : judgeModeRequest request .a s = appendRequest request .a s := by
  cases request with
  | parked => exact absurd rfl moves
  | dig => simp [judgeModeRequest, allowed.1 rfl]
  | walk =>
    have passes : ¬walkRequestRefused s = true := fun refused => (walkRequestRefused_iff s).1 refused (allowed.2 rfl)
    simp [judgeModeRequest, passes]

/-- Settles O37: the tests of R116 in their order; what is appended waits, as nothing may be taken. -/
theorem modeRequestsAreQueued : Obligations.ModeRequestsAreQueued := by
  unfold Obligations.ModeRequestsAreQueued
  intro s request moves code allowed tail
  have named : settledOfCode code = some request := settledOfCode_settledCode request
  refine ⟨fun free barred => ?_, fun free passes same => ?_, fun free passes other full => ?_,
    fun free passes other room waits => ?_, fun free => ?_, fun free => ?_⟩
  · exact exec_modeRequest (by simp) free named (judgeModeRequest_refused moves barred) (fun _ => rfl)
  · refine exec_modeRequest (by simp) free named (result := .accepted) ?_ (fun _ => rfl)
    rw [judgeModeRequest_allowed moves passes, appendRequest, if_pos same]
  · refine exec_modeRequest (by simp) free named (result := .queueFull) ?_ (fun _ => rfl)
    rw [judgeModeRequest_allowed moves passes, appendRequest, if_neg other,
      if_pos (show Config.queueCapacity ≤ _ from full)]
  · have stays : mayTake (s.withSequencer { s.sequencer with queue := s.sequencer.queue ++ [⟨request, .a⟩] }) = false := by
      rcases waits with unsettled | busy
      · simp [mayTake, unsettled]
      · simp [mayTake, busy]
    rw [exec_modeRequest (by simp) free named (result := .accepted) (t := s.withSequencer
      { s.sequencer with queue := s.sequencer.queue ++ [⟨request, .a⟩] }) ?_ (fun refused => absurd rfl refused)]
    · simp [modeReply]
      rfl
    · rw [judgeModeRequest_allowed moves passes, appendRequest, if_neg other,
        if_neg (show ¬Config.queueCapacity ≤ _ from Nat.not_le.2 room),
        serviceQueue_of_not_mayTake stays]
  · exact exec_modeRequest (by simp) free named (judgeModeRequest_fromC moves s) (fun _ => rfl)
  · exact exec_delivers rfl free (by simp [kindOf])
      (judgeRequest_notPermitted (by simp) (by simp) rfl s)

end Sys2Proof.Machine
end

section
/-! The requests that write a setting (10, 11): the write each begins, and what is refused with no effect. -/

namespace Sys2Proof.Machine

/-! ### An owner's answer delivered (R170, R171) -/

theorem exec_refused {c : Instr} {p : Port} {r : Request} {s : State} {kind : Byte} {code : ResultCode}
    (asked : requestOf c = some (p, r)) (free : PortFree p s) (responds : kindOf r ||| 0x80 = kind)
    (allowed : kindAllowed (kindOf r) p = some true) (fits : lengthFits r = true)
    (owner : ownerAnswer p r s = refuse code s) :
    exec c s = .next (settle (holdAnswer p r kind code [] s)) :=
  exec_delivers (reply := ⟨code, []⟩) asked free responds ((judgeRequest_owned allowed fits s).trans owner)

/-- A write its owner accepts, ADJUSTED where what is written is not what was asked (R175, R182). -/
theorem exec_accepted {c : Instr} {r : Request} {s : State} {adjusted : Bool} {x y : RecordWrite}
    (asked : requestOf c = some (.c, r)) (free : PortFree .c s) (writes : kindOf r = 0x0D)
    (fits : lengthFits r = true) (owner : ownerAnswer .c r s = acceptWrite adjusted y s)
    (told : adjusted = true ↔ x ≠ y) : exec c s = writeBegun r x y s := by
  have judged : judgeRequest .c r s = (⟨clampedResult adjusted, []⟩, startWrite y s) :=
    (judgeRequest_owned (by rw [writes]; rfl) fits s).trans owner
  rw [exec_delivers (kind := 0x8D) asked free (by simp [writes]) judged, writeBegun]
  by_cases same : x = y
  · rw [if_pos same, show adjusted = false from by simpa [same] using told]
    rfl
  · rw [if_neg same, told.2 same]
    rfl

/-- A settings record's write, whose values its owner clamps. -/
theorem exec_clamped {α : Type} [DecidableEq α] {c : Instr} {r : Request} {s : State} {f : α → RecordWrite}
    {raw clamped : α} (asked : requestOf c = some (.c, r)) (free : PortFree .c s) (writes : kindOf r = 0x0D)
    (fits : lengthFits r = true) (injective : ∀ a b, f a = f b → a = b)
    (owner : ownerAnswer .c r s = acceptWrite (decide (clamped ≠ raw)) (f clamped) s) :
    exec c s = writeBegun r (f raw) (f clamped) s := by
  refine exec_accepted asked free writes fits owner ?_
  rw [decide_eq_true_iff]
  exact ⟨fun differ same => differ (injective _ _ same).symm, fun differ same => differ (congrArg f same.symm)⟩

theorem storeBusy_of_idle {s : State} (idle : s.store = .idle) : storeBusy s = false := by simp [storeBusy, idle]

@[simp] theorem clampNat_zero (hi n : Nat) : clampNat 0 hi n = min hi n := by simp [clampNat]

/-! ### PROFILE writes (R61, R62) -/

theorem clampProfile_eq (x : PartialProfile) : clampProfile x = clampRecord.clampPartial x := by
  have zero (hi : Nat) : clampNat 0 hi = min hi := funext (clampNat_zero hi)
  simp only [clampProfile, clampRecord.clampPartial, zero]

/-- The record a PROFILE write leaves is the one asked for, with every field clamped, over the working profiles. -/
theorem profileWrite_of_record {n : ProfileName} {x : PartialProfile} {w : RecordWrite}
    (record : profileRecord n x = some w) (p : Profiles) :
    profileWrite p n (clampProfile x) = some (clampRecord w, withRecord p (clampRecord w)) ∧
      (clampProfile x ≠ x ↔ w ≠ clampRecord w) := by
  cases n with
  | common =>
    unfold profileRecord at record
    simp only at record
    split at record
    · next accel decel ceiling creep dwell release idle =>
      obtain ⟨xa, xd, xc, xr, xw, xl, xi⟩ := x
      cases record
      simp only at accel decel ceiling creep dwell release idle
      subst accel decel ceiling creep dwell release idle
      simp [profileWrite, clampProfile, completeProfile, clampRecord, withRecord, eq_comm]
    · cases record
  | a =>
    cases record
    simp [profileWrite, clampProfile_eq, clampRecord, withRecord, eq_comm]
  | b =>
    cases record
    simp [profileWrite, clampProfile_eq, clampRecord, withRecord, eq_comm]

/-- A PROFILE write past its checks, by R62's test of the mode. -/
theorem takeWriteProfile_eq {profile presence : Byte} {fields : ProfileFields Half} {s : State} {n : ProfileName}
    {w : RecordWrite} (idle : s.store = .idle) (named : profileOfCode profile = some n) (short : presence.toNat < 128)
    (record : profileRecord n (rawProfile presence fields) = some w) :
    takeWriteProfile profile presence fields s =
      if s.sequencer.mode ≠ .parked ∧
          lowersCeiling s.shaper (withRecord s.shaper.profiles (clampRecord w)) = true then refuse .wrongMode s
      else acceptWrite (decide (clampProfile (rawProfile presence fields) ≠ rawProfile presence fields))
        (clampRecord w) s := by
  simp only [takeWriteProfile, named, Nat.not_le.2 short, if_false, storeBusy_of_idle idle, Bool.false_eq_true,
    (profileWrite_of_record record _).1]

theorem takeWriteProfile_busy {profile presence : Byte} {s : State} (busy : storeBusy s = true)
    (named : profile.toNat ≤ 2) (short : presence.toNat < 128) (fields : ProfileFields Half) :
    takeWriteProfile profile presence fields s = refuse .busy s := by
  have known : ∃ n, profileOfCode profile = some n := by
    unfold profileOfCode
    interval_cases profile.toNat <;> simp
  obtain ⟨n, known⟩ := known
  simp only [takeWriteProfile, known, Nat.not_le.2 short, if_false, busy, if_true]

/-! ### Accepted writes -/

/-- Settles O26: each group's owner past its checks begins the write of the clamped values. -/
theorem settingWritesBegin : Obligations.SettingWritesBegin := by
  unfold Obligations.SettingWritesBegin
  intro s free idle
  have ready : storeBusy s = false := storeBusy_of_idle idle
  refine ⟨fun profile presence fields n w named short record may => ?_, fun names n known => ?_,
    fun channel offset scale maxStep e parked known => ?_, fun channel offset gain low high a parked known ordered => ?_,
    fun t1 t2 t3 first second third => ?_, fun g h o cap first second => ?_, fun levels counts => ?_,
    fun body order known => ?_, fun restFrom restTo gain trip => ?_, fun confirm => ?_, fun timeout => ?_⟩
  · refine exec_accepted rfl free rfl rfl ((takeWriteProfile_eq idle named short record).trans (if_neg ?_)) ?_
    · rw [lowersCeiling_iff]
      exact fun refused => may.elim refused.1 fun keeps => keeps refused.2
    · simpa using (profileWrite_of_record record s.shaper.profiles).2
  · refine exec_accepted (adjusted := false) rfl free rfl rfl ?_ (by simp)
    simp [ownerAnswer, takeWriteAssociation, ready, known]
  · have clamped : clampEncoderCal e ⟨offset, scale.toNat, maxStep.toNat⟩ =
        ⟨offset, clampNat (scaleLow e) (scaleHigh e) scale.toNat, clampNat 1 65535 maxStep.toNat⟩ := by
      cases e <;> rfl
    refine exec_clamped (f := (RecordWrite.calEncoder e · false)) rfl free rfl ?_ (fun _ _ => by simp) ?_
    · simp [lengthFits, calShape, known]
    · simp only [ownerAnswer, takeWriteCalibration, parked, ready, acceptCalibration, known, clamped]
      rfl
  · have clamped : clampAnalogCal ⟨offset.toNat, gain.toNat, low.toNat, high.toNat⟩ =
        ⟨min 4095 offset.toNat, gain.toNat, min 4095 low.toNat, min 4095 high.toNat⟩ := by
      simp [clampAnalogCal, Nat.min_eq_right (Nat.le_of_lt_succ gain.isLt)]
    refine exec_clamped (f := RecordWrite.calAnalog a) rfl free rfl ?_ (fun _ _ => by simp) ?_
    · simp [lengthFits, calShape, known]
    · have ordered : limitsOrdered ⟨min 4095 offset.toNat, gain.toNat, min 4095 low.toNat, min 4095 high.toNat⟩ = true := by
        simp only [limitsOrdered, decide_eq_false (Nat.not_le.2 ordered), Bool.and_false, Bool.not_false, Bool.and_self]
      simp only [ownerAnswer, takeWriteCalibration, parked, ready, acceptCalibration, known, clamped, ordered, if_true]
      rfl
  · have clamped : clampSupply ⟨t1.toNat, t2.toNat, t3.toNat⟩ =
        ⟨min 1499 t1.toNat, min 1499 t2.toNat, min 1499 t3.toNat⟩ := by simp [clampSupply]
    have ordered : supplyOrdered ⟨min 1499 t1.toNat, min 1499 t2.toNat, min 1499 t3.toNat⟩ = true := by
      simp only [supplyOrdered, Bool.and_eq_true, decide_eq_true_iff]
      omega
    refine exec_clamped rfl free rfl rfl (fun _ _ => by simp) ?_
    simp only [ownerAnswer, takeWriteSupplyBands, ready, clamped, ordered, if_true, Bool.false_eq_true, if_false]
  · have clamped : clampBoom ⟨g.toNat, h.toNat, o.toNat, cap.toNat⟩ =
        ⟨min 1999 g.toNat, min 1999 h.toNat, min 1999 o.toNat, min 1000 cap.toNat⟩ := by simp [clampBoom]
    have ordered : boomOrdered ⟨min 1999 g.toNat, min 1999 h.toNat, min 1999 o.toNat, min 1000 cap.toNat⟩ = true := by
      simp only [boomOrdered, Bool.and_eq_true, decide_eq_true_iff]
      exact ⟨first, second⟩
    refine exec_clamped rfl free rfl rfl (fun _ _ => by simp) ?_
    simp only [ownerAnswer, takeWriteBoomBands, ready, clamped, ordered, if_true, Bool.false_eq_true, if_false]
  · refine exec_clamped rfl free rfl rfl (fun _ _ => by simp) ?_
    simp only [ownerAnswer, takeWriteCurrentTrip, ready, Bool.false_eq_true, if_false]
    rfl
  · have clamped : clampSharing ⟨⟨body.normal.toNat, body.low.toNat, body.sag.toNat⟩,
        body.weights.map fun _ x => x.toNat, order⟩ =
        ⟨⟨min 1000 body.normal.toNat, min 1000 body.low.toNat, min 1000 body.sag.toNat⟩,
          body.weights.map fun _ x => min 1000 x.toNat, order⟩ := by
      simp [clampSharing, PerMotion.map]
    refine exec_clamped rfl free rfl rfl (fun _ _ => by simp) ?_
    simp only [ownerAnswer, takeWriteSharing, ready, known, clamped, Bool.false_eq_true, if_false]
  · have clamped : clampWalk ⟨restFrom.toNat, restTo.toNat, gain.toNat, trip.toNat⟩ =
        ⟨min 359 restFrom.toNat, min 359 restTo.toNat, min 100 gain.toNat, clampNat 5 90 trip.toNat⟩ := by
      simp [clampWalk]
    refine exec_clamped rfl free rfl rfl (fun _ _ => by simp) ?_
    simp only [ownerAnswer, takeWriteWalk, ready, clamped, Bool.false_eq_true, if_false]
  · refine exec_clamped rfl free rfl rfl (fun _ _ => by simp) ?_
    simp only [ownerAnswer, takeWriteGate, ready, Bool.false_eq_true, if_false]
    rfl
  · refine exec_clamped rfl free rfl rfl (fun _ _ => by simp) ?_
    simp only [ownerAnswer, takeWriteSequencer, ready, Bool.false_eq_true, if_false]
    rfl

/-! ### Refused for the store or the mode (R182) -/

theorem encoderOfNumber_isSome {n : Nat} (number : n ≤ 4) : (encoderOfNumber n).isSome = true := by
  interval_cases n <;> rfl

theorem analogOfNumber_isSome {n : Nat} (low : 5 ≤ n) (high : n ≤ 9) : (analogOfNumber n).isSome = true := by
  interval_cases n <;> rfl

/-- The requests that ask for the store first pass the port's checks on Port C, and are BUSY while it is. -/
theorem asksForStore_busy {r : Request} {s : State} (asks : asksForStore r = true) (busy : storeBusy s = true) :
    kindAllowed (kindOf r) .c = some true ∧ lengthFits r = true ∧ ownerAnswer .c r s = refuse .busy s := by
  cases r with
  | writeAssociation names => exact ⟨rfl, rfl, by simp only [ownerAnswer, takeWriteAssociation, busy, if_true]⟩
  | writeSupplyBands t1 t2 t3 => exact ⟨rfl, rfl, by simp only [ownerAnswer, takeWriteSupplyBands, busy, if_true]⟩
  | writeBoomBands g h o cap => exact ⟨rfl, rfl, by simp only [ownerAnswer, takeWriteBoomBands, busy, if_true]⟩
  | writeCurrentTrip levels counts =>
    exact ⟨rfl, rfl, by simp only [ownerAnswer, takeWriteCurrentTrip, busy, if_true]⟩
  | writeSharing body => exact ⟨rfl, rfl, by simp only [ownerAnswer, takeWriteSharing, busy, if_true]⟩
  | writeWalk lo hi gain trip => exact ⟨rfl, rfl, by simp only [ownerAnswer, takeWriteWalk, busy, if_true]⟩
  | writeGate confirm => exact ⟨rfl, rfl, by simp only [ownerAnswer, takeWriteGate, busy, if_true]⟩
  | writeSequencer timeout => exact ⟨rfl, rfl, by simp only [ownerAnswer, takeWriteSequencer, busy, if_true]⟩
  | _ => cases asks

/-- The requests that ask for PARKED and then for the store pass the port's checks on Port C, and are refused so. -/
theorem asksForStoreParked_refused {r : Request} {s : State} (asks : asksForStoreParked s r = true) :
    kindAllowed (kindOf r) .c = some true ∧ lengthFits r = true ∧
      (s.sequencer.mode ≠ .parked → ownerAnswer .c r s = refuse .wrongMode s) ∧
      (s.sequencer.mode = .parked → storeBusy s = true → ownerAnswer .c r s = refuse .busy s) := by
  cases r with
  | writeCalibration channel body =>
    refine ⟨rfl, ?_, fun moves => if_pos moves, fun parked busy => (if_neg (not_not.2 parked)).trans (if_pos busy)⟩
    cases body with
    | encoder offset scale maxStep => exact encoderOfNumber_isSome (of_decide_eq_true asks)
    | analog offset gain low high =>
      obtain ⟨least, most⟩ : 5 ≤ channel.toNat ∧ channel.toNat ≤ 9 := of_decide_eq_true asks
      exact analogOfNumber_isSome least most
  | zeroChannel channel value =>
    obtain ⟨e, known⟩ := Option.isSome_iff_exists.1 (encoderOfNumber_isSome (of_decide_eq_true asks))
    refine ⟨rfl, rfl, fun moves => ?_, fun parked busy => ?_⟩ <;> simp only [ownerAnswer, takeZeroChannel, known]
    · exact if_pos moves
    · exact (if_neg (not_not.2 parked)).trans (if_pos busy)
  | editCommit =>
    have edit : s.envelope.edit = .open := eq_of_beq asks
    refine ⟨rfl, rfl, fun moves => ?_, fun parked busy => ?_⟩ <;> simp only [ownerAnswer, takeEditCommit, edit]
    · exact if_pos moves
    · exact (if_neg (not_not.2 parked)).trans (if_pos busy)
  | restart =>
    exact ⟨rfl, rfl, fun moves => if_pos moves, fun parked busy => (if_neg (not_not.2 parked)).trans (if_pos busy)⟩
  | _ => cases asks

/-- Settles O27: the first check of each of these requests is the one of the store, of the mode, or of the mode and
then of the store. -/
theorem writesAreRefusedWithoutEffect : Obligations.WritesAreRefusedWithoutEffect := by
  unfold Obligations.WritesAreRefusedWithoutEffect
  refine ⟨fun s c r free writing asked asks => ?_, fun s c r free moves asked => ⟨fun asks => ?_, ?_⟩,
    fun s profile presence fields free writing named short => ?_⟩
  · have busy := (storeBusy_iff s).2 writing
    rcases asks with asks | ⟨parked, asks⟩
    · obtain ⟨allowed, fits, owner⟩ := asksForStore_busy asks busy
      exact exec_refused asked free rfl allowed fits owner
    · obtain ⟨allowed, fits, -, owner⟩ := asksForStoreParked_refused asks
      exact exec_refused asked free rfl allowed fits (owner parked busy)
  · obtain ⟨allowed, fits, owner, -⟩ := asksForStoreParked_refused asks
    exact exec_refused asked free rfl allowed fits (owner moves)
  · rintro profile presence fields n w rfl idle named short record lowers
    refine exec_refused asked free (by simp [kindOf]) rfl rfl
      ((takeWriteProfile_eq idle named short record).trans (if_pos ⟨moves, ?_⟩))
    exact (lowersCeiling_iff _ _).2 lowers
  · exact exec_refused (r := .writeProfile profile presence fields) rfl free (by simp [kindOf]) rfl rfl
      (takeWriteProfile_busy ((storeBusy_iff s).2 writing) named short fields)

/-! ### Bad arguments (R170, R188) -/

theorem profileOfCode_none {b : Byte} (beyond : 2 < b.toNat) : profileOfCode b = none := by
  unfold profileOfCode
  split <;> first | rfl | omega

theorem settledOfCode_none {b : Byte} (beyond : 2 < b.toNat) : settledOfCode b = none := by
  unfold settledOfCode
  split <;> first | rfl | omega

theorem readinessOfCode_none {b : Byte} (beyond : 2 < b.toNat) : readinessOfCode b = none := by
  unfold readinessOfCode
  split <;> first | rfl | omega

theorem motionOfCode_none {b : Byte} (beyond : 3 < b.toNat) : motionOfCode b = none := by
  unfold motionOfCode
  split <;> first | rfl | omega

theorem markOfCode_none {b : Byte} (beyond : 1 < b.toNat) : markOfCode b = none := by
  unfold markOfCode
  split <;> first | rfl | omega

theorem groupOfCode_none {b : Byte} (beyond : 9 < b.toNat) : groupOfCode b = none := by
  unfold groupOfCode
  split <;> first | rfl | omega

theorem encoderOfNumber_none {n : Nat} (beyond : 4 < n) : encoderOfNumber n = none := by
  unfold encoderOfNumber
  split <;> first | rfl | omega

theorem analogOfNumber_none {n : Nat} (outside : n < 5 ∨ 9 < n) : analogOfNumber n = none := by
  unfold analogOfNumber
  split <;> first | rfl | omega

theorem associationOf_none {names : PerMotion Byte} {m : Motion} (beyond : 2 < (names.get m).toNat) :
    associationOf names = none := by
  have unknown := profileOfCode_none beyond
  unfold associationOf
  split
  · next known _ _ _ => cases m <;> simp_all [PerMotion.get]
  · rfl

theorem readinessOf_none {values : PerGroup Byte} {g : Group} (beyond : 2 < (values.get g).toNat) :
    readinessOf values = none := by
  have unknown := readinessOfCode_none beyond
  unfold readinessOf
  split
  · cases g <;> simp_all [PerGroup.get]
  · rfl

/-- The motions that a list of codes names, each code in its place. -/
theorem motionsOfCodes_eq_some {codes : List Byte} {ms : List Motion} (read : motionsOfCodes codes = some ms) :
    codes.map motionOfCode = ms.map some := by
  induction codes generalizing ms with
  | nil => cases read; rfl
  | cons b rest ih =>
    simp only [motionsOfCodes, Option.pure_def, Option.bind_eq_bind, Option.bind_eq_some_iff, Option.some.injEq] at read
    obtain ⟨m, head, tail, read, rfl⟩ := read
    simp [head, ih read]

theorem motionOfCode_injective {a b : Byte} {m : Motion} (first : motionOfCode a = some m)
    (second : motionOfCode b = some m) : a = b := by
  have code {x : Byte} (h : motionOfCode x = some m) : x.toNat = (motionCode m).toNat := by
    unfold motionOfCode at h
    split at h <;> simp_all <;> subst m <;> rfl
  exact BitVec.eq_of_toNat_eq ((code first).trans (code second).symm)

theorem rawShedOrder_none {body : SharingBody}
    (wrong : let entries := [body.shed0, body.shed1, body.shed2, body.shed3].take body.shedLength.toNat
      4 < body.shedLength.toNat ∨ (∃ x ∈ entries, 3 < x.toNat) ∨ ¬entries.Nodup) : rawShedOrder body = none := by
  unfold rawShedOrder
  split
  · next short =>
    split
    · next ms read =>
      have named := motionsOfCodes_eq_some read
      refine if_neg fun once => ?_
      rcases wrong with long | ⟨x, mem, beyond⟩ | twice
      · omega
      · have : none ∈ ms.map some := by
          rw [← named, ← motionOfCode_none beyond]
          exact List.mem_map_of_mem mem
        simp at this
      · refine twice (List.Nodup.of_map motionOfCode ?_)
        rw [named]
        exact once.map (Option.some_injective _)
    · rfl
  · rfl

theorem completeProfile_none {presence : Byte} {fields : ProfileFields Half} {bit : Nat} (field : bit < 7)
    (clear : presence.getLsbD bit = false) : completeProfile (clampProfile (rawProfile presence fields)) = none := by
  interval_cases bit <;> simp at clear <;> simp [completeProfile, clampProfile, rawProfile, clear]

theorem judgeRequest_misfit {p : Port} {r : Request} (allowed : kindAllowed (kindOf r) p = some true)
    (misfit : lengthFits r = false) (s : State) : judgeRequest p r s = (⟨.badArgument, []⟩, s) := by
  simp only [judgeRequest, allowed, misfit]
  rfl

theorem groupOfCode_profile {b : Byte} (named : groupOfCode b = some .profile) : b = 0 := by
  unfold groupOfCode at named
  split at named <;> first | exact BitVec.eq_of_toNat_eq ‹_› | cases named

theorem groupOfCode_calibration {b : Byte} (named : groupOfCode b = some .calibration) : b = 2 := by
  unfold groupOfCode at named
  split at named <;> first | exact BitVec.eq_of_toNat_eq ‹_› | cases named

/-- A group with no second byte is read with 00h alone. -/
theorem settingBytes_unnamed {g : SettingGroup} {which : Byte} (profile : g ≠ .profile) (calibration : g ≠ .calibration)
    (second : which ≠ 0) (s : State) : settingBytes s g which = none := by
  cases g with
  | profile => exact absurd rfl profile
  | calibration => exact absurd rfl calibration
  | _ => exact if_neg second

theorem settingBytes_profile_none {which : Byte} (beyond : 2 < which.toNat) (s : State) :
    settingBytes s .profile which = none := by
  simp only [settingBytes, profileOfCode_none beyond, Option.map_none]

theorem settingBytes_calibration_none {which : Byte} (beyond : 9 < which.toNat) (s : State) :
    settingBytes s .calibration which = none := by
  simp only [settingBytes, encoderOfNumber_none (show 4 < which.toNat by omega), analogOfNumber_none (.inr beyond),
    Option.map_none]

/-- An analog CALIBRATION write whose limits are out of order after clamping. -/
theorem acceptCalibration_unordered {channel : Nat} {offset gain low high : Half}
    (unordered : min 4095 high.toNat ≤ min 4095 low.toNat) (s : State) :
    acceptCalibration channel (.analog offset gain low high) s = refuse .badArgument s := by
  unfold acceptCalibration
  simp only
  split
  · rfl
  · exact if_neg (by simp [limitsOrdered, clampAnalogCal, unordered])

/-- Settles O28: each request's owner judges the code, the order or the list that is wrong. -/
theorem badArgumentsAreRefused : Obligations.BadArgumentsAreRefused := by
  unfold Obligations.BadArgumentsAreRefused
  intro s refused
  refine ⟨fun free => ⟨fun profile presence fields wrong => ?_, fun channel body wrong => ?_,
    fun channel value beyond => ?_, fun group which wrong => ?_, fun idle => ⟨fun names m beyond => ?_,
      fun t1 t2 t3 wrong => ?_, fun g h o cap wrong => ?_, fun body => ?_⟩⟩, fun mark refs free beyond => ?_,
    fun p mode carries free beyond => ?_, fun values g free beyond => ?_⟩
  · refine exec_refused (r := .writeProfile profile presence fields) rfl free rfl rfl rfl ?_
    unfold ownerAnswer takeWriteProfile
    simp only
    split
    · rfl
    · next n named =>
      split
      · rfl
      · next short =>
        rcases wrong with beyond | long | ⟨idle, rfl, bit, field, clear⟩
        · simp [profileOfCode_none beyond] at named
        · exact absurd long short
        · cases named
          simp [storeBusy_of_idle idle, profileWrite, completeProfile_none field clear]
  · refine exec_delivers rfl free rfl (reply := ⟨.badArgument, []⟩) ?_
    by_cases shape : calShape channel body = true
    · rw [judgeRequest_owned (r := .writeCalibration channel body) rfl shape]
      rcases wrong with ⟨offset, scale, maxStep, rfl, beyond⟩ | ⟨offset, gain, low, high, rfl, below | beyond | unordered⟩
      · simp [calShape, encoderOfNumber_none beyond] at shape
      · simp [calShape, analogOfNumber_none (.inl below)] at shape
      · simp [calShape, analogOfNumber_none (.inr beyond)] at shape
      · obtain ⟨parked, idle, unordered⟩ := unordered
        simp only [ownerAnswer, takeWriteCalibration, parked, storeBusy_of_idle idle,
          acceptCalibration_unordered unordered]
        rfl
    · exact judgeRequest_misfit (r := .writeCalibration channel body) rfl (Bool.eq_false_iff.2 shape) s
  · exact exec_refused rfl free rfl rfl rfl (by simp only [ownerAnswer, takeZeroChannel, encoderOfNumber_none beyond])
  · refine exec_refused rfl free rfl rfl rfl ?_
    simp only [ownerAnswer, takeReadSetting]
    split
    · rfl
    · next g named =>
      have none : settingBytes s g which = none := by
        rcases wrong with beyond | ⟨rfl, beyond⟩ | ⟨rfl, beyond⟩ | ⟨profile, calibration, second⟩
        · simp [groupOfCode_none beyond] at named
        · cases named
          exact settingBytes_profile_none beyond s
        · cases named
          exact settingBytes_calibration_none beyond s
        · exact settingBytes_unnamed (fun is => profile (groupOfCode_profile (is ▸ named)))
            (fun is => calibration (groupOfCode_calibration (is ▸ named))) second s
      rw [none]
  · exact exec_refused rfl free rfl rfl rfl
      (by simp [ownerAnswer, takeWriteAssociation, storeBusy_of_idle idle, associationOf_none beyond])
  · refine exec_refused rfl free rfl rfl rfl ?_
    have unordered : supplyOrdered (clampSupply ⟨t1.toNat, t2.toNat, t3.toNat⟩) = false := by
      simp [supplyOrdered, clampSupply]
      omega
    simp [ownerAnswer, takeWriteSupplyBands, storeBusy_of_idle idle, unordered]
  · refine exec_refused rfl free rfl rfl rfl ?_
    have unordered : boomOrdered (clampBoom ⟨g.toNat, h.toNat, o.toNat, cap.toNat⟩) = false := by
      simp [boomOrdered, clampBoom]
      omega
    simp [ownerAnswer, takeWriteBoomBands, storeBusy_of_idle idle, unordered]
  · intro entries wrong
    exact exec_refused rfl free rfl rfl rfl
      (by simp [ownerAnswer, takeWriteSharing, storeBusy_of_idle idle, rawShedOrder_none wrong])
  · exact exec_refused rfl free rfl rfl rfl (by simp only [ownerAnswer, takeMotionRequest, markOfCode_none beyond])
  · refine exec_delivers (reply := ⟨.badArgument, []⟩) rfl free rfl ?_
    rw [judgeRequest_modeRequest carries]
    simp only [takeModeRequest, settledOfCode_none beyond]
    rfl
  · exact exec_refused rfl free rfl rfl rfl (by simp only [ownerAnswer, takeDriveState, readinessOf_none beyond])

end Sys2Proof.Machine
end

section
/-! The working envelope (03): the edit requests and the commit's beginning, what the unit forms from a snapshot, and
the commit's completion. -/

namespace Sys2Proof.Machine

/-! ### The edit requests (R50 to R54) -/

theorem exec_taken {c : Instr} {p : Port} {r : Request} {s t : State} {kind : Byte} {code : ResultCode}
    (asked : requestOf c = some (p, r)) (free : PortFree p s) (responds : kindOf r ||| 0x80 = kind)
    (allowed : kindAllowed (kindOf r) p = some true) (fits : lengthFits r = true)
    (owner : ownerAnswer p r s = (⟨code, []⟩, t)) : exec c s = .next (settle (holdAnswer p r kind code [] t)) :=
  exec_delivers (reply := ⟨code, []⟩) asked free responds ((judgeRequest_owned allowed fits s).trans owner)

/-- The write of a position of the buffer, where it is edited. -/
def editedWrite (i : Nat) : Option BufferSlot → Option RecordWrite
  | some slot => if slot.edited = true then some (.zone i slot.entry) else none
  | none => none

theorem editedRecords_eq (i : Nat) (b : List BufferSlot) :
    editedRecords i b = (List.range b.length).filterMap fun k => editedWrite (i + k) b[k]? := by
  induction b generalizing i with
  | nil => rfl
  | cons slot rest ih =>
    have shift : (fun k => editedWrite (i + k) (slot :: rest)[k]?) ∘ Nat.succ =
        fun k => editedWrite (i + 1 + k) rest[k]? := by
      funext k
      simp [Nat.add_assoc, Nat.add_comm 1]
    rw [editedRecords, ih, List.length_cons, List.range_succ_eq_map, List.filterMap_cons, List.filterMap_map, shift]
    by_cases edited : slot.edited = true <;> simp [editedWrite, edited]

theorem lengthFits_editZone {position : Byte} {entry : ZoneBody} (fits : ∀ bytes, entry ≠ .misfit bytes) :
    lengthFits (.editZone position entry) = true := by
  cases entry with
  | misfit bytes => exact absurd rfl (fits bytes)
  | _ => rfl

theorem fits_of_rawEntry {entry : ZoneBody} {z : Option Zone} (read : rawEntry entry = some z) (bytes : List Byte) :
    entry ≠ .misfit bytes := by
  rintro rfl
  cases read

/-- An EDIT-ZONE of an open edit past its position check (R51). -/
theorem takeEditZone_open {position : Byte} {entry : ZoneBody} {s : State} {z : Option Zone}
    (edit : s.envelope.edit = .open) (inside : position.toNat ≤ 23) (read : rawEntry entry = some z) :
    takeEditZone position entry s = acceptEntry position.toNat z s := by
  have listed : ¬Config.zonePositions ≤ position.toNat := fun h => absurd (le_trans h inside) (by decide)
  simp only [takeEditZone, edit, if_neg listed, read]

/-- Settles O22: each request by the edit state; the records of the commit by `editedRecords_eq`. -/
theorem editRequestsAndCommitBegin : Obligations.EditRequestsAndCommitBegin := by
  unfold Obligations.EditRequestsAndCommitBegin
  refine ⟨fun s free => ⟨fun edit => ?_, fun edit => ?_, fun position entry edit inside => ⟨fun read => ?_,
    fun z read ordered => ?_, fun z read reversed => ?_⟩⟩, fun s free edit parked idle full => ?_, fun s free => ?_⟩
  · exact exec_taken rfl free rfl rfl rfl (if_pos edit)
  · exact exec_taken rfl free rfl rfl rfl (by simp only [ownerAnswer, takeEditDiscard, edit]; rfl)
  · exact exec_taken rfl free (by simp [kindOf]) rfl (lengthFits_editZone (fits_of_rawEntry read))
      (takeEditZone_open edit inside read)
  · refine exec_taken rfl free (by simp [kindOf]) rfl (lengthFits_editZone (fits_of_rawEntry read))
      ((takeEditZone_open edit inside read).trans ((if_pos ordered).trans ?_))
    rw [clampedResult_eq]
    rfl
  · exact exec_refused rfl free (by simp [kindOf]) rfl (lengthFits_editZone (fits_of_rawEntry read))
      ((takeEditZone_open edit inside read).trans (if_neg (by simp [reversed])))
  · have taken : ownerAnswer .c .editCommit s = (⟨.accepted, []⟩, beginCommit s) := by
      simp only [ownerAnswer, takeEditCommit, edit, parked, storeBusy_of_idle idle]
      rfl
    rw [exec_taken (kind := 0x93) rfl free rfl rfl rfl taken, beginCommit, commitRest, editedRecords_eq, full]
    simp only [Nat.zero_add]
    rfl
  · intro refused
    refine ⟨fun edit => exec_refused rfl free rfl rfl rfl (if_neg edit), fun edit => ⟨?_, ?_⟩, fun edit => ⟨?_, ?_⟩,
      fun position entry => ⟨?_, fun fits => ⟨fun edit => ?_, fun edit => ?_, fun edit wrong => ?_⟩⟩⟩
    · exact exec_refused rfl free rfl rfl rfl (by simp only [ownerAnswer, takeEditDiscard, edit])
    · exact exec_refused rfl free rfl rfl rfl (by simp only [ownerAnswer, takeEditCommit, edit])
    · exact exec_refused rfl free rfl rfl rfl (by simp only [ownerAnswer, takeEditDiscard, edit])
    · exact exec_refused rfl free rfl rfl rfl (by simp only [ownerAnswer, takeEditCommit, edit])
    · rintro ⟨bytes, rfl⟩
      exact exec_delivers (reply := ⟨.badArgument, []⟩) rfl free (by simp [kindOf]) (judgeRequest_misfit rfl rfl s)
    · exact exec_refused rfl free (by simp [kindOf]) rfl (lengthFits_editZone fits)
        (by simp only [ownerAnswer, takeEditZone, edit])
    · exact exec_refused rfl free (by simp [kindOf]) rfl (lengthFits_editZone fits)
        (by simp only [ownerAnswer, takeEditZone, edit])
    · refine exec_refused rfl free (by simp [kindOf]) rfl (lengthFits_editZone fits) ?_
      simp only [ownerAnswer, takeEditZone, edit]
      split
      · rfl
      · next inside =>
        rcases wrong with beyond | unread
        · exact absurd (show Config.zonePositions ≤ position.toNat from beyond) inside
        · rw [unread]

/-! ### What the unit forms from a snapshot (R37, R38, R45) -/

/-- The point of a snapshot; any where none has been taken. -/
def pointShown (snap : Option Snapshot) : Point :=
  snap.elim ⟨0, 0, 0⟩ fun x =>
    ⟨x.encoders.swingAngle.value, x.encoders.hoistPayout.value, x.encoders.dragPayout.value⟩

theorem pointOf_known {snap : Option Snapshot} (known : PositionsKnown snap) : pointOf snap = some (pointShown snap) := by
  cases snap with
  | none => cases known
  | some x => exact if_pos (of_decide_eq_true known)

theorem pointOf_unknown {snap : Option Snapshot} (unknown : ¬PositionsKnown snap) : pointOf snap = none := by
  cases snap with
  | none => rfl
  | some x => exact if_neg fun valid => unknown (decide_eq_true valid)

theorem foldl_min_le (l : List Nat) (a : Nat) :
    l.foldl min a ≤ a ∧ (∀ k ∈ l, l.foldl min a ≤ k) ∧ (l.foldl min a = a ∨ l.foldl min a ∈ l) := by
  induction l generalizing a with
  | nil => simp
  | cons x rest ih =>
    obtain ⟨start, each, which⟩ := ih (min a x)
    have first : rest.foldl min (min a x) ≤ x := start.trans (min_le_right a x)
    refine ⟨start.trans (min_le_left a x), List.forall_mem_cons.2 ⟨first, each⟩, ?_⟩
    rcases which with least | mem
    · rcases min_choice a x with h | h
      · exact .inl (least.trans h)
      · exact .inr (List.mem_cons.2 (.inl (least.trans h)))
    · exact .inr (List.mem_cons_of_mem x mem)

theorem zoneCap_iff (creep : PerDig Nat) (p : Point) (m : DigMotion) (d : Direction) (z : Zone) (k : Nat) :
    zoneCap creep p m d z = some k ↔ CapGiven creep p m d z k := by
  cases z with
  | keepOut box x =>
    cases m <;> simp [zoneCap, CapGiven, marginFor, bandFor, PerDig.get, eq_comm]
  | slow box caps => simp [zoneCap, CapGiven]
  | warnOnly box => simp [zoneCap, CapGiven]

theorem leastCap_isLeast (zones : List Zone) (creep : PerDig Nat) (p : Point) (m : DigMotion) (d : Direction) :
    IsLeastCap zones creep p m d (leastCap zones creep p m d) := by
  obtain ⟨start, each, which⟩ := foldl_min_le (zones.filterMap (zoneCap creep p m d)) 1000
  refine ⟨start, fun z mem k given => each k ?_, which.imp_right fun mem => ?_⟩
  · exact List.mem_filterMap.2 ⟨z, mem, (zoneCap_iff ..).2 given⟩
  · obtain ⟨z, mem, given⟩ := List.mem_filterMap.1 mem
    exact ⟨z, mem, (zoneCap_iff ..).1 given⟩

theorem capOf_valid (zones : List Zone) (creep : PerDig Nat) (p : Point) (m : DigMotion) (d : Direction) :
    capOf (capsFor .valid zones creep p) m d = leastCap zones creep p m d := by
  cases m <;> cases d <;> rfl

theorem capOf_allCaps (c : Nat) (m : DigMotion) (d : Direction) : capOf (allCaps c) m d = c := by
  cases m <;> cases d <;> rfl

/-- Whether a position's zone is of a kind and contains a point. -/
def TableSlot.contains (kind : Zone → Bool) (p : Point) (slot : TableSlot) : Bool :=
  slot.entry.any fun z => kind z && inBox (zoneBox z) p

theorem lowestContaining_eq (kind : Zone → Bool) (p : Point) (t : List TableSlot) :
    lowestContaining kind p t = t.findIdx? (TableSlot.contains kind p) := by
  unfold lowestContaining
  congr
  funext slot
  unfold TableSlot.contains
  cases slot.entry <;> rfl

theorem containsAt_iff {kind : Zone → Bool} {t : List TableSlot} {p : Point} {i : Nat} :
    ContainsAt kind t p i ↔ ∃ h : i < t.length, t[i].contains kind p = true := by
  simp only [ContainsAt, List.getElem?_eq_some_iff, TableSlot.contains, Option.any_eq_true,
    Bool.and_eq_true]
  constructor
  · rintro ⟨slot, z, ⟨inside, rfl⟩, entry, holds⟩
    exact ⟨inside, z, entry, holds⟩
  · rintro ⟨inside, z, entry, holds⟩
    exact ⟨_, z, ⟨inside, rfl⟩, entry, holds⟩

theorem lowestContaining_isLowest (kind : Zone → Bool) (p : Point) (t : List TableSlot) :
    IsLowest kind t p (lowestContaining kind p t) := by
  rw [lowestContaining_eq]
  cases found : t.findIdx? (TableSlot.contains kind p) with
  | none =>
    intro i contains
    obtain ⟨inside, holds⟩ := containsAt_iff.1 contains
    exact absurd holds (by simp [List.findIdx?_eq_none_iff.1 found _ (List.getElem_mem inside)])
  | some i =>
    obtain ⟨inside, holds, least⟩ := List.findIdx?_eq_some_iff_getElem.1 found
    refine ⟨containsAt_iff.2 ⟨inside, holds⟩, fun j before contains => ?_⟩
    obtain ⟨_, holds⟩ := containsAt_iff.1 contains
    exact least j before holds

/-- What a snapshot gives the unit (R37, R38, R45). -/
theorem formEnvelope_formed (creep : PerDig Nat) (snap : Option Snapshot) (e : Envelope) :
    EnvelopeFormed e.table e.edit e.tableFailed creep snap (formEnvelope creep snap e) := by
  have condition : (formEnvelope creep snap e).condition = conditionOf e.edit e.tableFailed (pointOf snap) := rfl
  have caps : (formEnvelope creep snap e).caps = capsFor (conditionOf e.edit e.tableFailed (pointOf snap))
      (tableZones e.table) creep ((pointOf snap).getD ⟨0, 0, 0⟩) := rfl
  have inside : (formEnvelope creep snap e).keepOutMember = memberOf isKeepOut e.tableFailed (pointOf snap) e.table := rfl
  have warned : (formEnvelope creep snap e).warnMember = memberOf isWarnOnly e.tableFailed (pointOf snap) e.table := rfl
  refine ⟨fun edit => ?_, fun edit failed => ?_, fun edit usable unknown => ?_, fun edit usable known => ?_,
    fun valid m d => ?_, fun open' m d => ?_, fun committing m d => ?_, fun usable known => ?_, fun none => ?_⟩
  · rw [condition, conditionOf, if_pos edit]
  · rw [condition, conditionOf, if_neg edit, if_pos failed]
  · simp [condition, conditionOf, edit, usable, pointOf_unknown unknown]
  · simp [condition, conditionOf, edit, usable, pointOf_known known]
  · rw [condition] at valid
    have known : PositionsKnown snap := by
      by_contra unknown
      rw [pointOf_unknown unknown, conditionOf] at valid
      split at valid
      · cases valid
      · split at valid <;> cases valid
    rw [caps, valid, capOf_valid, pointOf_known known]
    exact leastCap_isLeast ..
  · rw [condition] at open'
    rcases open' with is | is <;> rw [caps, is] <;> exact capOf_allCaps 1000 m d
  · rw [condition] at committing
    rw [caps, committing]
    exact capOf_allCaps 0 m d
  · rw [inside, warned, usable, pointOf_known known]
    exact ⟨lowestContaining_isLowest .., lowestContaining_isLowest ..⟩
  · rw [inside, warned]
    rcases none with failed | unknown
    · rw [failed]
      exact ⟨rfl, rfl⟩
    · rw [pointOf_unknown unknown]
      cases e.tableFailed <;> exact ⟨rfl, rfl⟩

/-- The reports the unit has made are no part of what it forms. -/
theorem scannedEnvelope_formed (creep : PerDig Nat) (snap : Option Snapshot) (e : Envelope) :
    EnvelopeFormed e.table e.edit e.tableFailed creep snap (scannedEnvelope creep snap e) :=
  formEnvelope_formed creep snap e

/-- Settles O21: the scan leaves the envelope that the new snapshot gives (`scannedEnvelope_formed`). -/
theorem scanFormsEnvelope : Obligations.ScanFormsEnvelope := by
  unfold Obligations.ScanFormsEnvelope
  intro s conversions running
  refine ⟨_, _, exec_scanCompletion_running conversions running, congrArg (·.snapshot) (scanAll_scanner conversions s), ?_⟩
  rw [settle_envelope, (scanAll_reports conversions s).envelope]
  exact scannedEnvelope_formed ..

/-! ### The commit's completion (R55) -/

/-- Reports that stop nothing change the Alarm Unit and the list-changed marks alone. -/
theorem takeReports_eq {rs : List Report} (quiet : ∀ r ∈ rs, alarmClass r.key.1 r.key.2 ≠ .trip) (s : State) :
    takeReports rs s = { s with
      alarms := alarmsAfter rs s
      ports := { s.ports with
        a := { s.ports.a with listChanged := (takeReports rs s).ports.a.listChanged }
        c := { s.ports.c with listChanged := (takeReports rs s).ports.c.listChanged } } } := by
  have stands : ∃ u la lc, takeReports rs s = { s with
      alarms := u
      ports := { s.ports with a := { s.ports.a with listChanged := la }, c := { s.ports.c with listChanged := lc } } } := by
    induction rs generalizing s with
    | nil => exact ⟨s.alarms, s.ports.a.listChanged, s.ports.c.listChanged, rfl⟩
    | cons r rest ih =>
      have first : ∃ x : Reported, r.take s = reportedState x s := by
        have other := quiet r List.mem_cons_self
        cases r with
        | raise c src d => exact ⟨_, (applyClass_other other _).trans (takeReport_eq _ s)⟩
        | momentary c src d => exact ⟨_, (applyClass_other other _).trans (takeReport_eq _ s)⟩
        | gone c src => exact ⟨_, takeReport_eq _ s⟩
      obtain ⟨x, first⟩ := first
      obtain ⟨u, la, lc, later⟩ := ih (fun r mem => quiet r (List.mem_cons_of_mem _ mem)) (r.take s)
      exact ⟨u, la, lc, by rw [show takeReports (r :: rest) s = takeReports rest (r.take s) from rfl, later, first]; rfl⟩
  obtain ⟨u, la, lc, stands⟩ := stands
  rw [show alarmsAfter rs s = (takeReports rs s).alarms from rfl, stands]

theorem envelopeReports_class (before after : Envelope) (snap : Option Snapshot) :
    ∀ r ∈ envelopeReports before after snap, alarmClass r.key.1 r.key.2 ≠ .trip := by
  unfold envelopeReports
  simp only [List.mem_append]
  rintro r ((mem | mem) | mem) <;> rw [changeReports_key r mem] <;> decide

/-- A commit before its queue is served, in full: the envelope formed, its reports made, Port C told. -/
theorem commitReported_eq (generation : Half) (s : State) :
    let u := commitReported generation s
    u = { s with
      envelope := scannedEnvelope (digCreep s.shaper) s.scanner.snapshot (committedEnvelope generation s.envelope)
      alarms := u.alarms
      ports := { s.ports with
        a := { s.ports.a with listChanged := u.ports.a.listChanged }
        c := { commitEnded := true, listChanged := u.ports.c.listChanged } } } ∧
      u.alarms = alarmsAfter (envelopeReports s.envelope u.envelope s.scanner.snapshot) s := by
  have told := envelopeEvent_told (s.withEnvelope (committedEnvelope generation s.envelope))
  have eq := Eq.trans told (takeReports_eq (envelopeReports_class _ _ _) _)
  unfold commitReported
  rw [eq]
  refine ⟨rfl, ?_⟩
  show alarmsAfter _ _ = alarmsAfter _ _
  rw [alarmsAfter_eq, alarmsAfter_eq]
  rfl

theorem committedTable_getElem? {t : List TableSlot} {b : List BufferSlot} {i : Nat} {old : TableSlot} {new : BufferSlot}
    (was : t[i]? = some old) (edit : b[i]? = some new) :
    (committedTable t b)[i]? = some ⟨new.entry, if new.edited = true then false else old.failed⟩ := by
  rw [committedTable, List.getElem?_zipWith_eq_some]
  refine ⟨old, new, was, edit, ?_⟩
  cases new.edited <;> simp

/-- Settles O23: the completion is `finishCommit`, its state before the queue `commitReported_eq`. -/
theorem commitCompletionReplacesTheTable : Obligations.CommitCompletionReplacesTheTable := by
  unfold Obligations.CommitCompletionReplacesTheTable
  intro s h running store table buffer
  let base := (s.withMemory (s.memory.write (.zoneHeader h))).withStore .idle
  have completes : completeCommit s = finishCommit h.generation base := by simp only [completeCommit, store]; rfl
  have only := finishCommit_onlySequencer h.generation base
  have envelope : (settle (finishCommit h.generation base)).envelope =
      scannedEnvelope (digCreep s.shaper) s.scanner.snapshot (committedEnvelope h.generation s.envelope) := only.envelope
  obtain ⟨reported, alarms⟩ := commitReported_eq h.generation base
  refine ⟨settle (finishCommit h.generation base), ?_, only.store, only.memory, ?_, ?_, ?_, ?_, ?_, ?_, ?_, ?_, ?_,
    commitReported h.generation base, finishCommit h.generation base, rfl, ?_, ?_, ?_⟩
  · rw [← completes]
    exact runningEvent_running running completeCommit
  · intro i old new was edit
    rw [envelope]
    exact committedTable_getElem? was edit
  · rw [envelope]
    show (committedTable s.envelope.table s.envelope.buffer).length = 24
    rw [committedTable, List.length_zipWith, table, buffer]
    rfl
  · rw [envelope]; rfl
  · rw [envelope]; rfl
  · rw [envelope]; rfl
  · rw [envelope]; rfl
  · rw [envelope]
    exact scannedEnvelope_formed ..
  · rw [envelope]
    exact scannedEnvelope_told ..
  · exact congrArg PortC.commitEnded only.portC
  · have queue : (commitReported h.generation base).sequencer.queue = s.sequencer.queue := by rw [reported]; rfl
    rw [← queue]
    exact serviceQueue_taken _
  · rw [envelope]
    exact reported
  · rw [alarms, envelope, reported, alarmsAfter_eq, alarmsAfter_eq]
    rfl

end Sys2Proof.Machine
end

section
/-! The approach to a KEEP-OUT zone and its cap (03). -/

namespace Sys2Proof.Machine

/-! ### The axis of a motion (R40, R41) -/

/-- Whether the two coordinates that a motion does not change are inside the zone. -/
def acrossBox (box : ZoneBox Nat) (p : Point) : DigMotion → Bool
  | .hoist => inSector box p.θ && inDrag box p.g
  | .drag => inSector box p.θ && inHoist box p.h
  | .swing => inHoist box p.h && inDrag box p.g

/-- Whether the coordinate that a motion changes is inside the zone after a distance in a direction. -/
def alongBox (box : ZoneBox Nat) (p : Point) (m : DigMotion) (d : Direction) (ε : Int) : Bool :=
  match m with
  | .hoist => inHoist box (p.h - d.sign * ε)
  | .drag => inDrag box (p.g - d.sign * ε)
  | .swing => inSector box ((p.θ + d.sign * ε) % 3600)

theorem inBox_movedBy (box : ZoneBox Nat) (p : Point) (m : DigMotion) (d : Direction) (ε : Int) :
    inBox box (movedBy p m d ε) = (acrossBox box p m && alongBox box p m d ε) := by
  cases m with
  | hoist => simp only [inBox, movedBy, acrossBox, alongBox, Bool.and_right_comm]
  | drag => simp only [inBox, movedBy, acrossBox, alongBox]
  | swing => simp only [inBox, movedBy, acrossBox, alongBox, Bool.and_assoc, Bool.and_comm]

theorem movedBy_zero {p : Point} (low : 0 ≤ p.θ) (high : p.θ ≤ 3599) (m : DigMotion) (d : Direction) :
    movedBy p m d 0 = p := by
  cases m with
  | hoist => simp [movedBy]
  | drag => simp [movedBy]
  | swing =>
    have turn : p.θ % 3600 = p.θ := by omega
    simp [movedBy, turn]

/-- The least distance, of at least 1, at which a test holds that holds at none before it. -/
def FirstAt (inside : Int → Bool) (δ : Int) : Prop :=
  1 ≤ δ ∧ inside δ = true ∧ ∀ ε, 0 ≤ ε → ε < δ → inside ε = false

theorem FirstAt.le {inside : Int → Bool} {δ ε : Int} (first : FirstAt inside δ) (low : 0 ≤ ε) (reached : inside ε = true) :
    δ ≤ ε := by
  by_contra short
  simp [first.2.2 ε low (by omega)] at reached

/-! ### The payouts -/

theorem inRange_iff (lo hi : Nat) (x : Int) : inRange lo hi x = true ↔ (lo : Int) ≤ x ∧ x ≤ hi := by simp [inRange]

theorem inRange_eq_false_iff (lo hi : Nat) (x : Int) : inRange lo hi x = false ↔ x < (lo : Int) ∨ (hi : Int) < x := by
  rw [← Bool.not_eq_true, inRange_iff]
  omega

/-- A payout above the range, lowered, first meets its upper end. -/
theorem firstAt_lowered {lo hi : Nat} {x : Int} (ordered : lo ≤ hi) (above : (hi : Int) < x) :
    FirstAt (fun ε => inRange lo hi (x - Direction.positive.sign * ε)) (x - hi) := by
  refine ⟨by omega, (inRange_iff ..).2 ?_, fun ε low short => (inRange_eq_false_iff ..).2 ?_⟩ <;>
    simp only [Direction.sign] <;> omega

/-- A payout below the range, raised, first meets its lower end. -/
theorem firstAt_raised {lo hi : Nat} {x : Int} (ordered : lo ≤ hi) (below : x < (lo : Int)) :
    FirstAt (fun ε => inRange lo hi (x - Direction.negative.sign * ε)) (lo - x) := by
  refine ⟨by omega, (inRange_iff ..).2 ?_, fun ε low short => (inRange_eq_false_iff ..).2 ?_⟩ <;>
    simp only [Direction.sign] <;> omega

/-! ### The swing (R39) -/

theorem inSector_eq_false_iff (box : ZoneBox Nat) (θ : Int) : inSector box θ = false ↔
    box.sectorFrom ≠ box.sectorTo ∧ (box.sectorTo - box.sectorFrom : Int) % 3600 < (θ - box.sectorFrom) % 3600 := by
  rw [← Bool.not_eq_true, inSector_iff, not_or, not_le]
  rfl

theorem inSector_iff_emod (box : ZoneBox Nat) (θ : Int) : inSector box θ = true ↔
    box.sectorFrom = box.sectorTo ∨ (θ - box.sectorFrom) % 3600 ≤ (box.sectorTo - box.sectorFrom : Int) % 3600 :=
  inSector_iff

theorem swingDiff_eq (x y : Int) : swingDiff x y = (x - y) % 3600 := rfl

/-- A swing outside the sector, turned clockwise, first meets its from. -/
theorem firstAt_clockwise {box : ZoneBox Nat} {θ : Int} (outside : inSector box θ = false) :
    FirstAt (fun ε => inSector box ((θ + Direction.positive.sign * ε) % 3600)) (swingDiff box.sectorFrom θ) := by
  obtain ⟨apart, beyond⟩ := (inSector_eq_false_iff ..).1 outside
  rw [swingDiff_eq]
  refine ⟨by omega, (inSector_iff_emod ..).2 (.inr ?_), fun ε low short => (inSector_eq_false_iff ..).2 ⟨apart, ?_⟩⟩ <;>
    simp only [Direction.sign] <;> omega

/-- A swing outside the sector, turned the other way, first meets its to. -/
theorem firstAt_anticlockwise {box : ZoneBox Nat} {θ : Int} (outside : inSector box θ = false) :
    FirstAt (fun ε => inSector box ((θ + Direction.negative.sign * ε) % 3600)) (swingDiff θ box.sectorTo) := by
  obtain ⟨apart, beyond⟩ := (inSector_eq_false_iff ..).1 outside
  rw [swingDiff_eq]
  refine ⟨by omega, (inSector_iff_emod ..).2 (.inr ?_), fun ε low short => (inSector_eq_false_iff ..).2 ⟨apart, ?_⟩⟩ <;>
    simp only [Direction.sign] <;> omega

/-! ### The approach (R41) -/

/-- A zone that restrains a motion does so across its other coordinates, at the first distance along its own. -/
theorem approach_firstAt {box : ZoneBox Nat} (range : BoxInRange box) {p : Point} {m : DigMotion} {d : Direction} {δ : Int}
    (restrains : approach box p m d = some δ) : acrossBox box p m = true ∧ FirstAt (alongBox box p m d) δ := by
  obtain ⟨-, -, hoist, -, drag, -⟩ := range
  cases m <;> cases d <;> simp only [approach, Option.ite_none_right_eq_some, Bool.and_eq_true, decide_eq_true_iff,
    Bool.not_eq_true', Option.some.injEq] at restrains <;> obtain ⟨⟨⟨first, second⟩, outside⟩, rfl⟩ := restrains <;>
    refine ⟨by simp only [acrossBox, first, second, Bool.and_self], ?_⟩
  · exact firstAt_lowered hoist outside
  · exact firstAt_raised hoist outside
  · exact firstAt_lowered drag outside
  · exact firstAt_raised drag outside
  · exact firstAt_clockwise outside
  · exact firstAt_anticlockwise outside

/-- A motion that some distance takes inside, from outside along its own axis, is restrained. -/
theorem approach_isSome {box : ZoneBox Nat} {p : Point} {m : DigMotion} {d : Direction} {ε : Int}
    (across : acrossBox box p m = true) (outside : inBox box p = false) (moves : 1 ≤ ε)
    (reached : alongBox box p m d ε = true) : ∃ δ, approach box p m d = some δ := by
  cases m with
  | hoist =>
    obtain ⟨sector, drag⟩ := Bool.and_eq_true_iff.1 across
    have off : p.h < (box.hoistLo : Int) ∨ (box.hoistHi : Int) < p.h :=
      (inRange_eq_false_iff ..).1 (show inHoist box p.h = false by simpa [inBox, sector, drag] using outside)
    have on := (inRange_iff ..).1 reached
    cases d <;> simp only [Direction.sign] at on <;> simp only [approach, sector, drag, Bool.true_and]
    · exact ⟨_, if_pos (decide_eq_true (by omega))⟩
    · exact ⟨_, if_pos (decide_eq_true (by omega))⟩
  | drag =>
    obtain ⟨sector, hoist⟩ := Bool.and_eq_true_iff.1 across
    have off : p.g < (box.dragLo : Int) ∨ (box.dragHi : Int) < p.g :=
      (inRange_eq_false_iff ..).1 (show inDrag box p.g = false by simpa [inBox, sector, hoist] using outside)
    have on := (inRange_iff ..).1 reached
    cases d <;> simp only [Direction.sign] at on <;> simp only [approach, sector, hoist, Bool.true_and]
    · exact ⟨_, if_pos (decide_eq_true (by omega))⟩
    · exact ⟨_, if_pos (decide_eq_true (by omega))⟩
  | swing =>
    obtain ⟨hoist, drag⟩ := Bool.and_eq_true_iff.1 across
    have off : inSector box p.θ = false := by simpa [inBox, hoist, drag] using outside
    cases d <;> simp only [approach, hoist, drag, off]
    · exact ⟨_, rfl⟩
    · exact ⟨_, rfl⟩

/-! ### The cap (R42) -/

theorem approachCap_within {margin : Nat} {δ : Int} (near : δ ≤ margin) (creep band : Nat) :
    approachCap creep margin band δ = 0 := if_pos near

theorem approachCap_beyond {margin band : Nat} {δ : Int} (one : 1 ≤ band) (far : (margin + band : Int) ≤ δ) (creep : Nat) :
    approachCap creep margin band δ = 1000 := by
  rw [approachCap, if_neg (by omega), if_pos (by omega)]

/-- Inside the band the cap is the creep, or the floor of the straight line where that is more. -/
theorem approachCap_line {creep margin band : Nat} {δ line : Int} (outside : (margin : Int) < δ) (short : δ < margin + band)
    (floor : line * band ≤ (δ - margin) * 1000) (next : (δ - margin) * 1000 < (line + 1) * band) :
    (approachCap creep margin band δ : Int) = max (creep : Int) line := by
  have pos : (0 : Int) < band := by omega
  have is : Int.fdiv ((δ - margin) * 1000) band = line := by
    rw [Int.fdiv_eq_ediv_of_nonneg _ pos.le]
    exact le_antisymm (Int.lt_add_one_iff.1 (Int.ediv_lt_of_lt_mul pos next)) (Int.le_ediv_of_mul_le pos floor)
  have nonneg : 0 ≤ line := by
    rw [← is]
    exact Int.fdiv_nonneg (by omega) pos.le
  rw [approachCap, if_neg (by omega), if_neg (by omega), is]
  omega

/-- The floor of the straight line at a distance. -/
theorem line_exists {band : Nat} (one : 1 ≤ band) (x : Int) :
    ∃ line : Int, line * band ≤ x ∧ x < (line + 1) * band :=
  have pos : (0 : Int) < band := by omega
  ⟨x / band, Int.ediv_mul_le _ pos.ne', Int.lt_ediv_add_one_mul_self _ pos⟩

theorem approachCap_mono {creep margin band : Nat} (one : 1 ≤ band) (most : creep ≤ 1000) {δ ε : Int} (le : δ ≤ ε) :
    approachCap creep margin band δ ≤ approachCap creep margin band ε := by
  have pos : (0 : Int) < band := by omega
  rcases le_or_gt δ margin with near | outside
  · rw [approachCap_within near]
    exact Nat.zero_le _
  · rcases le_or_gt (margin + band : Int) δ with far | short
    · rw [approachCap_beyond one far, approachCap_beyond one (far.trans le)]
    · obtain ⟨line, floor, next⟩ := line_exists one ((δ - margin) * 1000)
      have cap := approachCap_line (creep := creep) outside short floor next
      rcases le_or_gt (margin + band : Int) ε with far | short'
      · have low : line < 1000 := by
          by_contra high
          nlinarith
        rw [approachCap_beyond one far]
        omega
      · obtain ⟨line', floor', next'⟩ := line_exists one ((ε - margin) * 1000)
        have cap' := approachCap_line (creep := creep) (outside.trans_le le) short' floor' next'
        have rises : line ≤ line' := by
          by_contra falls
          nlinarith
        omega

/-- Settles O20: the approach is the first distance along the motion's own axis; the cap by its three ranges. -/
theorem approachIsCapped : Obligations.ApproachIsCapped := by
  unfold Obligations.ApproachIsCapped
  refine ⟨fun box p m d δ range low high restrains => ?_, fun box p m d ε range low high outside moves turn reached => ?_,
    fun creep margin band δ one most => ⟨fun near => approachCap_within near creep band, fun beyond short => ⟨?_, fun line floor next => ?_⟩,
      fun far => approachCap_beyond one far creep, fun ε le => approachCap_mono one most le⟩⟩
  · obtain ⟨across, one, reached, before⟩ := approach_firstAt range restrains
    refine ⟨one, ?_, ?_, fun ε nonneg short => ?_⟩
    · rw [← movedBy_zero low high m d, inBox_movedBy, before 0 le_rfl (by omega), Bool.and_false]
    · rw [inBox_movedBy, across, reached, Bool.and_self]
    · rw [inBox_movedBy, before ε nonneg short, Bool.and_false]
  · rw [inBox_movedBy, Bool.and_eq_true] at reached
    obtain ⟨across, along⟩ := reached
    obtain ⟨δ, restrains⟩ := approach_isSome across outside moves along
    exact ⟨δ, restrains, (approach_firstAt range restrains).2.le (by omega) along⟩
  · obtain ⟨line, floor, next⟩ := line_exists one ((δ - margin) * 1000)
    have cap := approachCap_line (creep := creep) beyond short floor next
    omega
  · exact approachCap_line beyond short floor next

end Sys2Proof.Machine
end

section
/-! Machine modes (07): the mode requests taken at once, the ends of a transfer order, and the end of STOPPING. -/

namespace Sys2Proof.Machine

/-! ### SEQUENCE-REFUSED entered (R121, R124, R151) -/

theorem refuseSequence_alarms (d : Detail) (s : State) : (refuseSequence d s).alarms =
    (raiseMomentary s.alarms s.sequencer.record.arrangement .sequenceRefused .sequencer (some d)).unit :=
  reportMomentary_alarms ..

/-- A list with room takes the entry, new or re-raised. -/
theorem refuseSequence_enters (d : Detail) {s : State} (room : s.alarms.list.length < 32) :
    ∃ e ∈ (refuseSequence d s).alarms.list, e.code = .sequenceRefused ∧ e.source = .sequencer ∧ e.detail = some d ∧
      e.state = .clearedUnack := by
  rw [refuseSequence_alarms]
  cases entry : findEntry s.alarms.list .sequenceRefused .sequencer with
  | none =>
    rw [raiseMomentary_absent entry, (appendEntry_cases _ _).1 room]
    exact ⟨_, List.mem_append_right _ List.mem_cons_self, rfl, rfl, rfl, rfl⟩
  | some e =>
    rw [raiseMomentary_present entry]
    obtain ⟨mem, code, source⟩ := exists_changed entry
      (f := reRaise s.alarms s.sequencer.record.arrangement (some d) .clearedUnack) rfl
    exact ⟨_, mem, code, source, rfl, rfl⟩

/-! ### Entries taken (R121) -/

theorem takeEntry_dig_arranged {s : State} (mode : s.sequencer.mode = .parked)
    (arrangement : s.sequencer.record.arrangement = .dig) : takeEntry .dig s = setMode .dig s := by
  simp only [takeEntry, mode, arrangement]

theorem takeEntry_dig_restless {s : State} (mode : s.sequencer.mode = .parked)
    (arrangement : s.sequencer.record.arrangement = .walk) (out : s.walk.bothInRest = false) :
    takeEntry .dig s = refuseSequence .notAtRest s := by
  simp only [takeEntry, mode, arrangement, out]
  rfl

theorem takeEntry_dig_issued {s : State} (mode : s.sequencer.mode = .parked)
    (other : s.sequencer.record.arrangement = .uncertain ∨
      s.sequencer.record.arrangement = .walk ∧ s.walk.bothInRest = true) : takeEntry .dig s = issueOrder .dig s := by
  rcases other with arrangement | ⟨arrangement, rest⟩
  · simp only [takeEntry, mode, arrangement]
  · simp only [takeEntry, mode, arrangement, rest, if_true]

theorem takeEntry_dig_digging {s : State} (mode : s.sequencer.mode = .dig) : takeEntry .dig s = s := by
  simp only [takeEntry, mode]

theorem takeEntry_dig_walking {s : State} (mode : s.sequencer.mode = .walk) :
    takeEntry .dig s = setMode (.stopping .walk .dig) s := by
  simp only [takeEntry, mode]

theorem takeEntry_walk_arranged {s : State} (mode : s.sequencer.mode = .parked) (may : MayWalk s)
    (arrangement : s.sequencer.record.arrangement = .walk) : takeEntry .walk s = setMode .walk s := by
  simp only [takeEntry, mode, (walkPermitOk_iff s).2 ⟨.inl mode, may⟩, arrangement, if_true]

theorem takeEntry_walk_issued {s : State} (mode : s.sequencer.mode = .parked) (may : MayWalk s)
    (other : s.sequencer.record.arrangement ≠ .walk) : takeEntry .walk s = issueOrder .walk s := by
  simp only [takeEntry, mode, (walkPermitOk_iff s).2 ⟨.inl mode, may⟩, other, if_true, if_false]

theorem takeEntry_walk_digging {s : State} (mode : s.sequencer.mode = .dig) (may : MayWalk s) :
    takeEntry .walk s = setMode (.stopping .dig .walk) s := by
  simp only [takeEntry, mode, (walkPermitOk_iff s).2 ⟨.inr mode, may⟩, if_true]

/-- A DIG or WALK request with no other waiting: appended, and taken where it may be. -/
theorem exec_modeRequest_served {s : State} {request : Settled} (moves : request ≠ .parked) (free : PortFree .a s)
    (queue : s.sequencer.queue = []) (allowed : RequestAllowed request s) :
    let u := serviceQueue (s.withSequencer { s.sequencer with queue := [⟨request, .a⟩] })
    exec (.modeRequest .a (settledCode request)) s = .next (settle
      (holdAnswer .a (.modeRequest (settledCode request)) 0x83 .accepted (modeReply u) u)) := by
  refine exec_modeRequest (by simp) free (settledOfCode_settledCode request) (result := .accepted) ?_
    (fun refused => absurd rfl refused)
  rw [judgeModeRequest_allowed moves allowed]
  simp [appendRequest, queue, Config.queueCapacity]

theorem exec_modeRequest_taken {s : State} {request : Settled} (moves : request ≠ .parked) (free : PortFree .a s)
    (queue : s.sequencer.queue = []) (allowed : RequestAllowed request s) (idle : s.envelope.edit ≠ .committing)
    (settled : isSettled s.sequencer.mode = true) :
    let u := takeEntry request s
    exec (.modeRequest .a (settledCode request)) s = .next (settle
      (holdAnswer .a (.modeRequest (settledCode request)) 0x83 .accepted
        [modeCode u.sequencer.mode, destinationCode u.sequencer.mode, 0] u)) := by
  have same : s.withSequencer { s.sequencer with queue := [] } = s := by rw [← queue]; rfl
  have served : serviceQueue (s.withSequencer { s.sequencer with queue := [⟨request, .a⟩] }) = takeEntry request s := by
    rw [serviceQueue_one (s := s.withSequencer { s.sequencer with queue := [⟨request, .a⟩] }) rfl
      ((mayTake_iff _).2 ⟨settled, idle⟩)]
    exact congrArg (takeEntry request) same
  rw [exec_modeRequest_served moves free queue allowed, served, modeReply, takeEntry_queue, queue]
  rfl

/-- Settles O38: the request is taken as its entry (`takeEntry_taken`), row by row of R121. -/
theorem modeRequestsAreTaken : Obligations.ModeRequestsAreTaken := by
  unfold Obligations.ModeRequestsAreTaken
  intro s free queue idle taken
  refine ⟨fun supply => ?_, fun may mode => ?_⟩
  · have allowed : RequestAllowed .dig s := ⟨fun _ => supply, by simp⟩
    by_cases settled : isSettled s.sequencer.mode = true
    · refine ⟨_, exec_modeRequest_taken (request := .dig) (by simp) free queue allowed idle settled,
        fun mode arrangement => ?_, fun mode arrangement out => ?_, fun mode other => ?_, fun mode => ?_, fun mode => ?_,
        fun _ => ⟨?_, takeEntry .dig s, takeEntry_taken .dig s, rfl⟩⟩
      · rw [takeEntry_dig_arranged mode arrangement]
        exact ⟨rfl, rfl⟩
      · rw [takeEntry_dig_restless mode arrangement out]
        have stands := refuseSequence_sequencer .notAtRest s
        have record : (refuseSequence .notAtRest s).sequencer.record = s.sequencer.record := congrArg Sequencer.record stands
        exact ⟨(congrArg Sequencer.mode stands).trans mode, record, fun _ room => refuseSequence_enters .notAtRest room⟩
      · rw [takeEntry_dig_issued mode other]
        have record : (issueOrder .dig s).sequencer.record = issuedRecord s .dig :=
          congrArg Sequencer.record (issueOrder_sequencer .dig s)
        exact ⟨congrArg Sequencer.mode (issueOrder_sequencer .dig s), record⟩
      · rw [takeEntry_dig_digging mode]
        exact ⟨mode, rfl⟩
      · rw [takeEntry_dig_walking mode]
        exact ⟨rfl, rfl⟩
      · exact (takeEntry_queue .dig s).trans queue
    · have unsettled (m : Mode) (is : isSettled m = true) : s.sequencer.mode ≠ m := fun h => settled (h ▸ is)
      exact ⟨_, exec_modeRequest_served (request := .dig) (by simp) free queue allowed,
        fun mode => absurd mode (unsettled _ rfl), fun mode => absurd mode (unsettled _ rfl),
        fun mode => absurd mode (unsettled _ rfl), fun mode => absurd mode (unsettled _ rfl),
        fun mode => absurd mode (unsettled _ rfl), fun is => absurd is settled⟩
  · have settled : isSettled s.sequencer.mode = true := (isSettled_iff _).2 (mode.imp_right .inl)
    have allowed : RequestAllowed .walk s := ⟨by simp, fun _ => ⟨may, by rcases mode with h | h <;> simp [h]⟩⟩
    refine ⟨_, exec_modeRequest_taken (request := .walk) (by simp) free queue allowed idle settled,
      fun mode arrangement => ?_, fun mode other => ?_, fun mode => ?_, ?_, takeEntry .walk s, takeEntry_taken .walk s, rfl⟩
    · rw [takeEntry_walk_arranged mode may arrangement]
      exact ⟨rfl, rfl⟩
    · rw [takeEntry_walk_issued mode may other]
      have record : (issueOrder .walk s).sequencer.record = issuedRecord s .walk :=
        congrArg Sequencer.record (issueOrder_sequencer .walk s)
      exact ⟨congrArg Sequencer.mode (issueOrder_sequencer .walk s), record⟩
    · rw [takeEntry_walk_digging mode may]
      exact ⟨rfl, rfl⟩
    · exact (takeEntry_queue .walk s).trans queue

end Sys2Proof.Machine
end

section
/-! The ends of a transfer order (07): DONE, FAILED and the timeout, and the reports that end none. -/

namespace Sys2Proof.Machine

/-! ### The list once the arrangement is another (R156) -/

theorem refed_keeps (arr : Arrangement) (seconds : Nat) (e : AlarmEntry) :
    (refed arr seconds e).key = e.key ∧ (refed arr seconds e).cls = e.cls ∧
    (e.code ≠ .channelFault → refed arr seconds e = e) := by
  rw [← recomputeEntry_eq]
  exact recomputeEntry_keeps arr seconds e

theorem orderEnded_lawful {s : State} (h : s.alarms.Lawful) (record : ArrangementRecord) (mode : Mode)
    (queue : List QueueEntry) : (orderEnded record mode queue s).alarms.Lawful := by
  have keeps := refed_keeps record.arrangement s.alarms.seconds
  refine ⟨h.list.map fun e => ⟨(keeps e).1, (keeps e).2.1⟩, Alarms.withList_flags s.alarms (s.alarms.list.map (refed record.arrangement s.alarms.seconds)),
    fun p hp => ?_, h.lost.2⟩
  refine ⟨(h.lost.1 p hp).1, fun e he => ?_⟩
  obtain ⟨x, hx, rfl⟩ := List.mem_map.1 he
  obtain ⟨code, source⟩ := Prod.mk.inj (keeps x).1
  rw [code, source]
  exact (h.lost.1 p hp).2 x hx

/-- The entries of another code than CHANNEL-FAULT are those that stood. -/
theorem mem_orderEnded {record : ArrangementRecord} {mode : Mode} {queue : List QueueEntry} {s : State} {e : AlarmEntry}
    (mem : e ∈ (orderEnded record mode queue s).alarms.list) (other : e.code ≠ .channelFault) : e ∈ s.alarms.list := by
  obtain ⟨x, hx, rfl⟩ := List.mem_map.1 mem
  have keeps := refed_keeps record.arrangement s.alarms.seconds x
  have code : x.code ≠ .channelFault := fun h => other ((congrArg Prod.fst keeps.1).trans h)
  rw [keeps.2.2 code]
  exact hx

/-- TRANSFER-FAIL is of the sequencer alone. -/
theorem source_of_transferFail {l : List AlarmEntry} (h : ListKept l) {e : AlarmEntry} (mem : e ∈ l)
    (code : e.code = .transferFail) : e.source = .sequencer := by
  have table := (h.entries e mem).1
  rw [code] at table
  cases source : e.source <;> rw [source] at table <;> first | rfl | cases table

/-! ### The reports of an order's end (R127 to R129, R160) -/

/-- The reports of an order's end: of TRANSFER-FAIL, and then those of the DRIVE-FAULT conditions. -/
theorem endReports_lawful {first : List Report} (transfer : ∀ r ∈ first, r.key = (.transferFail, .sequencer) ∧ r.InTable)
    (once : (first.map Report.key).Nodup) (before after : PerGroup Bool) :
    (∀ r ∈ first ++ driveFaultReports before after, r.InTable) ∧
      ((first ++ driveFaultReports before after).map Report.key).Nodup := by
  refine ⟨List.forall_mem_append.2 ⟨fun r hr => (transfer r hr).2, driveFaultReports_inTable _ _⟩, ?_⟩
  rw [List.map_append, List.nodup_append]
  refine ⟨once, driveFaultReports_keys _ _, fun x hx y hy same => ?_⟩
  obtain ⟨r, hr, rfl⟩ := List.mem_map.1 hx
  obtain ⟨r', hr', rfl⟩ := List.mem_map.1 hy
  rw [(transfer r hr).1] at same
  obtain ⟨g, ⟨rfl, -⟩ | ⟨rfl, -⟩⟩ := mem_driveFaultReports.1 hr' <;> cases same

/-- After a DONE that ends a failed transfer, TRANSFER-FAIL is not active (R127, R150). -/
theorem orderDone_clears {kind : Working} {d : Settled} {s u : State} (h : s.alarms.Lawful) (ended : OrderDone kind d s u)
    (failed : s.sequencer.record.failedMark = true) :
    ∀ e ∈ u.alarms.list, e.code = .transferFail → e.state = .clearedUnack := by
  unfold OrderDone at ended
  simp only [failed, if_true] at ended
  obtain ⟨table, keys⟩ := endReports_lawful (first := [.gone .transferFail .sequencer]) (by simp [Report.key, Report.InTable, inCodeTable]) (by simp)
    s.alarms.driveFault (orderEnded { s.sequencer.record with
      arrangement := kind.arrangement, order := .done, endedBy := some .report, failedMark := false, timer := none }
      d.mode s.sequencer.queue s).alarms.driveFault
  intro e he code
  rw [ended] at he
  have base := orderEnded_lawful h { s.sequencer.record with
      arrangement := kind.arrangement, order := .done, endedBy := some .report, failedMark := false, timer := none }
      d.mode s.sequencer.queue
  exact takeReports_ended table keys base List.mem_cons_self (by decide) he code
    (source_of_transferFail (takeReports_lawful table base).list he code)

/-- The record of an order ended FAILED (R128, R129). -/
def failedRecord (ended : EndedBy) (s : State) : ArrangementRecord :=
  { s.sequencer.record with
    arrangement := .uncertain, order := .failed, endedBy := some ended, failedMark := true, timer := none }

/-- What the reports of a failed order leave: TRANSFER-FAIL active and, where it was not before, every motion stopped. -/
theorem orderFailed_trips (ended : EndedBy) {s : State} (h : s.alarms.Lawful) :
    let u := orderFailed ended s
    (∃ e ∈ u.alarms.list, e.code = .transferFail ∧ e.source = .sequencer ∧ e.state ≠ .clearedUnack ∧ e.cls = .trip) ∧
    ((∀ e ∈ s.alarms.list, e.code = .transferFail → e.state = .clearedUnack) →
      ∀ m, (u.shaper.motions.get m).permit = false ∧ (u.shaper.motions.get m).output = 0 ∧
        ¬Lifted (u.gate.brakes.get m)) := by
  have eq : orderFailed ended s = takeReports ([.raise .transferFail .sequencer none] ++ driveFaultReports
      s.alarms.driveFault (orderEnded (failedRecord ended s) .parked [] s).alarms.driveFault)
      (orderEnded (failedRecord ended s) .parked [] s) := orderFailed_failed ended s
  have base := orderEnded_lawful h (failedRecord ended s) .parked []
  obtain ⟨table, keys⟩ := endReports_lawful (first := [.raise .transferFail .sequencer none])
    (by simp [Report.key, Report.InTable, inCodeTable]) (by simp) s.alarms.driveFault
    (orderEnded (failedRecord ended s) .parked [] s).alarms.driveFault
  simp only
  rw [eq]
  refine ⟨?_, fun quiet m => ?_⟩
  · obtain ⟨e, he, code, source, state⟩ := (takeReports_raised table keys base (c := .transferFail) List.mem_cons_self
      (by decide)).1
    refine ⟨e, he, code, source, state, ?_⟩
    rw [((takeReports_lawful table base).list.entries e he).2, code]
    rfl
  · have trips : ∃ r ∈ [Report.raise .transferFail .sequencer none] ++ driveFaultReports s.alarms.driveFault
        (orderEnded (failedRecord ended s) .parked [] s).alarms.driveFault,
        r.Trips (orderEnded (failedRecord ended s) .parked [] s) m := by
      refine ⟨_, List.mem_cons_self, ⟨rfl, allMotions_get m⟩, fun e found => ?_⟩
      obtain ⟨mem, code, -⟩ := findEntry_mem found
      exact quiet e (mem_orderEnded mem (by simp [code])) code
    obtain ⟨motion, brake⟩ := (takeReports_motion table keys base m).1 trips
    rw [motion]
    exact ⟨rfl, rfl, not_lifted_of_dropped brake⟩

/-- A failed order, and what is formed again behind it (R120, R158, R178). -/
theorem orderFailed_failedBy (ended : EndedBy) {s w : State} (h : s.alarms.Lawful) (running : w.power = .running)
    (shaper : w.shaper = (orderFailed ended s).shaper) (gate : w.gate = (orderFailed ended s).gate)
    (sequencer : w.sequencer = (orderFailed ended s).sequencer) (alarms : w.alarms = (orderFailed ended s).alarms) :
    OrderFailedBy ended s (settle w) := by
  obtain ⟨⟨e, he, code, source, state, cls⟩, stops⟩ := orderFailed_trips ended h
  have coherent := settle_coherent w
  have mem : e ∈ (settle w).alarms.list := by rw [settle_alarms, alarms]; exact he
  have record : (settle w).sequencer.record.order = .failed := by
    rw [settle_record, sequencer, orderFailed_sequencer]
  have permit : walkPermitOk w = false := by
    refine Bool.eq_false_iff.2 fun ok => ?_
    obtain ⟨-, -, -, clear, -⟩ := coherent.2.1.1 ok
    exact clear e mem cls
  refine ⟨?_, ⟨e, mem, code, source, state⟩, fun quiet m => ?_, ?_⟩
  · rw [show (settle w).sequencer = { w.sequencer with walkPermit := walkPermitOk w } from rfl, permit, sequencer,
      orderFailed_sequencer]
  · rw [settle_motion, settle_gate, shaper, gate]
    exact stops quiet m
  · obtain ⟨-, -, -, -, attention, -⟩ := coherent.2.2.1 running
    refine Bool.eq_false_iff.2 fun lit => ?_
    have pending := attention.1 lit
    rw [record] at pending
    cases pending

/-! ### TRANSFER-REPORT (R126) -/

/-- A TRANSFER-REPORT whose mark and result are of their lists, as the arrangement record judges it. -/
theorem exec_transferReport {s t : State} (free : PortFree .b s) {markByte result : Byte} {mark finished : Bool}
    (marked : markOfCode markByte = some mark) (told : doneOfCode result = some finished) {code : ResultCode}
    (judged : judgeReport mark finished s = (code, t)) (refused : code ≠ .accepted → t = s) :
    exec (.transferReport .b markByte result) s = .next (settle (holdAnswer .b (.transferReport markByte result) 0x8A
      code (if code = .accepted then reportReply t else []) t)) := by
  refine exec_delivers (reply := ⟨code, if code = .accepted then reportReply t else []⟩) rfl free (by simp [kindOf]) ?_
  rw [judgeRequest_owned rfl rfl]
  simp only [ownerAnswer, takeTransferReport, marked, told, judged]
  split
  · next accepted => rw [accepted]
  · next other => rw [refused other]; rfl

theorem exec_transferReport_bad {s : State} (free : PortFree .b s) {markByte result : Byte}
    (bad : 1 < markByte.toNat ∨ 1 < result.toNat) :
    exec (.transferReport .b markByte result) s =
      .next (settle (holdAnswer .b (.transferReport markByte result) 0x8A .badArgument [] s)) := by
  refine exec_refused rfl free (by simp [kindOf]) rfl rfl ?_
  simp only [ownerAnswer, takeTransferReport]
  rcases bad with mark | result'
  · rw [markOfCode_none mark]
  · have none : doneOfCode result = none := by
      unfold doneOfCode
      split <;> first | rfl | omega
    rw [none]
    split <;> first | rfl | simp_all

theorem doneOfCode_some {result : Byte} (short : result.toNat ≤ 1) : ∃ finished, doneOfCode result = some finished := by
  unfold doneOfCode
  interval_cases result.toNat <;> simp

theorem judgeReport_pending {s : State} (pending : s.sequencer.record.order = .pending) (finished : Bool) :
    judgeReport s.sequencer.record.mark finished s =
      (.accepted, if finished then serviceQueue (orderDone s) else orderFailed .report s) := by
  simp only [judgeReport, pending, if_true]

/-- The sequencer after an order of a kind is done, in its transfer to a destination (R127). -/
theorem orderDone_arrives {s : State} {d : Settled} {kind : Working} (mode : s.sequencer.mode = .transferring d)
    (asked : s.sequencer.record.kind = some kind) : (orderDone s).sequencer = { s.sequencer with
      mode := d.mode
      record := { s.sequencer.record with
        arrangement := kind.arrangement
        order := .done, endedBy := some .report, failedMark := false, timer := none } } := by
  rw [orderDone_sequencer, mode, asked]
  rfl

theorem OnlySequencer.bothInRest {s t : State} (h : OnlySequencer s t) : t.walk.bothInRest = s.walk.bothInRest := by
  rcases h.walk with ⟨-, walk⟩ | ⟨-, walk⟩
  · exact congrArg WalkTracker.bothInRest walk
  · rw [← State.withOrders_walk t s.sequencer s.alarms.driveFault s.bands.integrators, walk]

/-- Settles O40: the ends by `orderDone_done` and `orderFailed_failed`, with what their reports leave. -/
theorem transferOrdersEnd : Obligations.TransferOrdersEnd := by
  unfold Obligations.TransferOrdersEnd
  refine ⟨⟨fun s d kind free mode pending asked law => ?_, fun s running pending law => ?_⟩,
    fun s mark markByte result free => ?_⟩
  · intro mark
    have lawful := (alarmListLaw_iff s).1 law
    have done := exec_transferReport free (markOfCode_bool8 _) (show doneOfCode 0 = some true from rfl)
      (judgeReport_pending pending true) (fun refused => absurd rfl refused)
    have failed := exec_transferReport free (markOfCode_bool8 _) (show doneOfCode 1 = some false from rfl)
      (judgeReport_pending pending false) (fun refused => absurd rfl refused)
    have ended := orderDone_done (s := s) asked mode
    have only := orderDone_onlySequencer s
    have arrives := orderDone_arrives mode asked
    refine ⟨fun queue => ?_, ⟨orderDone s, serviceQueue (orderDone s), done, ?_, ?_, only.bothInRest, orderDone_bands s,
      only.envelope, ended⟩, ?_⟩
    · have empty : serviceQueue (orderDone s) = orderDone s :=
        serviceQueue_empty ((congrArg Sequencer.queue arrives).trans queue)
      rw [if_pos rfl, if_pos rfl, empty] at done
      refine ⟨_, done, ?_, fun failed => orderDone_clears (u := orderDone s) lawful ended failed, ?_⟩
      · rw [show ∀ w : State, (settle w).sequencer = { w.sequencer with walkPermit := walkPermitOk w } from fun _ => rfl,
          (holdAnswer_keeps ..).2.2.1, arrives]
        cases d <;> cases kind <;> rfl
      · simp only [reportReply, arrives]
        cases kind <;> rfl
    · have queue := serviceQueue_taken (orderDone s)
      rwa [arrives] at queue
    · rw [arrives]
      cases d <;> cases kind <;> rfl
    · have reply : reportReply (orderFailed .report s) = [3, mark, 2] := by
        rw [reportReply, orderFailed_sequencer]
        rfl
      rw [if_pos rfl, if_neg Bool.false_ne_true, reply] at failed
      exact ⟨_, orderFailed .report s, failed,
        orderFailed_failedBy .report lawful ((orderFailed_onlySequencer .report s).power.trans free.1) rfl rfl rfl rfl,
        orderFailed_failed .report s, rfl, rfl⟩
  · have lawful := (alarmListLaw_iff s).1 law
    have ends : transferExpires s = orderFailed .timeout s := if_pos (by simp [orderPending, pending])
    have ran : exec .transferTimerExpiry s = .next (settle (orderFailed .timeout s)) :=
      (runningEvent_running running transferExpires).trans (congrArg (fun u => Host.Outcome.next (settle u)) ends)
    have power : (orderFailed .timeout s).power = .running := (orderFailed_onlySequencer .timeout s).power.trans running
    exact ⟨_, orderFailed .timeout s, ran, orderFailed_failedBy .timeout lawful power rfl rfl rfl rfl,
      orderFailed_failed .timeout s, rfl⟩
  · intro refused r
    refine ⟨exec_transferReport_bad free, ?_⟩
    rintro rfl short
    obtain ⟨finished, told⟩ := doneOfCode_some short
    have judge {code : ResultCode} (other : code ≠ .accepted) (judged : judgeReport mark finished s = (code, s)) :
        refused code := by
      have ran := exec_transferReport free (markOfCode_bool8 mark) told judged fun _ => rfl
      rwa [if_neg other] at ran
    refine ⟨fun order differs => judge (by simp) ?_, fun order ended same => judge (by simp) ?_,
      fun order other => judge (by simp) ?_, fun order => judge (by simp) ?_⟩
    · simp only [judgeReport, show s.sequencer.record.order = .pending from order]
      exact if_neg differs
    · simp only [judgeReport, show s.sequencer.record.order = .failed from order]
      exact if_pos ⟨ended, same⟩
    · simp only [judgeReport, show s.sequencer.record.order = .failed from order]
      exact if_neg fun ⟨ended, same⟩ => other.elim (fun h => h ended) fun h => h same
    · rcases order with order | order <;> simp only [judgeReport, show s.sequencer.record.order = _ from order]

end Sys2Proof.Machine
end

section
/-! The notification of the brakes at a period expiry (06), and what the sequencer's part in it leaves of the list. -/

namespace Sys2Proof.Machine

/-! ### A failure found sets the fail condition (R107) -/

theorem testBrake_failed {x : BrakeInput} {b : BrakeRecord} (failed : (testBrake x b).failed = true) :
    (testBrake x b).brake.fail = true ∧ (testBrake x b).brake.state = .setting := by
  unfold testBrake at *
  split at failed
  · cases failed
  · unfold testReleasing at *
    split at failed
    · cases failed
    · next late =>
      split at failed
      · next unconfirmed =>
        rw [if_neg late, if_pos unconfirmed]
        exact ⟨rfl, rfl⟩
      · split at failed <;> cases failed
  · unfold testReleased at failed
    split at failed <;> cases failed
  · next state =>
    unfold testSetting at *
    simp only at *
    split at failed
    · split at failed <;> cases failed
    · next shown =>
      split at failed
      · next confirmed =>
        rw [if_neg shown, if_pos confirmed]
        exact ⟨rfl, state⟩
      · cases failed

theorem actOnRelease_fail (x : BrakeInput) (b : BrakeRecord) : (actOnRelease x b).fail = b.fail := by
  unfold actOnRelease
  split
  · split <;> rfl
  · rfl

theorem notifyBrake_raised {x : BrakeInput} {b : BrakeRecord} (raised : (notifyBrake x b).raised = true) :
    (notifyBrake x b).brake.fail = true := by
  obtain ⟨fail, state⟩ := testBrake_failed (x := x) (b := stepCounts x.notice b) raised
  have stands : failEnds (testBrake x (stepCounts x.notice b)).brake = false := by simp [failEnds, state]
  simp only [notifyBrake, actOnRelease_fail, stands]
  exact fail

/-! ### The reports of a period (R94, R107, R112, R113) -/

/-- A motion's reports of BRAKE-FAIL are one at most: a condition raised is not gone. -/
theorem brakeReports_once {raised was is : Bool} {due : Prop} [Decidable due] (found : raised = true → is = true) (m : Motion) :
    List.Sublist (((if raised = true ∨ due ∧ is = true then [Report.raise .brakeFail (.motion m) none] else []) ++
      (if was = true ∧ is = false then [Report.gone .brakeFail (.motion m)] else [])).map Report.key)
      [(AlarmCode.brakeFail, Source.motion m)] := by
  cases is with
  | true =>
    simp only [Bool.true_eq_false, and_false, if_false, List.append_nil]
    split <;> simp [Report.key]
  | false =>
    have quiet : ¬(raised = true ∨ due ∧ false = true) := by
      rintro (h | h)
      · cases found h
      · cases h.2
    rw [if_neg quiet]
    split <;> simp [Report.key]

theorem periodReports_keys {s base : State} {failed : Motion → Bool}
    (found : ∀ m, failed m = true → (base.gate.brakes.get m).fail = true) :
    ((periodReports s base failed).map Report.key).Nodup := by
  have overdraw : List.Sublist ((changeReports .overdraw .supply (bare s.shaper.overdraw)
      (bare base.shaper.overdraw)).map Report.key) [(AlarmCode.overdraw, Source.supply)] := by
    cases s.shaper.overdraw <;> cases base.shaper.overdraw <;> simp [changeReports, bare, Report.key]
  have each (m : Motion) := brakeReports_once (due := s.gate.reportDue ≠ .none)
    (was := (s.gate.brakes.get m).fail) (found m) m
  have all := overdraw.append (((each .hoist).append (each .drag)).append ((each .swing).append (each .walk)))
  refine List.Nodup.sublist (l₂ := [(AlarmCode.overdraw, Source.supply), (.brakeFail, .motion .hoist),
    (.brakeFail, .motion .drag), (.brakeFail, .motion .swing), (.brakeFail, .motion .walk)]) ?_ (by decide)
  simpa only [periodReports, Motion.all, List.flatMap_cons, List.flatMap_nil, List.append_nil, List.map_append,
    List.append_assoc, List.cons_append, List.nil_append] using all

theorem Motion.mem_all (m : Motion) : m ∈ Motion.all := by cases m <;> decide

theorem mem_periodReports_raise {s base : State} {failed : Motion → Bool} {m : Motion}
    (raised : BrakeFailRaised s (base.gate.brakes.get m) (failed m)) :
    .raise .brakeFail (.motion m) none ∈ periodReports s base failed := by
  refine List.mem_append_right _ (List.mem_flatMap.2 ⟨m, Motion.mem_all m, List.mem_append_left _ ?_⟩)
  rw [if_pos (show failed m = true ∨ _ from raised)]
  exact List.mem_cons_self

theorem mem_periodReports_gone {s base : State} {failed : Motion → Bool} {m : Motion}
    (was : (s.gate.brakes.get m).fail = true) (is : (base.gate.brakes.get m).fail = false) :
    .gone .brakeFail (.motion m) ∈ periodReports s base failed := by
  refine List.mem_append_right _ (List.mem_flatMap.2 ⟨m, Motion.mem_all m, List.mem_append_right _ ?_⟩)
  rw [if_pos ⟨was, is⟩]
  exact List.mem_cons_self

/-! ### The sequencer's part leaves the other entries (R123, R124) -/

/-- A lawful unit whose entry of a code and source is `entry`. -/
def Holds (c : AlarmCode) (src : Source) (entry : Option AlarmEntry) (s : State) : Prop :=
  s.alarms.Lawful ∧ findEntry s.alarms.list c src = entry

section
variable {c : AlarmCode} {src : Source} {entry : Option AlarmEntry} {s : State}

theorem Holds.takeReports (h : Holds c src entry s) (restrains : alarmClass c src ≠ .warn) {rs : List Report}
    (table : ∀ r ∈ rs, r.InTable) (other : ∀ r ∈ rs, r.key ≠ (c, src)) : Holds c src entry (takeReports rs s) :=
  ⟨takeReports_lawful table h.1, (findEntry_takeReports_other table h.1 restrains other).trans h.2⟩

theorem Holds.congr {t : State} (h : Holds c src entry s) (list : t.alarms.list = s.alarms.list)
    (lawful : t.alarms.Lawful) : Holds c src entry t := ⟨lawful, list ▸ h.2⟩

theorem Holds.refuseSequence (h : Holds c src entry s) (restrains : alarmClass c src ≠ .warn) (d : Detail) :
    Holds c src entry (refuseSequence d s) := by
  refine h.takeReports restrains (rs := [.momentary .sequenceRefused .sequencer (some d)]) (by simp [Report.InTable, inCodeTable]) ?_
  rintro r hr same
  obtain rfl := List.mem_singleton.1 hr
  cases same
  exact restrains rfl

theorem Holds.issueOrder (h : Holds c src entry s) (restrains : alarmClass c src ≠ .warn) (code : c ≠ .driveFault)
    (kind : Working) : Holds c src entry (issueOrder kind s) := by
  rw [(issueOrder_issued kind s).2]
  refine Holds.takeReports ?_ restrains (driveFaultReports_inTable _ _) fun r hr same => ?_
  · exact ⟨⟨h.1.list, h.1.flags, h.1.lost⟩, h.2⟩
  · obtain ⟨g, ⟨rfl, -⟩ | ⟨rfl, -⟩⟩ := mem_driveFaultReports.1 hr <;> cases same <;> exact code rfl

theorem Holds.entryDone {t : State} (h : Holds c src entry s) (restrains : alarmClass c src ≠ .warn)
    (code : c ≠ .driveFault) (done : EntryDone s t) : Holds c src entry t := by
  cases done with
  | stands => exact h
  | moved moves => exact h
  | issued kind parked => exact h.issueOrder restrains code kind
  | refused d => exact h.refuseSequence restrains d

theorem Holds.serviceQueue (h : Holds c src entry s) (restrains : alarmClass c src ≠ .warn) (code : c ≠ .driveFault) :
    Holds c src entry (serviceQueue s) :=
  serviceQueue_keeps (L := Holds c src entry) (fun u _ rest _ before _ _ done =>
    Holds.entryDone (s := u.withSequencer { u.sequencer with queue := rest }) before restrains code done) h

theorem Holds.completeStop (h : Holds c src entry s) (restrains : alarmClass c src ≠ .warn) (code : c ≠ .driveFault)
    (d : Settled) : Holds c src entry (completeStop d s) := by
  unfold Machine.completeStop
  split
  · exact h
  · split
    · exact h.issueOrder restrains code .walk
    · exact Holds.refuseSequence (s := setMode .dig s) h restrains .walk
  · split
    · exact h.issueOrder restrains code .dig
    · exact Holds.refuseSequence (s := setMode .walk s) h restrains .notAtRest

theorem Holds.periodEnd (h : Holds c src entry s) (restrains : alarmClass c src ≠ .warn) (code : c ≠ .driveFault)
    (notices : PerMotion Notice) : Holds c src entry (periodEndAtSequencer notices s) :=
  periodEndAtSequencer_keeps (L := Holds c src entry) h fun _ d _ _ =>
    (h.completeStop restrains code d).serviceQueue restrains code

end

/-- The entry of BRAKE-FAIL of a motion after a period is the one its reports leave. -/
theorem periodAll_brakeFail {s : State} (h : s.alarms.Lawful) (m : Motion) :
    let n := takeReports (periodReports s (periodBlocks s) fun m => (noticed s m).raised) (periodBlocks s)
    n.alarms.Lawful ∧ (periodAll s).alarms.Lawful ∧
      findEntry (periodAll s).alarms.list .brakeFail (.motion m) = findEntry n.alarms.list .brakeFail (.motion m) := by
  intro n
  have base : (periodBlocks s).alarms.Lawful := h
  have lawful : n.alarms.Lawful := takeReports_lawful (periodReports_inTable _ _ _) base
  have held : Holds .brakeFail (.motion m) _ n := ⟨lawful, rfl⟩
  have ended := held.periodEnd (by simp [alarmClass]) (by simp) (periodNotices s)
  rw [show n = notifyGate (periodNotices s) (shapePeriod s) from (notifyGate_eq_takeReports s).symm] at ended
  refine ⟨lawful, ended.1, ended.2.trans ?_⟩
  rw [notifyGate_eq_takeReports]

/-- Settles O34: the brakes formed (`periodBlocks_formed`), the trips (`periodAll_trips`), and the entries that the reports
leave (`takeReports_raised`, `takeReports_ended`), which the sequencer's part does not touch (`periodAll_brakeFail`). -/
theorem periodNotifiesBrakes : Obligations.PeriodNotifiesBrakes := by
  unfold Obligations.PeriodNotifiesBrakes
  intro s running counted law
  have lawful := (alarmListLaw_iff s).1 law
  have base : (periodBlocks s).alarms.Lawful := lawful
  have only := periodAll_onlySequencer s
  have formed := periodBlocks_formed s
  have table := periodReports_inTable s (periodBlocks s) fun m => (noticed s m).raised
  have keys : ((periodReports s (periodBlocks s) fun m => (noticed s m).raised).map Report.key).Nodup :=
    periodReports_keys fun m raised => by
      rw [periodBlocks_brake]
      exact notifyBrake_raised raised
  refine ⟨_, exec_periodExpiry_running running, fun m => ⟨(periodBlocks s).gate.brakes.get m, (noticed s m).raised,
    formed.brake m, ?_, fun drive => ?_, fun raised => ?_, fun was is e he code source => ?_, ?_⟩⟩
  · rw [settle_gate, settle_motion]
    rcases only.motion m with ⟨-, brake⟩ | ⟨motion, brake⟩
    · exact .inl brake
    · exact .inr ⟨Dropped.of_dropped ((Base.period.brakeLaw counted) m).2.2 brake, congrArg MotionRecord.permit motion⟩
  · obtain ⟨trips, spares⟩ := periodAll_trips law drive m
    rw [settle_gate, settle_motion]
    refine ⟨fun entered => ?_, fun spared => ?_⟩
    · obtain ⟨motion, brake⟩ := trips entered
      rw [brake, motion]
      exact ⟨dropBrake_dropped _, rfl⟩
    · obtain ⟨motion, brake⟩ := spares spared
      rw [brake, motion, formed.motion m]
      exact ⟨rfl, rfl⟩
  · obtain ⟨reported, ended, same⟩ := periodAll_brakeFail lawful m
    have mem := mem_periodReports_raise (failed := fun m => (noticed s m).raised) raised
    obtain ⟨e, he, code, source, state⟩ := (takeReports_raised table keys base mem (by simp [alarmClass])).1
    exact ⟨e, (findEntry_mem (same.trans (reported.list.findEntry_iff.2 ⟨he, code, source⟩))).1, code, source, state⟩
  · obtain ⟨reported, ended, same⟩ := periodAll_brakeFail lawful m
    have mem := mem_periodReports_gone (failed := fun m => (noticed s m).raised) was is
    have found := same.symm.trans (ended.list.findEntry_iff.2 ⟨he, code, source⟩)
    exact takeReports_ended table keys base mem (by simp [alarmClass]) (findEntry_mem found).1 code source
  · exact congrArg Gate.reportDue only.gate

end Sys2Proof.Machine
end

section
/-! The end of STOPPING at a period expiry (R123, R124). -/

namespace Sys2Proof.Machine

/-! ### Whether the stop is complete (R123) -/

/-- A motion stands at a period: nothing asked of it, nothing given, and its brake SET in a state of the gate. -/
def StandsAt (s : State) (g : Gate) (m : Motion) : Prop :=
  (formMotion s m).target = 0 ∧ (sharePeriod s (PerMotion.of (formMotion s))).outputs.get m = 0 ∧
    (g.brakes.get m).state = .set

theorem sourceMotions_iff (source : Working) (m : Motion) :
    (sourceMotions source).get m = true ↔ (source = .dig ↔ m ≠ .walk) := by
  cases source <;> cases m <;> simp [sourceMotions, digMotions, onlyMotion, PerMotion.get, PerMotion.of]

theorem stopComplete_iff (s n : State) (source : Working) :
    stopComplete source (periodNotices s) n = true ↔ ∀ m, (source = .dig ↔ m ≠ .walk) → StandsAt s n.gate m := by
  refine (PerMotion.every_iff _).trans (forall_congr' fun m => ?_)
  rw [PerMotion.get_of, ← sourceMotions_iff, periodNotices_get]
  cases (sourceMotions source).get m <;> simp [standsStill, StandsAt, and_assoc]

/-- Nothing that the sequencer does makes a brake SET, or one SET another. -/
theorem OnlySequencer.brake_set_iff {s t : State} (only : OnlySequencer s t) (m : Motion) :
    (t.gate.brakes.get m).state = .set ↔ (s.gate.brakes.get m).state = .set := by
  rcases (OnlyReports.brake only m).2.2 with same | ⟨setting, lifted⟩
  · exact same ▸ Iff.rfl
  · have setting : (t.gate.brakes.get m).state = .setting := setting
    rw [setting]
    rcases lifted with state | state <;> simp [state]

/-! ### The period in STOPPING -/

/-- What the period's blocks and reports leave, before the sequencer's part. -/
def notifiedPeriod (s : State) : State :=
  takeReports (periodReports s (periodBlocks s) fun m => (noticed s m).raised) (periodBlocks s)

theorem notifyGate_notifiedPeriod (s : State) : notifyGate (periodNotices s) (shapePeriod s) = notifiedPeriod s :=
  notifyGate_eq_takeReports s

theorem notifiedPeriod_sequencer (s : State) : (notifiedPeriod s).sequencer = s.sequencer := by
  rw [← notifyGate_notifiedPeriod]
  exact (notifiedPeriod_reports s).2

theorem notifiedPeriod_only (s : State) : OnlyReports (periodBlocks s) (notifiedPeriod s) := takeReports_reports _ _

theorem notifiedPeriod_bothInRest (s : State) : (notifiedPeriod s).walk.bothInRest = s.walk.bothInRest :=
  (notifiedPeriod_only s).onlySequencer.bothInRest.trans rfl

theorem notifiedPeriod_alarms (s : State) : (notifiedPeriod s).alarms =
    alarmsAfter (periodReports s (periodBlocks s) fun m => (noticed s m).raised) s :=
  (alarmsAfter_eq _ (periodBlocks s)).trans (alarmsAfter_eq _ s).symm

section
variable {s : State} {source : Working} {d : Settled} (stopping : s.sequencer.mode = .stopping source d)
include stopping

theorem periodAll_stopping : periodAll s =
    if stopComplete source (periodNotices s) (notifiedPeriod s) then
      serviceQueue (completeStop d (notifiedPeriod s)) else notifiedPeriod s := by
  rw [periodAll, notifyGate_notifiedPeriod, periodEndAtSequencer, notifiedPeriod_sequencer, stopping]

/-- The brakes at the end of the period stand SET exactly where they did before the sequencer's part. -/
theorem periodAll_stands : (∀ m, (source = .dig ↔ m ≠ .walk) → StandsAt s (periodAll s).gate m) ↔
    stopComplete source (periodNotices s) (notifiedPeriod s) = true := by
  have set (m : Motion) : ((periodAll s).gate.brakes.get m).state = .set ↔
      ((notifiedPeriod s).gate.brakes.get m).state = .set := by
    rw [periodAll_stopping stopping]
    split
    · exact ((completeStop_onlySequencer d _).trans (serviceQueue_onlySequencer _)).brake_set_iff m
    · rfl
  rw [stopComplete_iff]
  exact forall_congr' fun m => imp_congr_right fun _ => and_congr_right' (and_congr_right' (set m))

end

theorem completeStop_queue (d : Settled) (s : State) : (completeStop d s).sequencer.queue = s.sequencer.queue := by
  unfold completeStop
  split
  · rfl
  · split
    · rw [issueOrder_sequencer]
    · rw [refuseSequence_sequencer]
      rfl
  · split
    · rw [issueOrder_sequencer]
    · rw [refuseSequence_sequencer]
      rfl

/-! ### The reports of a period in which every brake stays SET -/

/-- A report adds one entry at most. -/
theorem unitAfter_length (arr : Arrangement) (a : Alarms) (r : Report) :
    (unitAfter arr a r).list.length ≤ a.list.length + 1 := by
  have appended (n : AlarmEntry) : (appendEntry a n).unit.list.length ≤ a.list.length + 1 := by
    obtain ⟨room, dropped, evicted⟩ := appendEntry_cases a n
    rcases Nat.lt_or_ge a.list.length 32 with short | full
    · rw [room short]
      simp
    · by_cases warn : n.cls = .warn
      · rw [dropped full warn]
        exact Nat.le_succ _
      · rw [evicted full warn]
        simpa [evictWarn] using List.length_eraseP_le
  have changed (c : AlarmCode) (src : Source) (f : AlarmEntry → AlarmEntry) :
      (a.withList (changeEntry a.list c src f)).list.length ≤ a.list.length + 1 := by
    simp [changeEntry]
  cases r with
  | raise c src d =>
    show (raiseHeld a arr c src d).unit.list.length ≤ _
    unfold raiseHeld
    split
    · split
      · exact Nat.le_succ _
      · exact appended _
    · split
      · exact changed ..
      · split
        · exact Nat.le_succ _
        · exact changed ..
  | momentary c src d =>
    show (raiseMomentary a arr c src d).unit.list.length ≤ _
    unfold raiseMomentary
    split
    · exact appended _
    · exact changed ..
  | gone c src =>
    show (conditionGone a c src).unit.list.length ≤ _
    unfold conditionGone
    split
    · exact Nat.le_succ _
    · split
      · exact changed ..
      · exact (List.length_filter_le _ _).trans (Nat.le_succ _)
      · exact Nat.le_succ _

theorem takeReports_length (rs : List Report) (s : State) :
    (takeReports rs s).alarms.list.length ≤ s.alarms.list.length + rs.length := by
  induction rs generalizing s with
  | nil => exact Nat.le_refl _
  | cons r rest ih =>
    have one := unitAfter_length s.sequencer.record.arrangement s.alarms r
    rw [← Report.take_alarms] at one
    have more := ih (r.take s)
    rw [List.length_cons]
    show (takeReports rest (r.take s)).alarms.list.length ≤ _
    omega

/-- Reports of other classes neither make nor take a TRIP entry (R149 to R152). -/
theorem takeReports_trips {rs : List Report} (table : ∀ r ∈ rs, r.InTable)
    (quiet : ∀ r ∈ rs, alarmClass r.key.1 r.key.2 ≠ .trip) {s : State} (h : s.alarms.Lawful) :
    (∀ e ∈ (takeReports rs s).alarms.list, e.cls ≠ .trip) ↔ ∀ e ∈ s.alarms.list, e.cls ≠ .trip := by
  have after := takeReports_lawful table h
  have same (c : AlarmCode) (src : Source) (trip : alarmClass c src = .trip) :
      findEntry (takeReports rs s).alarms.list c src = findEntry s.alarms.list c src :=
    findEntry_takeReports_other table h (by simp [trip]) fun r hr key => quiet r hr (by rw [key]; exact trip)
  constructor
  · intro none e he trip
    have cls := (h.list.entries e he).2.symm.trans trip
    have found := (same _ _ cls).trans (h.list.findEntry_of_mem he)
    exact none e (findEntry_mem found).1 trip
  · intro none e he trip
    have cls := (after.list.entries e he).2.symm.trans trip
    have found := (same _ _ cls).symm.trans (after.list.findEntry_of_mem he)
    exact none e (findEntry_mem found).1 trip

section
variable {s : State} (due : s.gate.reportDue = .none)
  (set : ∀ m, (s.gate.brakes.get m).state = .set ∧ (s.gate.brakes.get m).fail = false)
  (still : ∀ m, (s.shaper.motions.get m).output = 0 ∧ (formMotion s m).target = 0)

include set in
/-- A brake SET with no fail condition finds no failure (R107). -/
theorem noticed_quiet (m : Motion) : (noticed s m).raised = false ∧ ((periodBlocks s).gate.brakes.get m).fail = false := by
  obtain ⟨state, sound⟩ := set m
  obtain ⟨named, -, after⟩ := (periodBlocks_formed s).brake m
  have found : (noticed s m).raised = false := by
    refine Bool.eq_false_iff.2 fun raised => ?_
    rcases (after.failedWhen.1 raised).2 with ⟨releasing, -⟩ | ⟨setting, -⟩
    · simp [state] at releasing
    · simp [state] at setting
  refine ⟨found, Bool.eq_false_iff.2 fun failed => ?_⟩
  rcases (after.fail.1 failed).1 with before | raised
  · simp [sound] at before
  · simp [found] at raised

include due set in
theorem periodReports_quiet : periodReports s (periodBlocks s) (fun m => (noticed s m).raised) =
    changeReports .overdraw .supply (bare s.shaper.overdraw) (bare (periodBlocks s).shaper.overdraw) := by
  refine List.append_right_eq_self.2 (List.flatMap_eq_nil_iff.2 fun m _ => ?_)
  have found := (noticed_quiet set m).1
  simp [found, due, (set m).2]

theorem changeReports_length (c : AlarmCode) (src : Source) (before now : Option (Option Detail)) :
    (changeReports c src before now).length ≤ 1 := by
  unfold changeReports
  split <;> split <;> simp

include set still in
/-- Every motion stands at the end of the period. -/
theorem quiet_stands (m : Motion) : StandsAt s (notifiedPeriod s).gate m := by
  obtain ⟨output, target⟩ := still m
  obtain ⟨state, -⟩ := set m
  have formed : (formMotion s m).output = 0 := (formMotion_output s m).2 (by simp [state])
  have shared := (sharePeriod_bounds s m).1
  rw [formed] at shared
  have brake : ((periodBlocks s).gate.brakes.get m).state = .set := by
    obtain ⟨named, -, after⟩ := (periodBlocks_formed s).brake m
    simpa [target] using (after.set state).1
  exact ⟨target, Int.natAbs_eq_zero.1 (Nat.le_zero.1 shared),
    ((notifiedPeriod_only s).onlySequencer.brake_set_iff m).2 brake⟩

include due set in
theorem quiet_list (law : AlarmListLaw s) (room : s.alarms.list.length ≤ 30) :
    (notifiedPeriod s).alarms.list.length < 32 ∧ (MayWalk (notifiedPeriod s) ↔ MayWalk s) := by
  have lawful : (periodBlocks s).alarms.Lawful := (alarmListLaw_iff s).1 law
  have only := notifiedPeriod_only s
  have bands : (notifiedPeriod s).bands = s.bands := only.bands
  have envelope : (notifiedPeriod s).envelope = s.envelope := only.envelope
  have table := periodReports_inTable s (periodBlocks s) fun m => (noticed s m).raised
  have quiet := periodReports_quiet due set
  have trips : (∀ e ∈ (notifiedPeriod s).alarms.list, e.cls ≠ .trip) ↔ ∀ e ∈ s.alarms.list, e.cls ≠ .trip :=
    takeReports_trips table (fun r hr => by
      rw [quiet] at hr
      rw [changeReports_key r hr]
      simp [alarmClass]) lawful
  refine ⟨?_, ?_⟩
  · have length : (notifiedPeriod s).alarms.list.length ≤ s.alarms.list.length + _ := takeReports_length _ _
    rw [quiet] at length
    have one := changeReports_length .overdraw .supply (bare s.shaper.overdraw) (bare (periodBlocks s).shaper.overdraw)
    omega
  · simp only [MayWalk, bands, envelope, trips]

end

/-! ### A completed stop, by its destination (R124) -/

theorem completeStop_walk (s : State) :
    (MayWalk s → completeStop .walk s = issueOrder .walk s) ∧
    (¬MayWalk s → completeStop .walk s = refuseSequence .walk (setMode .dig s)) := by
  rw [← walkPermitUnmoded_iff]
  exact ⟨fun may => if_pos may, fun not => if_neg not⟩

theorem completeStop_dig (s : State) :
    (s.walk.bothInRest = true → completeStop .dig s = issueOrder .dig s) ∧
    (s.walk.bothInRest = false → completeStop .dig s = refuseSequence .notAtRest (setMode .walk s)) :=
  ⟨fun rest => if_pos rest, fun out => if_neg (by simp [out])⟩

/-- Settles O39: the sequencer's part in the period (`periodAll_stopping`) by whether every motion stands
(`periodAll_stands`), and the rows of R124 (`completeStop_ended`). -/
theorem stoppingCompletes : Obligations.StoppingCompletes := by
  unfold Obligations.StoppingCompletes
  refine ⟨fun s source d running stopping queue due law room set still => ?_, fun s source d running stopping => ?_⟩
  · have complete : stopComplete source (periodNotices s) (notifiedPeriod s) = true :=
      (stopComplete_iff ..).2 fun m _ => quiet_stands set still m
    have sequencer := notifiedPeriod_sequencer s
    have ended : periodAll s = completeStop d (notifiedPeriod s) := by
      rw [periodAll_stopping stopping, if_pos complete]
      exact serviceQueue_empty (by rw [completeStop_queue, sequencer, queue])
    have issued (kind : Working) : issuedRecord (notifiedPeriod s) kind = issuedRecord s kind := by
      rw [issuedRecord, issuedRecord, sequencer, (notifiedPeriod_only s).seconds]
      rfl
    have record : (notifiedPeriod s).sequencer.record = s.sequencer.record := congrArg Sequencer.record sequencer
    obtain ⟨short, may⟩ := quiet_list due set law room
    have rest := notifiedPeriod_bothInRest s
    refine ⟨_, exec_periodExpiry_running running, ?_, ?_, ?_, ?_, ?_, ?_⟩ <;> rw [ended]
    · exact (completeStop_queue d _).trans ((congrArg Sequencer.queue sequencer).trans queue)
    · rintro rfl
      exact ⟨rfl, record⟩
    · rintro rfl walks
      rw [(completeStop_walk _).1 (may.2 walks)]
      have order := issueOrder_sequencer .walk (notifiedPeriod s)
      exact ⟨congrArg Sequencer.mode order, (congrArg Sequencer.record order).trans (issued .walk)⟩
    · rintro rfl stays
      rw [(completeStop_walk _).2 (mt may.1 stays)]
      have stands := refuseSequence_sequencer .walk (setMode .dig (notifiedPeriod s))
      obtain ⟨e, he, code, from', detail, -⟩ := refuseSequence_enters .walk (s := setMode .dig (notifiedPeriod s)) short
      exact ⟨congrArg Sequencer.mode stands, (congrArg Sequencer.record stands).trans record, e, he, code, from', detail⟩
    · rintro rfl rests
      rw [(completeStop_dig _).1 (rest.trans rests)]
      have order := issueOrder_sequencer .dig (notifiedPeriod s)
      exact ⟨congrArg Sequencer.mode order, (congrArg Sequencer.record order).trans (issued .dig)⟩
    · rintro rfl out
      rw [(completeStop_dig _).2 (rest.trans out)]
      have stands := refuseSequence_sequencer .notAtRest (setMode .walk (notifiedPeriod s))
      obtain ⟨e, he, code, from', detail, -⟩ :=
        refuseSequence_enters .notAtRest (s := setMode .walk (notifiedPeriod s)) short
      exact ⟨congrArg Sequencer.mode stands, (congrArg Sequencer.record stands).trans record, e, he, code, from', detail⟩
  · have formed : PeriodFormed s (periodBlocks s) fun m => (noticed s m).raised := periodBlocks_formed s
    have only := notifiedPeriod_only s
    refine ⟨_, exec_periodExpiry_running running, ?_⟩
    intro stands
    have complete : stands ↔ _ := periodAll_stands stopping
    refine ⟨fun moving => ?_, fun stopped => ?_, fun moving _ => ⟨_, _, formed, ?_⟩⟩
    · have stays : periodAll s = notifiedPeriod s := by
        rw [periodAll_stopping stopping, if_neg (mt complete.2 moving)]
      rw [stays, ← notifiedPeriod_sequencer s]
      rfl
    · refine ⟨notifiedPeriod s, completeStop d (notifiedPeriod s), serviceQueue (completeStop d (notifiedPeriod s)), ?_,
        completeStop_ended d _, ?_, notifiedPeriod_sequencer s, only.bands, only.envelope, notifiedPeriod_bothInRest s,
        only.seconds, fun _ => ⟨_, _, formed, rfl, notifiedPeriod_alarms s⟩⟩
      · rw [periodAll_stopping stopping, if_pos (complete.1 stopped)]
      · have queue : (completeStop d (notifiedPeriod s)).sequencer.queue = s.sequencer.queue :=
          (completeStop_queue d _).trans (congrArg Sequencer.queue (notifiedPeriod_sequencer s))
        exact queue ▸ serviceQueue_taken _
    · rw [periodAll_stopping stopping, if_neg (mt complete.2 moving)]
      rfl

end Sys2Proof.Machine
end

section
/-! The reading requests (R2, R49, R161, R173, R174, R177, R179). -/

namespace Sys2Proof.Machine

/-- A request its port carries, answered as its owner answers. -/
theorem exec_owned {c : Instr} {p : Port} {r : Request} {s t : State} {kind : Byte} {code : ResultCode} {data : List Byte}
    (asked : requestOf c = some (p, r)) (free : PortFree p s) (responds : kindOf r ||| 0x80 = kind)
    (allowed : kindAllowed (kindOf r) p = some true) (fits : lengthFits r = true)
    (owner : ownerAnswer p r s = (⟨code, data⟩, t)) : exec c s = .next (settle (holdAnswer p r kind code data t)) :=
  exec_delivers (reply := ⟨code, data⟩) asked free responds ((judgeRequest_owned allowed fits s).trans owner)

/-! ### What each read's owner answers -/

theorem takeReadMeasurements_some {s : State} {snap : Snapshot} (taken : s.scanner.snapshot = some snap) :
    takeReadMeasurements s = answer (snapshotBytes snap) s := by rw [takeReadMeasurements, taken]

theorem takeReadMeasurements_none {s : State} (taken : s.scanner.snapshot = none) :
    takeReadMeasurements s = refuse .busy s := by rw [takeReadMeasurements, taken]

theorem takeReadSetting_some {group which : Byte} {g : SettingGroup} {s : State} {data : List Byte}
    (named : groupOfCode group = some g) (bytes : settingBytes s g which = some data) :
    takeReadSetting group which s = answer data s := by
  rw [takeReadSetting, named]
  dsimp only
  rw [bytes]

theorem takeReadSetting_none {group which : Byte} {g : SettingGroup} {s : State}
    (named : groupOfCode group = some g) (bytes : settingBytes s g which = none) :
    takeReadSetting group which s = refuse .badArgument s := by
  rw [takeReadSetting, named]
  dsimp only
  rw [bytes]

theorem clearListChanged_eq (p : Port) (s : State) : clearListChanged p s = { s with
    ports := { s.ports with
      a := { s.ports.a with listChanged := s.ports.a.listChanged && decide (p ≠ .a) }
      c := { s.ports.c with listChanged := s.ports.c.listChanged && decide (p ≠ .c) } } } := by
  cases p <;> simp [clearListChanged, State.withPortA, State.withPortC, State.withPorts]

theorem takeReadAlarms_cases (p : Port) (start count : Byte) (s : State) :
    ((count.toNat = 0 ∨ 8 < count.toNat ∨ 31 < start.toNat) →
      takeReadAlarms p start count s = refuse .badArgument s) ∧
    (¬(count.toNat = 0 ∨ 8 < count.toNat ∨ 31 < start.toNat) → takeReadAlarms p start count s =
      (⟨.accepted, alarmsData s.alarms start.toNat count.toNat⟩, clearListChanged p s)) :=
  ⟨fun outside => if_pos outside, fun inside => if_neg inside⟩

theorem takeReadZone_refused {table position : Byte} (outside : 1 < table.toNat ∨ 23 < position.toNat) (s : State) :
    takeReadZone table position s = refuse .badArgument s := if_pos outside

section
variable {table position : Byte} {s : State} (inside : position.toNat ≤ 23)
include inside

theorem takeReadZone_judged (known : table.toNat ≤ 1) : ¬(1 < table.toNat ∨ Config.zonePositions ≤ position.toNat) := by
  simp only [Config.zonePositions]
  omega

theorem takeReadZone_table {slot : TableSlot} (active : table.toNat = 0) (held : s.envelope.table[position.toNat]? = some slot) :
    takeReadZone table position s =
      answer ([position, bool8 slot.failed] ++ be16 s.envelope.generation ++ zoneBytes slot.entry) s := by
  rw [takeReadZone, if_neg (takeReadZone_judged inside (by omega)), if_pos active]
  simp only [List.getD_eq_getElem?_getD, held, Option.getD_some]

theorem takeReadZone_closed (buffer : table.toNat = 1) (closed : s.envelope.edit = .closed) :
    takeReadZone table position s = refuse .wrongMode s := by
  rw [takeReadZone, if_neg (takeReadZone_judged inside (by omega)), if_neg (by omega)]
  exact if_pos closed

theorem takeReadZone_buffer {slot : BufferSlot} (buffer : table.toNat = 1) (opened : s.envelope.edit ≠ .closed)
    (held : s.envelope.buffer[position.toNat]? = some slot) : takeReadZone table position s =
      answer ([position, bool8 slot.edited] ++ zoneBytes slot.entry) s := by
  rw [takeReadZone, if_neg (takeReadZone_judged inside (by omega)), if_neg (by omega)]
  refine (if_neg opened).trans ?_
  simp only [List.getD_eq_getElem?_getD, held, Option.getD_some]

end

/-! ### The statement -/

/-- Settles O49: each read is carried by its ports' rows (`exec_owned`, `exec_refused`) and answered by its owner. -/
theorem readsAnswerTheState : Obligations.ReadsAnswerTheState := by
  unfold Obligations.ReadsAnswerTheState
  intro s
  refine ⟨fun p other free => ?_, fun free => exec_owned rfl free rfl rfl rfl rfl, fun p reads free => ?_,
    fun p reads free => ?_, fun p start count reads free => ?_, fun group which g free named => ?_,
    fun table position free => ⟨fun slot active inside held => ?_, fun slot buffer inside opened held => ?_,
      fun buffer inside closed => ?_, fun outside => ?_⟩⟩
  · have allowed : kindAllowed 0x01 p = some true := by cases p <;> rfl
    exact exec_owned rfl free rfl allowed rfl (if_neg other)
  · have allowed : kindAllowed 0x08 p = some true := by
      cases p with
      | b => exact absurd rfl reads
      | _ => rfl
    exact ⟨fun snap taken => exec_owned rfl free rfl allowed rfl (takeReadMeasurements_some taken),
      fun taken => exec_refused rfl free rfl allowed rfl (takeReadMeasurements_none taken)⟩
  · have allowed : kindAllowed 0x09 p = some true := by
      cases p with
      | a => exact absurd rfl reads
      | _ => rfl
    exact exec_owned rfl free rfl allowed rfl rfl
  · have allowed : kindAllowed 0x06 p = some true := by
      cases p with
      | b => exact absurd rfl reads
      | _ => rfl
    obtain ⟨refused, taken⟩ := takeReadAlarms_cases p start count s
    refine ⟨fun some' few within => ?_, fun outside => ?_⟩
    · rw [← clearListChanged_eq]
      exact exec_owned rfl free (by simp [kindOf]) allowed rfl (taken (by omega))
    · exact exec_refused rfl free (by simp [kindOf]) allowed rfl (refused outside)
  · cases bytes : settingBytes s g which with
    | some data => exact exec_owned rfl free (by simp [kindOf]) rfl rfl (takeReadSetting_some named bytes)
    | none => exact exec_refused rfl free (by simp [kindOf]) rfl rfl (takeReadSetting_none named bytes)
  · exact exec_owned rfl free (by simp [kindOf]) rfl rfl (takeReadZone_table inside active held)
  · exact exec_owned rfl free (by simp [kindOf]) rfl rfl (takeReadZone_buffer inside buffer opened held)
  · exact exec_refused rfl free (by simp [kindOf]) rfl rfl (takeReadZone_closed inside buffer closed)
  · exact exec_refused rfl free (by simp [kindOf]) rfl rfl (takeReadZone_refused outside s)

end Sys2Proof.Machine
end

section
/-! RESTART (R17, R34, R58, R77, R99, R113, R133, R145, R165, R180, R186). -/

namespace Sys2Proof.Machine

/-- The entry of TRANSFER-FAIL in the unit a RESTART has emptied (R133). -/
def failAnew : AlarmEntry :=
  ⟨.transferFail, .sequencer, none, .trip, allMotions, .activeUnack, 0, 0, 1⟩

/-- The Alarm Unit after a RESTART (R133, R165). -/
def restartedAlarms (s : State) : Alarms :=
  if s.sequencer.record.failedMark then (restartAlarms s.alarms).withList [failAnew] else restartAlarms s.alarms

/-- What a RESTART leaves is stopped already: TRANSFER-FAIL raised anew stops nothing more. -/
theorem restart_tripped {s : State} (parked : s.sequencer.mode = .parked) (a : Alarms) :
    tripEffects allMotions ((restartBase s).withAlarms a) = (restartBase s).withAlarms a := by
  have motions : ((restartBase s).shaper.motions.map fun m r => if allMotions.get m then r.stopped else r) =
      (restartBase s).shaper.motions := PerMotion.ext_get fun m => by
    simp only [PerMotion.get_map, allMotions_get, if_true, restartBase, noteListChange, State.withPorts_shaper, restartShaper]
    rfl
  have outputs : ((restartBase s).shaper.motions.map fun m r => if allMotions.get m then 0 else r.output) =
      (restartBase s).shaper.references.outputs := rfl
  have brakes : ((restartBase s).gate.brakes.map fun m b => if allMotions.get m then dropBrake b else b) =
      (restartBase s).gate.brakes := PerMotion.ext_get fun m => by
    simp only [PerMotion.get_map, allMotions_get, if_true, restartBase, noteListChange, State.withPorts_gate, restartGate]
    rfl
  have mode : modeAfterTrip (restartBase s).sequencer.mode = (restartBase s).sequencer.mode := by
    show modeAfterTrip s.sequencer.mode = s.sequencer.mode
    rw [parked]
    rfl
  rw [tripEffects_eq rfl]
  simp only [State.withAlarms_shaper, State.withAlarms_gate, State.withAlarms_sequencer, motions, outputs, brakes, mode]
  rfl

/-- RESTART's blocks, with the unit it leaves. -/
theorem restartAll_eq_alarms {s : State} (parked : s.sequencer.mode = .parked) :
    restartAll s = (restartBase s).withAlarms (restartedAlarms s) := by
  rw [restartAll_eq, restartedAlarms]
  split
  · have raised : raiseHeld (restartBase s).alarms (restartBase s).sequencer.record.arrangement .transferFail .sequencer none =
        ⟨(restartAlarms s.alarms).withList [failAnew], true, true⟩ := rfl
    show applyClass _ _ _ (takeReport _ _) = _
    rw [raised]
    show tripEffects allMotions ((restartBase s).withAlarms _) = _
    exact restart_tripped parked _
  · rfl

theorem restart_served (s : State) (a : Alarms) (m : Motion) :
    inService ((restartBase s).withAlarms a) m = false := by
  refine Bool.eq_false_iff.2 fun served => ?_
  have row := (inService_iff _ m).1 served
  cases m with
  | hoist | drag =>
    obtain ⟨-, -, ready, -⟩ := row
    exact nomatch (show Readiness.notReady = .ready from ready)
  | swing =>
    obtain ⟨-, ready, -⟩ := row
    exact nomatch (show Readiness.notReady = .ready from ready)
  | walk =>
    obtain ⟨-, -, ready, -⟩ := row
    exact nomatch (show Readiness.notReady = .ready from ready)

theorem restart_motion (s : State) (m : Motion) :
    (restartBase s).shaper.motions.get m = restartMotion (s.shaper.motions.get m) := PerMotion.get_map ..

theorem restart_permit (s : State) (a : Alarms) : walkPermitOk ((restartBase s).withAlarms a) = false := by
  refine Bool.eq_false_iff.2 fun permit => ?_
  obtain ⟨-, ⟨valid, -⟩, -⟩ := (walkPermitOk_iff _).1 permit
  exact nomatch (show false = true from valid)

theorem conditionOf_restarted (s : State) : (restartBase s).envelope.condition =
    if s.envelope.tableFailed = true then .invalid
      else if PositionsKnown s.scanner.snapshot then .valid else .blind := by
  show conditionOf .closed s.envelope.tableFailed (pointOf s.scanner.snapshot) = _
  unfold conditionOf
  by_cases known : PositionsKnown s.scanner.snapshot
  · rw [pointOf_known known, if_pos known]
    rfl
  · rw [pointOf_unknown known, if_neg known]
    rfl

/-- Settles O54: the blocks of `restartBase` with the unit of `restartedAlarms` (`restartAll_eq_alarms`), settled. -/
theorem restartKeepsAndClears : Obligations.RestartKeepsAndClears := by
  unfold Obligations.RestartKeepsAndClears
  intro s free parked idle
  have owner : ownerAnswer .c .restart s = (⟨.accepted, []⟩, (restartBase s).withAlarms (restartedAlarms s)) := by
    show takeRestart s = _
    rw [takeRestart, if_neg (not_not.2 parked), if_neg (by rw [storeBusy_of_idle idle]; simp), restartAll_eq_alarms parked]
    rfl
  refine ⟨_, exec_owned (c := .restart .c) rfl free rfl rfl rfl owner, rfl, rfl, ?_, ?_, rfl, ?_, rfl, ?_⟩
  · exact congrArg (fun x => { s.envelope with
      edit := .closed, buffer := List.replicate 24 ⟨none, false⟩, condition := x, reported := ⟨none, none, none⟩ })
      (conditionOf_restarted s)
  · refine congrArg (fun x => { (restartBase s).shaper with motions := x }) (PerMotion.ext_get fun m => ?_)
    rw [PerMotion.get_map, PerMotion.get_map]
    exact (congrArg (fun b => { (restartBase s).shaper.motions.get m with inService := b })
      (restart_served s (restartedAlarms s) m)).trans (by rw [restart_motion])
  · exact congrArg (fun x => { (restartBase s).sequencer with walkPermit := x }) (restart_permit s (restartedAlarms s))
  · show (restartedAlarms s).list = _ ∧ _
    unfold restartedAlarms
    by_cases failed : s.sequencer.record.failedMark = true
    · rw [if_pos failed, if_pos failed, failed]
      exact ⟨rfl, rfl, rfl, rfl, rfl, rfl, rfl, rfl, rfl, rfl, rfl, rfl, rfl, rfl, idle, rfl, rfl, rfl⟩
    · rw [if_neg failed, if_neg failed, Bool.eq_false_iff.2 failed]
      exact ⟨rfl, rfl, rfl, rfl, rfl, rfl, rfl, rfl, rfl, rfl, rfl, rfl, rfl, rfl, idle, rfl, rfl, rfl⟩

end Sys2Proof.Machine
end

section
/-! The release at the end of the load (R181, R184, R185, R187). -/

namespace Sys2Proof.Machine

/-! ### SETTINGS-CHECK for each failed record (R151, R184) -/

/-- The entry of SETTINGS-CHECK after `n` records, the last of them `r`. -/
def checkEntry (r : SettingsRecord) (n : Nat) : AlarmEntry :=
  { code := .settingsCheck, source := .store, detail := some (.record r), cls := .warn
    affected := ⟨false, false, false, false⟩, state := .clearedUnack, raisedAt := 0, changedAt := 0, occurrences := n }

/-- The entries for the records found failing, in the order they were found. -/
def checkEntries (l : List SettingsRecord) : List AlarmEntry :=
  l.getLast?.elim [] fun r => [checkEntry r l.length]

/-- The Alarm Unit a release leaves, by the records found failing. -/
def checkedAlarms (l : List SettingsRecord) : Alarms := State.reset.alarms.withList (checkEntries l)

/-- The ports a release leaves, by whether any record was found failing. -/
def toldPorts (told : Bool) : Ports :=
  { State.reset.ports with
    a := { State.reset.ports.a with listChanged := told }
    c := { State.reset.ports.c with listChanged := told } }

theorem checkEntries_concat (l : List SettingsRecord) (r : SettingsRecord) :
    checkEntries (l ++ [r]) = [checkEntry r (l.length + 1)] := by simp [checkEntries]

theorem raiseMomentary_checked {l : List SettingsRecord} (few : l.length < 255) (arr : Arrangement) (r : SettingsRecord) :
    raiseMomentary (checkedAlarms l) arr .settingsCheck .store (some (.record r)) =
      ⟨checkedAlarms (l ++ [r]), true, true⟩ := by
  rw [checkedAlarms, checkedAlarms, checkEntries_concat]
  cases last : l.getLast? with
  | none =>
    obtain rfl := List.getLast?_eq_none_iff.1 last
    rfl
  | some r' =>
    have count : nextOccurrence l.length = l.length + 1 := by
      simp only [nextOccurrence, Config.occurrenceMax]
      omega
    rw [checkEntries, last, ← count]
    rfl

theorem raiseSettingsCheck_checked {l : List SettingsRecord} (few : l.length < 255) (s : State) (told : Bool)
    (r : SettingsRecord) :
    raiseSettingsCheck ((s.withAlarms (checkedAlarms l)).withPorts (toldPorts told)) r =
      (s.withAlarms (checkedAlarms (l ++ [r]))).withPorts (toldPorts true) := by
  have raised := raiseMomentary_checked few s.sequencer.record.arrangement r
  show applyClass (raiseMomentary (checkedAlarms l) s.sequencer.record.arrangement _ _ _) _ _
    (takeReport (raiseMomentary (checkedAlarms l) s.sequencer.record.arrangement _ _ _) _) = _
  rw [raised]
  rfl

theorem foldl_raiseSettingsCheck {s : State} (alarms : s.alarms = State.reset.alarms) (ports : s.ports = State.reset.ports)
    (l : List SettingsRecord) (few : l.length ≤ 255) :
    l.foldl raiseSettingsCheck s = (s.withAlarms (checkedAlarms l)).withPorts (toldPorts (decide (l ≠ []))) := by
  induction l using List.reverseRecOn with
  | nil =>
    show s = (s.withAlarms State.reset.alarms).withPorts State.reset.ports
    rw [← alarms, ← ports]
    rfl
  | append_singleton l r ih =>
    rw [List.length_append, List.length_singleton] at few
    rw [List.foldl_append, ih (by omega), List.foldl_cons, List.foldl_nil, raiseSettingsCheck_checked (by omega)]
    simp

/-! ### The records that fail (R181) -/

theorem settingsChecks_eq (mem : Memory) : settingsChecks mem.load =
    SettingsRecord.all.map fun r => (r, (mem.recordAt (.settings r)).isNone) := by
  simp only [SettingsRecord.all, List.map_cons, List.map_nil, Memory.recordAt, Option.isNone_map]
  rfl

theorem failedSettings_eq (mem : Memory) : failedSettings mem.load = failingSettings mem := by
  rw [failedSettings, settingsChecks_eq, List.filter_map, List.map_map]
  exact List.map_id _

theorem failingSettings_length (mem : Memory) : (failingSettings mem).length ≤ 255 :=
  (List.length_filter_le _ _).trans (by decide)

/-- The blocks at the release, with what the checks of the settings records leave of the unit and of the marks. -/
def released (s : State) : State :=
  ((loadedBlocks s).withAlarms (checkedAlarms (failingSettings s.memory))).withPorts
    (toldPorts (decide (failingSettings s.memory ≠ [])))

theorem release_eq (s : State) : release s = released s := by
  rw [release, failedSettings_eq]
  exact foldl_raiseSettingsCheck (s := loadedBlocks s) rfl rfl _ (failingSettings_length s.memory)

theorem exec_settingsLoadEnd {s : State} (loading : s.power = .loading) :
    exec .settingsLoadEnd s = .next (settle (released s)) := by
  show execSettingsLoadEnd s = _
  rw [execSettingsLoadEnd, loading, ← release_eq]

/-! ### The envelope records (R57, R185) -/

theorem loadFailsTable_iff (mem : Loaded) : loadFailsTable mem = true ↔
    none ∈ mem.zones ∨ mem.header = none ∨ ∃ g, mem.header = some ⟨g, true⟩ := by
  have zones : mem.zones.any Option.isNone = true ↔ none ∈ mem.zones := by simp [List.any_eq_true]
  rw [loadFailsTable, Bool.or_eq_true, zones, or_comm]
  refine or_congr_right ?_
  cases mem.header with
  | none => simp [headerFails]
  | some h =>
    obtain ⟨g, marker⟩ := h
    simp [headerFails]

theorem conditionOf_loaded (failed : Bool) :
    conditionOf .closed failed none = if failed = true then .invalid else .blind := by
  cases failed <;> rfl

/-- Settles O8: the blocks of `loadedEnvelope`, and the one entry of `checkedAlarms` (`release_eq`). -/
theorem releaseFindsFailedRecords : Obligations.ReleaseFindsFailedRecords := by
  unfold Obligations.ReleaseFindsFailedRecords
  refine ⟨fun s loading => ⟨_, exec_settingsLoadEnd loading, ?_⟩, fun s loading => ⟨_, exec_settingsLoadEnd loading, ?_⟩⟩
  · show (loadedEnvelope s.memory.load).table.length = _ ∧ _
    refine ⟨List.length_map _, fun i entry found => ?_, fun i found => ?_, loadFailsTable_iff _, fun h found => ?_,
      fun found => ?_, conditionOf_loaded _, rfl, rfl, fun m d => ?_, rfl, rfl⟩
    · show (s.memory.load.zones.map loadedSlot)[i]? = _
      rw [List.getElem?_map, found]
      rfl
    · show (s.memory.load.zones.map loadedSlot)[i]? = _
      rw [List.getElem?_map, found]
      rfl
    · exact congrArg headerGeneration found
    · exact congrArg headerGeneration found
    · cases m <;> cases d <;> rfl
  · show (_ → checkEntries _ = []) ∧ ∀ r, _ → checkEntries _ = _
    refine ⟨fun none => ?_, fun r some => ?_⟩
    · rw [checkEntries, none]
      rfl
    · rw [checkEntries, some]
      rfl

/-! ### The state a release leaves (R187) -/

/-- No drive is ready after a release, so no motion is in service. -/
theorem released_served (s : State) (m : Motion) : inService (released s) m = false := by
  refine Bool.eq_false_iff.2 fun served => ?_
  have row := (inService_iff _ m).1 served
  cases m with
  | hoist | drag =>
    obtain ⟨-, -, ready, -⟩ := row
    exact nomatch (show Readiness.notReady = .ready from ready)
  | swing =>
    obtain ⟨-, ready, -⟩ := row
    exact nomatch (show Readiness.notReady = .ready from ready)
  | walk =>
    obtain ⟨-, -, ready, -⟩ := row
    exact nomatch (show Readiness.notReady = .ready from ready)

theorem released_permit (s : State) : walkPermitOk (released s) = false := by
  refine Bool.eq_false_iff.2 fun permit => ?_
  obtain ⟨-, ⟨valid, -⟩, -⟩ := (walkPermitOk_iff _).1 permit
  exact nomatch (show false = true from valid)

theorem released_motion (s : State) (m : Motion) : (released s).shaper.motions.get m =
    .reset ((s.memory.load.association.getD Config.factoryAssociation).get m) := PerMotion.get_map ..

theorem released_brake (s : State) (m : Motion) : (released s).gate.brakes.get m = .reset (s.feedbackInputs.get m) := PerMotion.get_map ..

theorem released_encoder (s : State) (e : EncoderId) : (released s).scanner.encoders.get e =
    .reset ((s.memory.load.encoderCal.get e).getD (Config.factoryEncoderCal.get e)) := by
  cases e <;> rfl

theorem released_analog (s : State) (a : AnalogId) : (released s).scanner.analogs.get a =
    .reset ((s.memory.load.analogCal.get a).getD (Config.factoryAnalogCal.get a)) := by
  cases a <;> rfl

/-- A WARN entry sets no flag and sounds no horn (R156, R158). -/
theorem checkedAlarms_eq (l : List SettingsRecord) : checkedAlarms l =
    { State.reset.alarms with list := checkEntries l } := by
  rw [checkedAlarms, checkEntries]
  cases l.getLast? <;> rfl

/-- The lines of a release: the attention lines of the ports told of a failed record alone (R177, R179). -/
theorem released_lines (s : State) : linesOf (released s) =
    let told := decide (failingSettings s.memory ≠ [])
    { brake := ⟨false, false, false, false⟩, runEnable := ⟨false, false, false, false⟩
      attention := ⟨told, false, told⟩, horn := false } := by
  have enabled : PerMotion.of (runEnabled (released s)) = ⟨false, false, false, false⟩ := PerMotion.ext_get fun m => by
    rw [PerMotion.get_of, runEnabled, released_served]
    cases m <;> rfl
  have brakes : ((released s).gate.brakes.map fun _ b => brakeEnergised b) = ⟨false, false, false, false⟩ :=
    PerMotion.ext_get fun m => by
      rw [PerMotion.get_map, released_brake]
      cases m <;> rfl
  have alarms : (released s).alarms.horn = false := by
    show (checkedAlarms _).horn = false
    rw [checkedAlarms_eq]
    rfl
  rw [linesOf, if_pos (show (released s).power = .running from rfl), enabled, brakes, alarms]
  simp [released, toldPorts, State.reset, orderPending, loadedBlocks, loadedSequencer]

/-- Settles O7: the blocks as loaded, with what the failed settings records change of the unit and of the marks
(`exec_settingsLoadEnd`). -/
theorem releaseTakesWorkingCopies : Obligations.ReleaseTakesWorkingCopies := by
  unfold Obligations.ReleaseTakesWorkingCopies
  refine ⟨fun s loading => ⟨_, exec_settingsLoadEnd loading, ?_⟩, fun s loading => ⟨_, exec_settingsLoadEnd loading, ?_⟩⟩
  · refine ⟨rfl, rfl, rfl, rfl, rfl, rfl, rfl, fun m => ?_, fun e => congrArg EncoderRecord.cal (released_encoder s e),
      fun a => congrArg AnalogRecord.cal (released_analog s a), rfl, rfl, rfl, rfl, rfl, rfl, rfl, rfl, rfl, fun m => ?_⟩
    · rw [settle_motion, released_motion]
      rfl
    · rw [settle_gate, released_brake]
      exact ⟨rfl, rfl⟩
  · refine ⟨rfl, rfl, rfl, rfl, rfl, fun m => ?_, fun m => released_brake s m, fun e => ?_, fun a => ?_, rfl, rfl, rfl, ?_,
      rfl, rfl, rfl, rfl, rfl, rfl, rfl, released_permit s, rfl, rfl, ?_, fun p => ?_, ⟨rfl, rfl, released_lines s⟩, rfl, rfl, rfl,
      rfl, rfl⟩
    · rw [settle_motion, released_motion, released_served]
      rfl
    · rw [settle_scanner, released_encoder]
      rfl
    · rw [settle_scanner, released_analog]
      rfl
    · rfl
    · exact checkedAlarms_eq _
    · cases p <;> rfl

end Sys2Proof.Machine
end

section
/-! The payloads of the requests and their reading (R188, R189). -/

namespace Sys2Proof.Machine

/-! ### Bytes of a list, one after another -/

@[simp] theorem byteAt_cons_succ (b : Byte) (p : List Byte) (i : Nat) : byteAt (b :: p) (i + 1) = byteAt p i := rfl

@[simp] theorem byteAt_cons_zero (b : Byte) (p : List Byte) : byteAt (b :: p) 0 = b := rfl

/-- The two bytes of a half read back. -/
theorem extract_append_half (x : Half) : x.extractLsb' 8 8 ++ x.extractLsb' 0 8 = x :=
  (BitVec.extractLsb'_append_extractLsb'_eq_extractLsb' (start₁ := 0) (len₁ := 8) (start₂ := 8) (len₂ := 8) rfl).trans
    BitVec.extractLsb'_eq_self

theorem extract_append_word (x : Word) :
    ((x.extractLsb' 24 8 ++ x.extractLsb' 16 8 : Half) ++ (x.extractLsb' 8 8 ++ x.extractLsb' 0 8 : Half) : Word) = x := by
  have high : x.extractLsb' 24 8 ++ x.extractLsb' 16 8 = x.extractLsb' 16 16 :=
    BitVec.extractLsb'_append_extractLsb'_eq_extractLsb' (start₁ := 16) (len₁ := 8) rfl
  have low : x.extractLsb' 8 8 ++ x.extractLsb' 0 8 = x.extractLsb' 0 16 :=
    BitVec.extractLsb'_append_extractLsb'_eq_extractLsb' (start₁ := 0) (len₁ := 8) rfl
  rw [high, low]
  exact (BitVec.extractLsb'_append_extractLsb'_eq_extractLsb' (start₁ := 0) (len₁ := 16) (start₂ := 16) (len₂ := 16)
    rfl).trans BitVec.extractLsb'_eq_self

theorem be16_append (a b : Byte) : be16 (a ++ b) = [a, b] := by
  rw [be16, BitVec.extractLsb'_append_eq_left, BitVec.extractLsb'_append_eq_right]

theorem be32_append (x y : Half) : be32 (x ++ y) = be16 x ++ be16 y := by
  have high (i : Nat) (within : 16 ≤ i) : (x ++ y).extractLsb' i 8 = x.extractLsb' (i - 16) 8 :=
    BitVec.extractLsb'_append_eq_of_le within
  have low (i : Nat) (within : i + 8 ≤ 16) : (x ++ y).extractLsb' i 8 = y.extractLsb' i 8 :=
    BitVec.extractLsb'_append_eq_of_add_le within
  rw [be32, high 24 (by decide), high 16 (by decide), low 8 (by decide), low 0 (by decide)]
  rfl

@[simp] theorem be16_halfAt (p : List Byte) (i : Nat) : be16 (halfAt p i) = [byteAt p i, byteAt p (i + 1)] :=
  be16_append ..

@[simp] theorem be32_wordAt (p : List Byte) (i : Nat) :
    be32 (wordAt p i) = [byteAt p i, byteAt p (i + 1), byteAt p (i + 2), byteAt p (i + 3)] := by
  rw [wordAt, be32_append, be16_halfAt, be16_halfAt]
  rfl

/-- The first bytes of a payload. -/
def firstBytes (p : List Byte) (n : Nat) : List Byte := (List.range n).map (byteAt p)

theorem firstBytes_all {p : List Byte} {n : Nat} (length : p.length = n) : firstBytes p n = p := by
  subst length
  refine List.ext_getElem (by simp [firstBytes]) fun i _ within => ?_
  simp [firstBytes, byteAt, List.getD_eq_getElem?_getD, List.getElem?_eq_getElem within]

/-! ### A request read back from its layout -/

theorem encoderOfNumber_named {n : Nat} (named : (encoderOfNumber n).isSome = true) : n ≤ 4 := by
  by_contra outside
  rw [encoderOfNumber_none (by omega)] at named
  cases named

theorem analogOfNumber_named {n : Nat} (named : (analogOfNumber n).isSome = true) : 5 ≤ n ∧ n ≤ 9 := by
  by_contra outside
  rw [analogOfNumber_none (by omega)] at named
  cases named

theorem parseEntry_layout (position : Byte) (entry : ZoneBody) (fits : lengthFits (.editZone position entry) = true) :
    parseEntry ((payloadOf (.editZone position entry)).drop 1) = entry := by
  cases entry with
  | misfit bytes => cases fits
  | _ => simp [parseEntry, payloadOf, boxAt, be16, halfAt, byteAt, extract_append_half, zoneEntryLength]

/-- An EDIT-ZONE whose entry is read with its length is read with the entry (R189). -/
theorem parseRequest_entry {p : List Byte} {entry : ZoneBody} (read : parseEntry (p.drop 1) = entry)
    (fits : lengthFits (.editZone (byteAt p 0) entry) = true) : parseRequest 0x12 p = .editZone (byteAt p 0) entry := by
  rw [List.drop_one] at read
  cases entry with
  | misfit bytes => cases fits
  | _ => simp [parseRequest, read]

theorem parseRequest_payloadOf (r : Request) (fits : lengthFits r = true) : parseRequest (kindOf r) (payloadOf r) = r := by
  cases r with
  | unknownKind k => cases fits
  | badLength k p => cases fits
  | writeCalibration channel body =>
    cases body with
    | encoder offset scale maxStep =>
      have named : channel.toNat ≤ 4 := encoderOfNumber_named fits
      simp [parseRequest, kindOf, payloadOf, be16, be32, halfAt, wordAt, extract_append_half, parseWriteSetting,
        groupOfCode, named]
      exact ⟨extract_append_word offset, extract_append_word scale⟩
    | analog offset gain low high =>
      obtain ⟨low', high'⟩ := analogOfNumber_named fits
      simp [parseRequest, kindOf, payloadOf, be16, halfAt, extract_append_half, parseWriteSetting, groupOfCode, high', Nat.not_le.2 low']
  | zeroChannel channel value => exact congrArg (Request.zeroChannel channel) (extract_append_word value)
  | editZone position entry =>
    have position_first : byteAt (payloadOf (.editZone position entry)) 0 = position := by cases entry <;> rfl
    have read := parseRequest_entry (parseEntry_layout position entry fits)
    rw [position_first] at read
    exact read fits
  | _ =>
    simp [parseRequest, kindOf, payloadOf, be16, halfAt, extract_append_half, parseWriteSetting, groupOfCode]

/-! ### A layout read -/

/-- A request, where it fits, is laid out in a kind and a payload. -/
def LaidOutIn (kind : Byte) (p : List Byte) (r : Request) : Prop :=
  lengthFits r = true → kindOf r = kind ∧ payloadOf r = p

/-- A layout of a fixed length: read where the payload has it, a bad length where not (R170). -/
theorem laidOut_fixed {kind : Byte} {p : List Byte} {n : Nat} {r : Request} (named : kindOf r = kind)
    (laid : payloadOf r = firstBytes p n) : LaidOutIn kind p (if p.length = n then r else .badLength kind p) := by
  intro fits
  by_cases length : p.length = n
  · rw [if_pos length]
    exact ⟨named, laid.trans (firstBytes_all length)⟩
  · rw [if_neg length] at fits
    cases fits

theorem laidOut_badLength (kind : Byte) (p : List Byte) (k : Byte) (q : List Byte) : LaidOutIn kind p (.badLength k q) :=
  fun fits => nomatch fits

/-- The byte that names a group of settings (R174). -/
def settingCode : SettingGroup → Byte
  | .profile => 0
  | .association => 1
  | .calibration => 2
  | .supplyBands => 3
  | .boomBands => 4
  | .currentTrip => 5
  | .sharing => 6
  | .walk => 7
  | .gate => 8
  | .sequencer => 9

theorem groupOfCode_settingCode {b : Byte} {g : SettingGroup} (named : groupOfCode b = some g) : settingCode g = b := by
  unfold groupOfCode at named
  split at named <;> cases named <;> exact (BitVec.eq_of_toNat_eq ‹_›).symm

theorem parseWriteSetting_laidOut (p : List Byte) : LaidOutIn 0x0D p (parseWriteSetting p) := by
  unfold parseWriteSetting
  dsimp only
  cases named : groupOfCode (byteAt p 0) with
  | none => exact laidOut_badLength _ _ _ _
  | some g =>
    have code := groupOfCode_settingCode named
    cases g with
    | calibration =>
      dsimp only
      split
      · exact laidOut_fixed rfl (by simp [payloadOf, firstBytes, List.range_succ, ← code, settingCode])
      · split
        · exact laidOut_fixed rfl (by simp [payloadOf, firstBytes, List.range_succ, ← code, settingCode])
        · exact laidOut_badLength _ _ _ _
    | _ => exact laidOut_fixed rfl (by simp [payloadOf, firstBytes, List.range_succ, ← code, settingCode])

theorem parseEntry_laidOut (position : Byte) (q : List Byte) (fits : lengthFits (.editZone position (parseEntry q)) = true) :
    payloadOf (.editZone position (parseEntry q)) = position :: q ∧ q ≠ [] := by
  unfold parseEntry at *
  split at fits
  case isFalse => cases fits
  case isTrue length =>
    rw [if_pos length]
    have entry (n : Nat) (r : ZoneBody) (is : zoneEntryLength (byteAt q 0) = some (n + 1))
        (laid : payloadOf (.editZone position r) = position :: firstBytes q (n + 1)) :
        payloadOf (.editZone position r) = position :: q ∧ q ≠ [] := by
      have count : q.length = n + 1 := Option.some.inj (length.symm.trans is)
      refine ⟨laid.trans (congrArg _ (firstBytes_all count)), fun none => ?_⟩
      simp [none] at count
    split
    case h_1 is =>
      have first : byteAt q 0 = 0 := BitVec.eq_of_toNat_eq is
      exact entry 0 _ (by rw [first]; rfl) (by simp [payloadOf, firstBytes, List.range_succ, first])
    case h_2 is =>
      have first : byteAt q 0 = 1 := BitVec.eq_of_toNat_eq is
      exact entry 20 _ (by rw [first]; rfl) (by simp [payloadOf, firstBytes, List.range_succ, first, boxAt])
    case h_3 is =>
      have first : byteAt q 0 = 2 := BitVec.eq_of_toNat_eq is
      exact entry 19 _ (by rw [first]; rfl) (by simp [payloadOf, firstBytes, List.range_succ, first, boxAt])
    case h_4 unused keepOut slow =>
      have first : byteAt q 0 = 3 := by
        unfold zoneEntryLength at length
        split at length
        · contradiction
        · contradiction
        · contradiction
        · next is => exact BitVec.eq_of_toNat_eq is
        · cases length
      exact entry 12 _ (by rw [first]; rfl) (by simp [payloadOf, firstBytes, List.range_succ, first, boxAt])

theorem parseRequest_laidOut (kind : Byte) (p : List Byte) : LaidOutIn kind p (parseRequest kind p) := by
  unfold parseRequest
  dsimp only
  have fixed {n code : Nat} {r : Request} (is : kind.toNat = code) (named : kindOf r = BitVec.ofNat 8 code)
      (laid : payloadOf r = firstBytes p n) : LaidOutIn kind p (if p.length = n then r else .badLength kind p) :=
    laidOut_fixed (named.trans (by rw [← is, BitVec.ofNat_toNat, BitVec.setWidth_eq])) laid
  split
  case h_2 is => exact fixed is rfl (by simp [payloadOf, firstBytes, List.range_succ])
  case h_13 is =>
    obtain rfl : kind = 0x0D := BitVec.eq_of_toNat_eq is
    exact parseWriteSetting_laidOut p
  case h_14 is => exact fixed is rfl (by simp [payloadOf, firstBytes, List.range_succ])
  case h_18 is =>
    obtain rfl : kind = 0x12 := BitVec.eq_of_toNat_eq is
    have entry (fits : lengthFits (.editZone (byteAt p 0) (parseEntry (p.drop 1))) = true) :
        kindOf (.editZone (byteAt p 0) (parseEntry (p.drop 1))) = 0x12 ∧
          payloadOf (.editZone (byteAt p 0) (parseEntry (p.drop 1))) = p := by
      obtain ⟨laid, some'⟩ := parseEntry_laidOut (byteAt p 0) (p.drop 1) fits
      refine ⟨rfl, laid.trans ?_⟩
      cases p with
      | nil => exact absurd rfl some'
      | cons b rest => rfl
    split
    · exact laidOut_badLength _ _ _ _
    · exact entry
  case h_22 => exact fun fits => nomatch fits
  all_goals exact fixed ‹_› rfl rfl

/-- Settles O52: what is laid out is read (`parseRequest_payloadOf`), and what is read is laid out so
(`parseRequest_laidOut`). -/
theorem payloadsReadBack : Obligations.PayloadsReadBack := by
  unfold Obligations.PayloadsReadBack
  exact ⟨parseRequest_payloadOf, parseRequest_laidOut⟩

end Sys2Proof.Machine
end

section
/-! A frame's characters and its request's command (R166 to R170). -/

namespace Sys2Proof.Machine

/-! ### A coherent state is settled -/

/-- The lines of two states are the same where each is on for the same states of the rest. -/
theorem Lines.eq_of_on_iff {l l' : Lines} (brake : ∀ m, l.brake.get m = true ↔ l'.brake.get m = true)
    (runEnable : ∀ m, l.runEnable.get m = true ↔ l'.runEnable.get m = true) (horn : l.horn = true ↔ l'.horn = true)
    (a : l.attention.a = true ↔ l'.attention.a = true) (b : l.attention.b = true ↔ l'.attention.b = true)
    (c : l.attention.c = true ↔ l'.attention.c = true) : l = l' := by
  obtain ⟨brakes, enables, ⟨attA, attB, attC⟩, horns⟩ := l
  obtain ⟨brakes', enables', ⟨attA', attB', attC'⟩, horns'⟩ := l'
  obtain rfl : brakes = brakes' := PerMotion.ext_get fun m => Bool.eq_iff_iff.2 (brake m)
  obtain rfl : enables = enables' := PerMotion.ext_get fun m => Bool.eq_iff_iff.2 (runEnable m)
  obtain rfl : attA = attA' := Bool.eq_iff_iff.2 a
  obtain rfl : attB = attB' := Bool.eq_iff_iff.2 b
  obtain rfl : attC = attC' := Bool.eq_iff_iff.2 c
  obtain rfl : horns = horns' := Bool.eq_iff_iff.2 horn
  rfl

/-- Settling a running state whose formed parts are as they are formed leaves it. -/
theorem Coherent.settled {s : State} (h : Coherent s) (running : s.power = .running) : settle s = s := by
  obtain ⟨served, permit, follow, -⟩ := h
  have motions : (s.shaper.motions.map fun m r => { r with inService := inService s m }) = s.shaper.motions :=
    PerMotion.ext_get fun m => by
      rw [PerMotion.get_map, show inService s m = (s.shaper.motions.get m).inService from
        Bool.eq_iff_iff.2 ((inService_iff s m).trans (served m).symm)]
  have permits : walkPermitOk s = s.sequencer.walkPermit :=
    Bool.eq_iff_iff.2 ((walkPermitOk_iff s).trans permit.symm)
  have lines : linesOf s = s.lines := by
    obtain ⟨brake, enable, horn, a, b, c⟩ := follow running
    obtain ⟨brake', enable', horn', a', b', c'⟩ := (settle_coherent s).2.2.1 running
    refine Lines.eq_of_on_iff (fun m => (brake' m).trans (brake m).symm) (fun m => ?_) (horn'.trans horn.symm)
      (a'.trans a.symm) (b'.trans b.symm) (c'.trans c.symm)
    have formed := enable' m
    rw [settle_motion] at formed
    exact formed.trans (enable m).symm
  unfold settle
  rw [motions, permits, lines]

/-! ### Characters received, one after another (R167) -/

/-- The state with a frame in progress at a port. -/
def State.receiving (s : State) (p : Port) (f : Frame) : State :=
  s.withLink p { s.ports.links.get p with frame := some f }

theorem completeFrame_receiving {s : State} {p : Port} (hunting : (s.ports.links.get p).frame = none) (f : Frame) (r : Request) :
    completeFrame p r (s.receiving p f) = completeFrame p r s ∧ dropFrame p (s.receiving p f) = s := by
  have dropped : dropFrame p (s.receiving p f) = dropFrame p s := by
    simp [dropFrame, State.receiving, State.withLink, State.withPorts]
  have stands : dropFrame p s = s := by
    have link : { s.ports.links.get p with frame := none } = s.ports.links.get p := by rw [← hunting]
    rw [dropFrame, link, State.withLink, PerPort.set_get_self]
    rfl
  have held : ((s.receiving p f).ports.links.get p).held = (s.ports.links.get p).held := by simp [State.receiving]
  exact ⟨by rw [completeFrame, completeFrame, dropped, held], dropped.trans stands⟩

theorem receiveCharacter_completes {p : Port} {s : State} {f : Frame} {b kind length : Byte} {payload : List Byte}
    {check : Half} (receiving : (s.ports.links.get p).frame = some f)
    (goes : assemble f b = .completes kind length payload check) :
    receiveCharacter p b s = if frameCheck kind length payload = check then
      completeFrame p (parseRequest kind payload) s else dropFrame p s := by
  simp only [receiveCharacter, receiving, goes]

section
variable {s : State} {p : Port} (running : s.power = .running) (coherent : Coherent s)
include running coherent

theorem settle_receiving (f : Frame) : settle (s.receiving p f) = s.receiving p f :=
  congrArg (fun t : State => t.receiving p f) (coherent.settled running)

theorem receiveAll_continues {f g : Frame} {b : Byte} (goes : assemble f b = .continues g) (rest : List Byte) :
    receiveAll p (b :: rest) (s.receiving p f) = receiveAll p rest (s.receiving p g) := by
  have link : ((s.receiving p f).ports.links.get p).frame = some f := by simp [State.receiving]
  have received : exec (.characterReceived p b) (s.receiving p f) = .next (s.receiving p g) := by
    have step := receiveCharacter_continues link goes
    have again : (s.receiving p f).withLink p { (s.receiving p f).ports.links.get p with frame := some g } =
        s.receiving p g := by simp [State.receiving, State.withLink, State.withPorts]
    show runningEvent (receiveCharacter p b) _ = _
    rw [runningEvent_running (show (s.receiving p f).power = .running from running), step, again,
      settle_receiving running coherent]
  rw [receiveAll, received]

/-- The bytes of a payload follow one another up to its length. -/
theorem receiveAll_payload {k n : Byte} (payload before rest : List Byte)
    (room : before.length + payload.length = n.toNat) :
    receiveAll p (payload ++ rest) (s.receiving p ⟨some k, some n, before, none⟩) =
      receiveAll p rest (s.receiving p ⟨some k, some n, before ++ payload, none⟩) := by
  induction payload generalizing before with
  | nil => rw [List.append_nil, List.nil_append]
  | cons b payload ih =>
    rw [List.length_cons] at room
    rw [List.cons_append, receiveAll_continues running coherent (g := ⟨some k, some n, before ++ [b], none⟩)
      (by simp [assemble, show before.length < n.toNat by omega]), ih _ (by simp; omega), List.append_assoc]
    rfl

/-- A whole frame: its request is taken where its check word is right, and nothing changes where it is not (R168). -/
theorem receiveAll_frame (hunting : (s.ports.links.get p).frame = none) (kind : Byte) {payload : List Byte}
    (short : payload.length ≤ 96) (check : Half) :
    receiveAll p (frameCharacters kind payload check) s =
      .next (if frameCheck kind (nat8 payload.length) payload = check then
        settle (completeFrame p (parseRequest kind payload) s) else s) := by
  have length : (nat8 payload.length).toNat = payload.length := by
    simp only [nat8, BitVec.toNat_ofNat]
    omega
  have started : exec (.characterReceived p 0xA5) s = .next (s.receiving p startedFrame) := by
    show runningEvent (receiveCharacter p 0xA5) s = _
    rw [runningEvent_running running, receiveCharacter_hunting hunting,
      if_pos (show (0xA5 : Byte) = Config.startByte from rfl)]
    exact congrArg _ (settle_receiving running coherent startedFrame)
  let whole : Frame := ⟨some kind, some (nat8 payload.length), payload, some (check.extractLsb' 8 8)⟩
  have last : exec (.characterReceived p (check.extractLsb' 0 8)) (s.receiving p whole) =
      .next (if frameCheck kind (nat8 payload.length) payload = check then
        settle (completeFrame p (parseRequest kind payload) s) else s) := by
    obtain ⟨completed, dropped⟩ := completeFrame_receiving hunting whole (parseRequest kind payload)
    have link : ((s.receiving p whole).ports.links.get p).frame = some whole := by simp [State.receiving]
    have goes : assemble whole (check.extractLsb' 0 8) = .completes kind (nat8 payload.length) payload check := by
      simp [assemble, whole, length, extract_append_half]
    show runningEvent (receiveCharacter p _) (s.receiving p whole) = _
    rw [runningEvent_running (show (s.receiving p whole).power = .running from running), receiveCharacter_completes link goes]
    split
    · rw [completed]
    · rw [dropped, coherent.settled running]
  simp only [frameCharacters, List.cons_append]
  rw [receiveAll, show exec (.characterReceived p Config.startByte) s = _ from started]
  dsimp only
  rw [receiveAll_continues running coherent (g := ⟨some kind, none, [], none⟩) rfl,
    receiveAll_continues running coherent (g := ⟨some kind, some (nat8 payload.length), [], none⟩)
      (by simp [assemble, length, Config.maxPayload, short]),
    receiveAll_payload running coherent payload [] (be16 check) (by simp [length]), be16,
    receiveAll_continues running coherent
      (g := whole) (by simp [assemble, length, whole]),
    receiveAll, last]
  rfl

end

/-! ### What is read of a frame (R170) -/

/-- A request that fits has a payload that a frame holds (R166). -/
theorem payloadOf_short {r : Request} (fits : lengthFits r = true) : (payloadOf r).length ≤ 96 := by
  cases r with
  | unknownKind k => cases fits
  | badLength k q => cases fits
  | writeCalibration channel body => cases body <;> simp [payloadOf, be16, be32]
  | editZone position entry =>
    cases entry with
    | misfit bytes => cases fits
    | _ => simp [payloadOf, be16]
  | _ => simp [payloadOf, be16, be32]

theorem parseRequest_unknown {kind : Byte} (outside : isRequestKind kind = false) (payload : List Byte) :
    parseRequest kind payload = .unknownKind kind := by
  have beyond : kind.toNat = 0 ∨ 0x15 < kind.toNat := by
    rw [isRequestKind, Bool.and_eq_false_iff, decide_eq_false_iff_not, decide_eq_false_iff_not] at outside
    omega
  unfold parseRequest
  dsimp only
  split
  case h_22 => rfl
  all_goals omega

/-- A kind of the catalogue is read as a request that fits, or as a bad length. -/
def FitsOrBad (kind : Byte) (p : List Byte) (r : Request) : Prop := lengthFits r = true ∨ r = .badLength kind p

theorem fitsOrBad_fixed {kind : Byte} {p : List Byte} {n : Nat} {r : Request} (fits : lengthFits r = true) :
    FitsOrBad kind p (if p.length = n then r else .badLength kind p) := by
  split
  · exact .inl fits
  · exact .inr rfl

theorem parseWriteSetting_fitsOrBad (p : List Byte) : FitsOrBad 0x0D p (parseWriteSetting p) := by
  unfold parseWriteSetting
  dsimp only
  cases groupOfCode (byteAt p 0) with
  | none => exact .inr rfl
  | some g =>
    cases g with
    | calibration =>
      dsimp only
      split
      · next encoder => exact fitsOrBad_fixed (encoderOfNumber_isSome encoder)
      · next beyond =>
        split
        · next analog => exact fitsOrBad_fixed (analogOfNumber_isSome (Nat.not_le.1 beyond) analog)
        · exact .inr rfl
    | _ => exact fitsOrBad_fixed rfl

theorem editZone_fits {position : Byte} {entry : ZoneBody} (named : ∀ bytes, entry = .misfit bytes → False) :
    lengthFits (.editZone position entry) = true := by
  cases entry with
  | misfit bytes => exact (named bytes rfl).elim
  | _ => rfl

theorem parseRequest_fitsOrBad {kind : Byte} (known : isRequestKind kind = true) (p : List Byte) :
    FitsOrBad kind p (parseRequest kind p) := by
  obtain ⟨low, high⟩ : 1 ≤ kind.toNat ∧ kind.toNat ≤ 0x15 := by
    rw [isRequestKind, Bool.and_eq_true, decide_eq_true_eq, decide_eq_true_eq] at known
    exact known
  unfold parseRequest
  dsimp only
  split
  case h_13 is =>
    obtain rfl : kind = 0x0D := BitVec.eq_of_toNat_eq is
    exact parseWriteSetting_fitsOrBad p
  case h_18 is =>
    split
    · exact .inr rfl
    · next named => exact .inl (editZone_fits named)
  case h_22 =>
    simp only [imp_false] at *
    omega
  all_goals exact fitsOrBad_fixed rfl

/-- The catalogue gives a port exactly the kinds of its row. -/
theorem kindAllowed_kindsOf {kind : Byte} (known : isRequestKind kind = true) (p : Port) :
    kindAllowed kind p = some (decide (kind ∈ kindsOf p)) := by
  revert known kind
  cases p <;> decide

theorem judgeRequest_badLength {kind : Byte} (known : isRequestKind kind = true) (p : Port) (payload : List Byte) (s : State) :
    judgeRequest p (.badLength kind payload) s =
      refuse (if kind ∈ kindsOf p then .badArgument else .notPermitted) s := by
  rw [judgeRequest, show kindOf (.badLength kind payload) = kind from rfl, kindAllowed_kindsOf known p]
  by_cases row : kind ∈ kindsOf p
  · simp [row, lengthFits]
  · simp [row]

/-- Settles O53: the characters of a frame complete it (`receiveAll_frame`), and what is read of it is the request laid out
(`parseRequest_payloadOf`), an unknown kind, or a bad length (`parseRequest_fitsOrBad`). -/
theorem framesDeliverRequests : Obligations.FramesDeliverRequests := by
  unfold Obligations.FramesDeliverRequests
  intro s p running coherent hunting
  have right (kind : Byte) (payload : List Byte) (short : payload.length ≤ 96) :
      receiveAll p (frameCharacters kind payload (frameCheck kind (nat8 payload.length) payload)) s =
        .next (settle (completeFrame p (parseRequest kind payload) s)) := by
    rw [receiveAll_frame running coherent hunting kind short, if_pos rfl]
  refine ⟨fun c r asked fits => ?_, fun kind payload outside short => ?_, fun kind payload free known short others => ?_,
    fun kind payload check short wrong => ?_⟩
  · rw [right _ _ (payloadOf_short fits), parseRequest_payloadOf r fits, exec_request asked, runningEvent_running running]
  · rw [right _ _ short, parseRequest_unknown outside,
      exec_request (c := .unknownKindRequest p kind) (p := p) (r := .unknownKind kind) rfl, runningEvent_running running]
  · have bad : parseRequest kind payload = .badLength kind payload := by
      refine (parseRequest_fitsOrBad known payload).resolve_left fun fits => ?_
      obtain ⟨code, laid⟩ := parseRequest_laidOut kind payload fits
      exact others _ fits code laid
    rw [right _ _ short, bad, completeFrame_free free.2, judgeRequest_badLength known]
    rfl
  · rw [receiveAll_frame running coherent hunting kind short, if_neg (Ne.symm wrong)]

end Sys2Proof.Machine
end

section
/-! The value codes, and the layouts of the records a response carries (R172, R174, R188 to R190). -/

namespace Sys2Proof.Machine

/-! ### The value codes (R188) -/

/-- A list holds every value, and their codes are 0, 1, … along it. -/
theorem lists_of_map {α : Type} {values : List α} {code : α → Nat} (all : ∀ v, v ∈ values)
    (places : values.map code = List.range values.length) : Lists values code := by
  refine ⟨all, fun i v found => ?_⟩
  obtain ⟨within, rfl⟩ := List.getElem?_eq_some_iff.1 found
  have place := congrArg (·[i]?) places
  simp only [List.getElem?_map, List.getElem?_eq_getElem within, Option.map_some, List.getElem?_range within] at place
  exact Option.some.inj place

theorem AlarmCode.mem_listed (c : AlarmCode) : c ∈ AlarmCode.listed := by cases c <;> decide

theorem Source.mem_listed (x : Source) : x ∈ Source.listed := by
  cases x with
  | motion m => cases m <;> decide
  | group g => cases g <;> decide
  | encoder e => cases e <;> decide
  | analog a => cases a <;> decide
  | _ => decide

theorem SettingsRecord.mem_all (r : SettingsRecord) : r ∈ SettingsRecord.all := by
  cases r with
  | calEncoder e => cases e <;> decide
  | calAnalog a => cases a <;> decide
  | _ => decide

/-- A zone's position is its own code. -/
theorem detailCode_zone {n : Nat} (position : n ≤ 23) : (detailCode (some (.zone n))).toNat = n := by
  show (nat8 n).toNat = n
  rw [nat8, BitVec.toNat_ofNat]
  omega

theorem detailCode_records : Lists SettingsRecord.all fun r => (detailCode (some (.record r))).toNat - 0x50 :=
  lists_of_map SettingsRecord.mem_all rfl

theorem detailCode_record_least (r : SettingsRecord) : 0x50 ≤ (detailCode (some (.record r))).toNat := by
  cases r with
  | calEncoder e => cases e <;> decide
  | calAnalog a => cases a <;> decide
  | _ => decide

/-- Each list holds every value of its field, and a byte is read by its place in the list. -/
theorem valueCodes : ValueCodes where
  mode := ⟨rfl, rfl, rfl, fun _ _ => rfl, fun _ => rfl⟩
  settled := ⟨lists_of_map (fun v => by cases v <;> decide) rfl, by unfold Reads; decide⟩
  destination m := by cases m <;> rfl
  arrangement := lists_of_map (fun v => by cases v <;> decide) rfl
  orderKind := ⟨lists_of_map (fun v => by cases v <;> decide) rfl, rfl⟩
  orderState := lists_of_map (fun v => by cases v <;> decide) rfl
  flag := lists_of_map (fun v => by cases v <;> decide) rfl
  supply := lists_of_map (fun v => by cases v <;> decide) rfl
  boom := lists_of_map (fun v => by cases v <;> decide) rfl
  condition := lists_of_map (fun v => by cases v <;> decide) rfl
  edit := lists_of_map (fun v => by cases v <;> decide) rfl
  brake := lists_of_map (fun v => by cases v <;> decide) rfl
  freshness := lists_of_map (fun v => by cases v <;> decide) rfl
  readiness := by unfold Reads; decide
  result := by unfold Reads; decide
  mark := by unfold Reads; decide
  profile := ⟨lists_of_map (fun v => by cases v <;> decide) rfl, by unfold Reads; decide⟩
  port := lists_of_map (fun v => by cases v <;> decide) rfl
  motion := ⟨lists_of_map (fun v => by cases v <;> decide) rfl, by unfold Reads; decide⟩
  encoderState := lists_of_map (fun v => by cases v <;> decide) rfl
  analogState := ⟨rfl, rfl, rfl⟩
  alarmState := lists_of_map (fun v => by cases v <;> decide) rfl
  alarmClass := lists_of_map (fun v => by cases v <;> decide) rfl
  alarmCode := ⟨lists_of_map AlarmCode.mem_listed rfl, by unfold Reads; decide⟩
  source := ⟨lists_of_map Source.mem_listed rfl, by unfold Reads; decide⟩
  zoneKind := ⟨rfl, fun _ _ => rfl, fun _ _ => rfl, fun _ => rfl⟩
  group := by unfold Reads; decide
  detail := ⟨fun _ => detailCode_zone, rfl, rfl, rfl, rfl, rfl, rfl, rfl, rfl, rfl, SettingsRecord.mem_all,
    fun i r found => by
      have place : (detailCode (some (.record r))).toNat - 0x50 = i := detailCode_records.2 i r found
      have least := detailCode_record_least r
      omega, rfl, rfl⟩
  resultCodes := lists_of_map (fun v => by cases v <;> decide) rfl

/-- What is listed under its code is read back by it. -/
theorem reads_code {α : Type} {values : List α} {code : α → Byte} {read : Byte → Option α}
    (lists : Lists values fun v => (code v).toNat) (reads : Reads values read) (v : α) : read (code v) = some v := by
  obtain ⟨i, place⟩ := List.mem_iff_getElem?.1 (lists.1 v)
  have listed : (code v).toNat = i := lists.2 i v place
  rw [reads, listed, place]

theorem codesReadBack : CodesReadBack :=
  ⟨reads_code valueCodes.alarmCode.1 valueCodes.alarmCode.2, reads_code valueCodes.source.1 valueCodes.source.2,
    reads_code valueCodes.settled.1 valueCodes.settled.2, reads_code valueCodes.profile.1 valueCodes.profile.2,
    reads_code valueCodes.motion.1 valueCodes.motion.2, reads_code valueCodes.flag valueCodes.mark⟩

/-! ### Bits and stamps of a byte -/

/-- A bit of a number in one byte, by its place in the number. -/
theorem nat8_bit {n i : Nat} {b : Bool} (low : i < 8) (bit : n / 2 ^ i % 2 = b.toNat) : (nat8 n).getLsbD i = b := by
  rw [nat8, BitVec.getLsbD_ofNat, decide_eq_true low, Bool.true_and, Nat.testBit_eq_decide_div_mod_eq, bit]
  cases b <;> rfl

theorem motionByte_toNat (x : PerMotion Bool) :
    (motionByte x).toNat = x.hoist.toNat + 2 * x.drag.toNat + 4 * x.swing.toNat + 8 * x.walk.toNat := by
  obtain ⟨hoist, drag, swing, walk⟩ := x
  revert hoist drag swing walk
  decide

/-- The bits of a motion's place, above which `n` says anything. -/
theorem motionByte_above (x : PerMotion Bool) (n : Nat) (m : Motion) :
    (nat8 ((motionByte x).toNat + 16 * n)).getLsbD (motionCode m).toNat = x.get m := by
  rw [motionByte_toNat]
  have hoist := Bool.toNat_le x.hoist
  have drag := Bool.toNat_le x.drag
  have swing := Bool.toNat_le x.swing
  have walk := Bool.toNat_le x.walk
  cases m with
  | hoist => exact nat8_bit (i := 0) (by decide) (by show _ = x.hoist.toNat; omega)
  | drag => exact nat8_bit (i := 1) (by decide) (by show _ = x.drag.toNat; omega)
  | swing => exact nat8_bit (i := 2) (by decide) (by show _ = x.swing.toNat; omega)
  | walk => exact nat8_bit (i := 3) (by decide) (by show _ = x.walk.toNat; omega)

theorem motionByte_bit (x : PerMotion Bool) (m : Motion) : (motionByte x).getLsbD (motionCode m).toNat = x.get m := by
  have above := motionByte_above x 0 m
  rwa [Nat.mul_zero, Nat.add_zero, nat8, BitVec.ofNat_toNat, BitVec.setWidth_eq] at above

/-- Two flags in one byte. -/
theorem twoFlags_bits (a b : Bool) :
    let byte := nat8 ((if a then 1 else 0) + (if b then 2 else 0))
    byte.getLsbD 0 = a ∧ byte.getLsbD 1 = b ∧
      byte.toNat = (if a = true then 1 else 0) + (if b = true then 2 else 0) := by
  revert a b
  decide

theorem marksByte_toNat (m : Marks) : (marksByte m).toNat = (if m.below = true then 1 else 0) +
    (if m.above = true then 2 else 0) + (if m.faultSeen = true then 4 else 0) := by
  obtain ⟨below, above, faultSeen⟩ := m
  revert below above faultSeen
  decide

/-- The byte of an entry's motions, class and state (R190). -/
theorem entryFlags_reads (x : PerMotion Bool) (cls : AlarmClass) (st : AlarmState) :
    let byte := nat8 ((motionByte x).toNat + 16 * alarmClassCode cls + 64 * alarmStateCode st)
    (∀ m, byte.getLsbD (motionCode m).toNat = x.get m) ∧ byte.toNat / 16 % 4 = alarmClassCode cls ∧
      byte.toNat / 64 = alarmStateCode st := by
  have class_le : alarmClassCode cls ≤ 3 := by cases cls <;> decide
  have state_le : alarmStateCode st ≤ 2 := by cases st <;> decide
  have motions := motionByte_toNat x
  have hoist := Bool.toNat_le x.hoist
  have drag := Bool.toNat_le x.drag
  have swing := Bool.toNat_le x.swing
  have walk := Bool.toNat_le x.walk
  have value : (nat8 ((motionByte x).toNat + 16 * alarmClassCode cls + 64 * alarmStateCode st)).toNat =
      (motionByte x).toNat + 16 * alarmClassCode cls + 64 * alarmStateCode st := by
    rw [nat8, BitVec.toNat_ofNat]
    omega
  refine ⟨fun m => ?_, ?_, ?_⟩
  · have above := motionByte_above x (alarmClassCode cls + 4 * alarmStateCode st) m
    rwa [show 16 * (alarmClassCode cls + 4 * alarmStateCode st) = 16 * alarmClassCode cls + 64 * alarmStateCode st by omega,
      ← Nat.add_assoc] at above
  · rw [value]
    omega
  · rw [value]
    omega

/-- A stamp's three bytes are the number sent (R190). -/
theorem stampBytes_reads (n : Nat) : ∃ a b c : Byte, stampBytes n = [a, b, c] ∧
    ((0 : Byte) ++ a ++ (b ++ c : Half)).toNat = min n 0xFFFFFF := by
  let sent : Word := BitVec.ofNat 32 (min n 0xFFFFFF)
  have value : sent.toNat = min n 0xFFFFFF := by
    simp only [sent, BitVec.toNat_ofNat]
    omega
  have top : sent.extractLsb' 24 8 = 0 := by
    refine BitVec.eq_of_toNat_eq ?_
    rw [BitVec.extractLsb'_toNat, value, Nat.shiftRight_eq_div_pow]
    show _ = 0
    omega
  refine ⟨_, _, _, rfl, ?_⟩
  rw [← top]
  exact (congrArg BitVec.toNat (extract_append_word sent)).trans value

/-! ### The queue's part of the status record (R173) -/

/-- The bytes of the entry at the head of the queue, FFh where it is empty. -/
def headBytes (head : Option QueueEntry) : Byte × Byte :=
  head.elim (absent, absent) fun e => (settledCode e.request, portCode e.port)

theorem queueStatus_eq (q : List QueueEntry) :
    queueStatus q = [nat8 q.length, (headBytes q.head?).1, (headBytes q.head?).2] := by cases q <;> rfl

/-! ### The alarm data (R190) -/

theorem entryBytes_length (e : AlarmEntry) : (entryBytes e).length = 11 := rfl

theorem flatten_entries_length (l : List AlarmEntry) : (l.map entryBytes).flatten.length = 11 * l.length := by
  simp [List.length_flatten, Function.comp_def, entryBytes_length, Nat.mul_comm]

/-- Entries of one length stand at its multiples. -/
theorem flatten_entries_get {l : List AlarmEntry} {i : Nat} {e : AlarmEntry} (held : l[i]? = some e) :
    ((l.map entryBytes).flatten.drop (11 * i)).take 11 = entryBytes e := by
  induction l generalizing i with
  | nil => simp at held
  | cons x l ih =>
    rw [List.map_cons, List.flatten_cons]
    cases i with
    | zero =>
      obtain rfl : x = e := by simpa using held
      exact List.take_left' (entryBytes_length x)
    | succ i =>
      rw [Nat.mul_succ, Nat.add_comm, ← List.drop_drop, List.drop_left' (entryBytes_length x)]
      exact ih (by simpa using held)

/-! ### Settings bodies and zone entries (R189) -/

theorem nat16_toNat (x : Half) : nat16 x.toNat = be16 x := by rw [nat16, BitVec.ofNat_toNat, BitVec.setWidth_eq]

theorem profileOfCode_profileCode {b : Byte} {n : ProfileName} (named : profileOfCode b = some n) : profileCode n = b := by
  unfold profileOfCode at named
  split at named <;> cases named <;> exact (BitVec.eq_of_toNat_eq ‹_›).symm

theorem encoderNumber_encoderOfNumber {n : Nat} {e : EncoderId} (named : encoderOfNumber n = some e) :
    encoderNumber e = n := by
  unfold encoderOfNumber at named
  split at named <;> cases named <;> rfl

theorem analogNumber_analogOfNumber {n : Nat} {a : AnalogId} (named : analogOfNumber n = some a) : analogNumber a = n := by
  unfold analogOfNumber at named
  split at named <;> cases named <;> rfl

theorem nat8_toNat (b : Byte) : nat8 b.toNat = b := by rw [nat8, BitVec.ofNat_toNat, BitVec.setWidth_eq]

/-- The shed order in four bytes. -/
theorem shedBytes_eq (l : List Motion) : shedBytes l =
    let shed (i : Nat) : Byte := (l[i]?.map motionCode).getD 0xFF
    [shed 0, shed 1, shed 2, shed 3] := by
  match l with
  | [] | [_] | [_, _] | [_, _, _] | _ :: _ :: _ :: _ :: _ => rfl

theorem presenceBit_eq {α : Type} (x : Option α) (n : Nat) : presenceBit x n = n * x.isSome.toNat := by
  cases x <;> simp [presenceBit]

/-- A presence byte is that of the bits given (R189). -/
theorem presence_eq {presence : Byte} {b0 b1 b2 b3 b4 b5 b6 : Bool} (h0 : presence.getLsbD 0 = b0)
    (h1 : presence.getLsbD 1 = b1) (h2 : presence.getLsbD 2 = b2) (h3 : presence.getLsbD 3 = b3)
    (h4 : presence.getLsbD 4 = b4) (h5 : presence.getLsbD 5 = b5) (h6 : presence.getLsbD 6 = b6)
    (h7 : presence.getLsbD 7 = false) :
    nat8 (1 * b0.toNat + 2 * b1.toNat + 4 * b2.toNat + 8 * b3.toNat + 16 * b4.toNat + 32 * b5.toNat + 64 * b6.toNat) =
      presence := by
  subst h0 h1 h2 h3 h4 h5 h6
  revert presence
  decide

theorem profileBytes_eq {which presence : Byte} {n : ProfileName} {p : PartialProfile} (named : profileOfCode which = some n)
    (shape : presence.getLsbD 0 = p.accel.isSome ∧ presence.getLsbD 1 = p.decel.isSome ∧
      presence.getLsbD 2 = p.ceiling.isSome ∧ presence.getLsbD 3 = p.creep.isSome ∧
      presence.getLsbD 4 = p.dwell.isSome ∧ presence.getLsbD 5 = p.releaseDelay.isSome ∧
      presence.getLsbD 6 = p.idleSet.isSome ∧ presence.getLsbD 7 = false) :
    profileBytes n p = (payloadOf (.writeProfile which presence
      ⟨.ofNat 16 (p.accel.getD 0), .ofNat 16 (p.decel.getD 0), .ofNat 16 (p.ceiling.getD 0), .ofNat 16 (p.creep.getD 0),
        .ofNat 16 (p.dwell.getD 0), .ofNat 16 (p.releaseDelay.getD 0), .ofNat 16 (p.idleSet.getD 0)⟩)).drop 1 := by
  obtain ⟨accel, decel, ceiling, creep, dwell, releaseDelay, idleSet, reserved⟩ := shape
  have presences := presence_eq accel decel ceiling creep dwell releaseDelay idleSet reserved
  simp only [profileBytes, profileOfCode_profileCode named, presenceBit_eq, presences]
  rfl

theorem settingBytes_encoder (s : State) {which : Byte} {e : EncoderId} (named : encoderOfNumber which.toNat = some e) :
    let c := (s.scanner.encoders.get e).cal
    settingBytes s .calibration which = some ((payloadOf
      (.writeCalibration which (.encoder c.offset (.ofNat 32 c.scale) (.ofNat 16 c.maxStep)))).drop 1) := by
  have code : nat8 (encoderNumber e) = which := by rw [encoderNumber_encoderOfNumber named, nat8_toNat]
  simp only [settingBytes, named, encoderCalBytes, code]
  rfl

theorem settingBytes_analog (s : State) {which : Byte} {a : AnalogId} (named : analogOfNumber which.toNat = some a) :
    let c := (s.scanner.analogs.get a).cal
    settingBytes s .calibration which = some ((payloadOf (.writeCalibration which
      (.analog (.ofNat 16 c.offset) (.ofNat 16 c.gain) (.ofNat 16 c.low) (.ofNat 16 c.high)))).drop 1) := by
  have code : nat8 (analogNumber a) = which := by rw [analogNumber_analogOfNumber named, nat8_toNat]
  have beyond : encoderOfNumber which.toNat = none := encoderOfNumber_none <| by
    have range := analogOfNumber_named (by rw [named]; rfl)
    omega
  simp only [settingBytes, beyond, named, Option.map_some, analogCalBytes, code]
  rfl

theorem pendingCode_eq (n : Option ProfileName) : pendingCode n = (n.map profileCode).getD 0xFF := by cases n <;> rfl

theorem associationBytes_eq (motions : PerMotion MotionRecord) : associationBytes motions =
    (payloadOf (.writeAssociation (motions.map fun _ r => profileCode r.association))).drop 1 ++
      (payloadOf (.writeAssociation (motions.map fun _ r => (r.pendingAssociation.map profileCode).getD 0xFF))).drop 1 := by
  simp only [associationBytes, pendingCode_eq]
  rfl

theorem sharingBytes_eq (b : Budgets) (w : PerMotion Nat) (l : List Motion) : sharingBytes b w l =
    let shed (i : Nat) : Byte := (l[i]?.map motionCode).getD 0xFF
    (payloadOf (.writeSharing ⟨.ofNat 16 b.normal, .ofNat 16 b.low, .ofNat 16 b.sag, w.map fun _ n => .ofNat 16 n,
      nat8 l.length, shed 0, shed 1, shed 2, shed 3⟩)).drop 1 := by
  rw [sharingBytes, shedBytes_eq]
  rfl

theorem boxBytes_map (b : ZoneBox Half) : boxBytes (b.map BitVec.toNat) =
    be16 b.sectorFrom ++ be16 b.sectorTo ++ be16 b.hoistLo ++ be16 b.hoistHi ++ be16 b.dragLo ++ be16 b.dragHi := by
  simp only [boxBytes, ZoneBox.map, nat16_toNat]

/-- An absent cap is laid out as 0 (R189). -/
theorem nat16_cap {present : Bool} {x : Half} (absent : present = false → x = 0) :
    nat16 ((if present then some x.toNat else none).getD 0) = be16 x := by
  cases present with
  | true => exact nat16_toNat x
  | false =>
    rw [absent rfl]
    rfl

theorem presenceBit_if (present : Bool) (x n : Nat) :
    presenceBit (if present then some x else none) n = n * present.toNat := by
  cases present <;> simp [presenceBit]

/-- A presence byte of three bits is that of the caps given (R189). -/
theorem capPresence_eq {presence : Byte} (short : presence.toNat < 8) :
    nat8 (1 * (presence.getLsbD 0).toNat + 2 * (presence.getLsbD 1).toNat + 4 * (presence.getLsbD 2).toNat) = presence := by
  revert presence
  decide

/-- A zone entry is shown as the EDIT-ZONE that would carry it lays it out (R49, R189). -/
theorem zoneBytes_eq (which : Byte) {entry : Option Zone} {body : ZoneBody} (read : rawEntry body = some entry)
    (slow : ∀ box presence caps, body = .slow box presence caps → presence.toNat < 8 ∧
      (presence.getLsbD 0 = false → caps.hoist = 0) ∧ (presence.getLsbD 1 = false → caps.drag = 0) ∧
      (presence.getLsbD 2 = false → caps.swing = 0)) :
    zoneBytes entry = (payloadOf (.editZone which body)).drop 1 := by
  cases body with
  | unused =>
    cases read
    rfl
  | keepOut box m =>
    cases read
    simp only [zoneBytes, boxBytes_map, Margins.map, nat16_toNat]
    rfl
  | slow box presence caps =>
    obtain ⟨short, hoist, drag, swing⟩ := slow box presence caps rfl
    rw [rawEntry, if_pos short] at read
    cases read
    simp only [zoneBytes, boxBytes_map, presenceBit_if, capPresence_eq short, nat16_cap hoist, nat16_cap drag, nat16_cap swing]
    rfl
  | warnOnly box =>
    cases read
    simp only [zoneBytes, boxBytes_map]
    rfl
  | misfit bytes => cases read

/-- Settles O50: the codes by their lists (`valueCodes`, `codesReadBack`), the records byte by byte, and the settings
and zones by their layouts. -/
theorem recordsReadBack : Obligations.RecordsReadBack := by
  unfold Obligations.RecordsReadBack
  refine ⟨valueCodes, codesReadBack, fun s ended => ⟨?_, ?_, ?_, ?_, ?_, ?_⟩⟩
  · intro d status
    simp only [statusRecord, queueStatus_eq, motionStatus, nat16, int16, be16, List.cons_append, List.nil_append] at status
    have byte (i : Nat) := congrArg (byteAt · i) status
    have half (i : Nat) := congrArg (halfAt · i) status
    refine ⟨congrArg List.length status, byte 0, byte 1, byte 2, byte 3, byte 4, byte 5, fun e head => ?_, fun none => ?_,
      byte 8, byte 9, (half 10).trans (extract_append_half _), byte 12, byte 13, byte 14,
      (half 15).trans (extract_append_half _), byte 17, fun m => ?_, (half 34).trans (extract_append_half _),
      (half 36).trans (extract_append_half _), (half 38).trans (extract_append_half _),
      (half 40).trans (extract_append_half _), byte 42, byte 43, byte 44, (byte 45).trans ?_, byte 46, byte 47⟩
    · rw [head] at byte
      exact ⟨byte 6, byte 7⟩
    · rw [none] at byte
      exact ⟨byte 6, byte 7⟩
    · obtain ⟨permit, served, -⟩ := twoFlags_bits (s.shaper.motions.get m).permit (inService s m)
      cases m with
      | hoist => exact ⟨(half 18).trans (extract_append_half _), byte 20, (byte 21) ▸ permit, (byte 21) ▸ served⟩
      | drag => exact ⟨(half 22).trans (extract_append_half _), byte 24, (byte 25) ▸ permit, (byte 25) ▸ served⟩
      | swing => exact ⟨(half 26).trans (extract_append_half _), byte 28, (byte 29) ▸ permit, (byte 29) ▸ served⟩
      | walk => exact ⟨(half 30).trans (extract_append_half _), byte 32, (byte 33) ▸ permit, (byte 33) ▸ served⟩
    · exact congrArg bool8 (Bool.eq_iff_iff.2 ((storeBusy_iff s).trans (by simp)))
  · intro d references
    simp only [referencesRecord, int16, nat32, be16, be32, List.cons_append, List.nil_append] at references
    have byte (i : Nat) := congrArg (byteAt · i) references
    have half (i : Nat) := congrArg (halfAt · i) references
    have word (i : Nat) := congrArg (wordAt · i) references
    refine ⟨congrArg List.length references, (word 0).trans (extract_append_word _),
      fun m => ⟨?_, (byte 12) ▸ motionByte_bit _ m⟩, (half 13).trans (extract_append_half _),
      (half 15).trans (extract_append_half _), byte 17, byte 18, byte 19, (word 20).trans (extract_append_word _)⟩
    cases m <;> exact (half _).trans (extract_append_half _)
  · intro snap d shown
    simp only [snapshotBytes, encoderSampleBytes, analogSampleBytes, nat16, int16, int32, be16, be32, List.cons_append,
      List.nil_append] at shown
    have byte (i : Nat) := congrArg (byteAt · i) shown
    have half (i : Nat) := congrArg (halfAt · i) shown
    have word (i : Nat) := congrArg (wordAt · i) shown
    refine ⟨congrArg List.length shown, (word 0).trans (extract_append_word _), fun e => ?_, fun a => ?_,
      (half 84).trans (extract_append_half _), (half 86).trans (extract_append_half _)⟩
    · cases e <;> exact ⟨byte _, (congrArg BitVec.toNat (byte _)).trans (marksByte_toNat _),
        (word _).trans (extract_append_word _), (word _).trans (extract_append_word _)⟩
    · cases a <;> exact ⟨byte _, (congrArg BitVec.toNat (byte _)).trans (marksByte_toNat _),
        (half _).trans (extract_append_half _), (half _).trans ((extract_append_half _).trans (BitVec.ofNat_toNat ..))⟩
  · rintro start count d rfl
    refine ⟨?_, rfl, (twoFlags_bits _ _).2.2, extract_append_word _, fun i e within held => ?_⟩
    · rw [alarmsData, List.length_append, flatten_entries_length, List.length_take, List.length_drop]
      rfl
    · have taken : ((s.alarms.list.drop start).take count)[i]? = some e := by
        rw [List.getElem?_take_of_lt within, List.getElem?_drop, held]
      rw [← List.drop_drop]
      exact flatten_entries_get taken
  · rintro e d rfl
    obtain ⟨a, b, c, raised, raisedAt⟩ := stampBytes_reads e.raisedAt
    obtain ⟨a', b', c', changed, changedAt⟩ := stampBytes_reads e.changedAt
    have entry : entryBytes e = [alarmCodeCode e.code, sourceCode e.source, detailCode e.detail,
        nat8 ((motionByte e.affected).toNat + 16 * alarmClassCode e.cls + 64 * alarmStateCode e.state),
        nat8 e.occurrences, a, b, c, a', b', c'] := by
      rw [entryBytes, raised, changed]
      rfl
    rw [entry]
    obtain ⟨bits, cls, state⟩ := entryFlags_reads e.affected e.cls e.state
    exact ⟨rfl, rfl, rfl, rfl, bits, cls, state, rfl, raisedAt, changedAt⟩
  · intro half shown b shed which
    refine ⟨fun n presence named shape => ?_, fun e named => ?_, fun a named => ?_, fun g profile calibration other => ?_, ?_,
      rfl, rfl, rfl, ?_, rfl, rfl, rfl, fun entry body read slow => ?_⟩
    · exact (congrArg (Option.map _) named).trans (congrArg some (profileBytes_eq named shape))
    · exact settingBytes_encoder s named
    · exact settingBytes_analog s named
    · exact settingBytes_unnamed profile calibration other s
    · exact congrArg some (associationBytes_eq s.shaper.motions)
    · exact congrArg some (sharingBytes_eq ..)
    · exact zoneBytes_eq which read slow

end Sys2Proof.Machine
end
